-- ==== Sys2Proof/Word.lean ====
section
/-! DEFINITION. The word types of the ZM-740 (R5, R6) and the finite maps that hold its sparse state. -/
namespace Sys2Proof

abbrev W8 := BitVec 8
abbrev W16 := BitVec 16
abbrev W32 := BitVec 32
abbrev W64 := BitVec 64
/-- A Bloom signature (R112). -/
abbrev Sig := BitVec 1024

/-- A finite map from numbers: pairs in strictly rising key order. -/
abbrev FMap (α : Type) := List (Nat × α)

namespace FMap
variable {α : Type}

/-- The value listed at a key, if there is one. -/
def fetch : FMap α → Nat → Option α
  | [], _ => none
  | (k, v) :: m, i => if i = k then some v else fetch m i

/-- Lists a value at a key, in place of any value listed there before. -/
def ins : FMap α → Nat → α → FMap α
  | [], i, x => [(i, x)]
  | (k, v) :: m, i, x =>
    if i < k then (i, x) :: (k, v) :: m else if i = k then (i, x) :: m else (k, v) :: ins m i x

/-- Takes a key off the list. -/
def del : FMap α → Nat → FMap α
  | [], _ => []
  | (k, v) :: m, i => if i = k then del m i else (k, v) :: del m i

/-- The value at a key where an unlisted key holds the default. -/
def at' (d : α) (m : FMap α) (i : Nat) : α := (fetch m i).getD d

/-- A write that keeps the canonical form: the default is never listed. -/
def put [DecidableEq α] (d : α) (m : FMap α) (i : Nat) (x : α) : FMap α :=
  if x = d then del m i else ins m i x

/-- Applies a change to the value listed at a key, if there is one. -/
def upd (m : FMap α) (i : Nat) (f : α → α) : FMap α :=
  match fetch m i with
  | none => m
  | some v => ins m i (f v)

/-- Every key above the bound, strictly rising. -/
def above : Option Nat → FMap α → Bool
  | _, [] => true
  | none, (k, _) :: m => above (some k) m
  | some b, (k, _) :: m => decide (b < k) && above (some k) m

/-- The keys rise strictly. -/
def sorted (m : FMap α) : Bool := above none m

/-- Canonical form of a map with a default: sorted, and the default is not listed. -/
def canon [DecidableEq α] (d : α) (m : FMap α) : Bool := sorted m && m.all fun p => decide (p.2 ≠ d)

/-- Drops the entries whose key meets a test. -/
def dropKeys (m : FMap α) (p : Nat → Bool) : FMap α := m.filter fun e => !p e.1

end FMap

/-- Bit `i` of a word, false beyond its width. -/
def bit {w : Nat} (x : BitVec w) (i : Nat) : Bool := x.getLsbD i

/-- Bits lo to lo + n - 1 of a word, as a number. -/
def bits {w : Nat} (x : BitVec w) (lo n : Nat) : Nat := (x.toNat >>> lo) % 2 ^ n

/-- The number of set bits among the lowest n. -/
def popUpTo {w : Nat} (x : BitVec w) : Nat → Nat
  | 0 => 0
  | n + 1 => popUpTo x n + (if x.getLsbD n then 1 else 0)

/-- The number of set bits (R135). -/
def popcount {w : Nat} (x : BitVec w) : Nat := popUpTo x w

/-- The lanes of a mask, ascending. -/
def lanesOf (m : W32) : List Nat := (List.range 32).filter fun l => m.getLsbD l

/-- The mask with one lane set. -/
def laneBit (l : Nat) : W32 := BitVec.ofNat 32 (2 ^ l)

/-- The mask of a list of lanes. -/
def maskOf (ls : List Nat) : W32 := ls.foldl (fun m l => m ||| laneBit l) 0

/-- The lanes that meet a test, as a mask. -/
def maskWhere (p : Nat → Bool) : W32 := maskOf ((List.range 32).filter p)

/-- The lowest lane of a mask; 0 for the empty mask. -/
def lowLane (m : W32) : Nat := (lanesOf m).headD 0

/-- The highest lane of a mask; 0 for the empty mask. -/
def highLane (m : W32) : Nat := (lanesOf m).getLastD 0

/-- The n low bytes of a number, lowest first (R6). -/
def toBytes (n : Nat) (v : Nat) : List W8 := (List.range n).map fun i => BitVec.ofNat 8 (v >>> (8 * i))

/-- The number whose bytes, lowest first, are given (R6). -/
def ofBytes : List W8 → Nat
  | [] => 0
  | b :: bs => b.toNat + 256 * ofBytes bs

/-- A signed field of n bits, read from a number. -/
def sextNat (n : Nat) (v : Nat) : Int := let m := v % 2 ^ n; if 2 * m < 2 ^ n then (m : Int) else (m : Int) - 2 ^ n

/-- wrap(n, x) of R162. -/
def wrapInt (n : Nat) (x : Int) : Nat := (x % (2 ^ n : Int)).toNat

/-- sext64(b) of R162: a 32-bit pattern extended to 64 bits by its sign. -/
def sext64 (b : W32) : W64 := b.signExtend 64

end Sys2Proof
end

