-- ==== Sys2Proof/Syntax.lean ====
section
/-! DEFINITION. The instruction set and the events of the ZM-740: one constructor of `Instr` per row of the table of
operations and events. Encoded instructions carry the fields of their word (R164, R165) in typed form; events carry the
unit they act on and what comes from outside the device. -/
namespace Sys2Proof

/-- Destination files (R164). -/
inductive DFile where | none | s | a | v | k | acc | t | sys
  deriving DecidableEq, Repr

/-- Source files (R164). -/
inductive SFile where | s | a | v | k | t | acc | imm | sys
  deriving DecidableEq, Repr

/-- A destination: file and register number (or the displacement's high byte in `br`, R177). -/
structure Dst where
  file : DFile
  num : W8
  deriving DecidableEq, Repr

/-- A source: file and register number, or an 8-bit immediate (R169). -/
structure Src where
  file : SFile
  num : W8
  deriving DecidableEq, Repr

/-- The fields that every encoded instruction has (R164, R165): all but OP, FN and MD. -/
structure F where
  x : Bool
  d : Dst
  a : Src
  b : Src
  g : BitVec 3
  gn : Bool
  ru : Bool
  imm8 : W8
  imm32 : W32
  c : Src
  sc : BitVec 3
  rnd : W8
  deriving DecidableEq, Repr

/-- Classes with two datapaths to choose from (R69). -/
inductive Cls where | s | v
  deriving DecidableEq, Repr

/-- Integer types, in the order of MD (R172). -/
inductive ITy where | i32 | u32 | i64 | u64 | i16 | u16 | i8 | u8
  deriving DecidableEq, Repr

/-- Rounding codes 0 to 5 (R145). -/
inductive Rc where | fpctl | rne | rtz | rdn | rup | sr
  deriving DecidableEq, Repr

/-- Ordering codes 0 to 5 (R173). -/
inductive Ord where | plain | acq | rel | ar | np | acqNp
  deriving DecidableEq, Repr

/-- Floating-point groups (R182): class and element format. -/
inductive FpK where | sF32 | sF64 | vF32 | vF64 | vF16x2 | vBf16x2
  deriving DecidableEq, Repr

/-- Formats of the general conversions (R183). -/
inductive CvtFmt where | i32 | u32 | i64 | u64 | f64 | f32 | f16 | bf16
  deriving DecidableEq, Repr

/-- Access sizes of `ld` and `st` (R248). -/
inductive MSize where | u8 | i8 | u16 | i16 | b32 | b64
  deriving DecidableEq, Repr

/-- Types of the integer atomics (R185). -/
inductive AtTy where | u32 | i32 | u64 | i64
  deriving DecidableEq, Repr

/-- Types of the floating atomic add (R185). -/
inductive FaTy where | f32 | f64 | bf16x2
  deriving DecidableEq, Repr

/-- Operations of reductions and scans (R186). -/
inductive RedOp where
  | addI32 | addI64 | addF32 | minI32 | minU32 | maxI32 | maxU32 | minF32 | maxF32 | and | or | xor
  deriving DecidableEq, Repr

/-- Formats of `mma` (R289). -/
inductive MmaFmt where | bf16 | f16 | e4m3 | e5m2 | mxf4 | i8
  deriving DecidableEq, Repr

/-- A wave, by its core and its wave slot (R16). Cores 320 to 327 are the system cores (R39). -/
structure WRef where
  core : Nat
  slot : Nat
  deriving DecidableEq, Repr

/-- Where an uncorrectable error stands (R339, R340): a context of a partition or its spliced successor, and a region of it. -/
structure ArrayHurt where
  ctx : Nat
  succ : Bool
  region : Nat
  deriving DecidableEq, Repr

/-- A request that a context be parked (R341, R406): by the supervisor's command, or by the partition's scheduler. -/
structure ParkAsk where
  ctx : Nat
  sched : Bool
  deriving DecidableEq, Repr

/-- What a scale-up message asks for or brings (R432, R434, R459, R460). -/
inductive LinkMsg where
  | loadReq (pa n : Nat)
  /-- Bytes from `pa` up, of which the mask selects those to write. -/
  | store (pa : Nat) (data : List W8) (mask : List Bool)
  | lineFlit (pa k : Nat) (data : List W8)
  /-- Operation 0 to 7 of R258 at a type, or 8 to 10 for `fadd` of f32, f64 and bf16x2, with the scopes of its release and acquire
  parts, 0 without one. -/
  | atomic (op : Nat) (ty : AtTy) (pa : Nat) (b c : W64) (sig : Sig) (floor rel acq : Nat)
  | release (pa : Nat) (data : List W8) (sig : Sig) (floor scope : Nat)
  | acquire (pa n scope : Nat)
  | arrival (pa : Nat) (poison : Bool) (sig : Sig) (floor scope : Nat)
  | loadResp (pa : Nat) (data : List W8)
  /-- The sender's home performs a write by another party: every copy of the line goes first (R97). -/
  | homeWrite (pa : Nat) (data : List W8)
  /-- The sender flushes the L1s of the domain at scope 5 or 6 (R118). -/
  | flush (scope : Nat)
  deriving DecidableEq, Repr

/-- One constructor per row of the table of operations and events. -/
inductive Instr where
  /-- NOP (R197). -/
  | nop (f : F)
  /-- BR (R199). -/
  | br (f : F)
  /-- BR_NZ (R199). -/
  | brNz (f : F)
  /-- BR_Z (R199). -/
  | brZ (f : F)
  /-- BRX (R200). -/
  | brx (f : F)
  /-- CALL (R201). -/
  | call (f : F)
  /-- CALL_INDIRECT (R201). -/
  | callIndirect (f : F)
  /-- RET (R200). -/
  | ret (f : F)
  /-- JOIN (R203). -/
  | join (f : F)
  /-- YIELD (R204). -/
  | yield (f : F)
  /-- EXIT (R206). -/
  | exit (f : F)
  /-- KILL (R206). -/
  | kill (f : F)
  /-- WAIT (R205). -/
  | wait (f : F)
  /-- TRAP (R208). -/
  | trap (f : F)
  /-- TRET (R210). -/
  | tret (f : F)
  /-- BKPT (R209). -/
  | bkpt (f : F)
  /-- RDSYS (R212). -/
  | rdsys (f : F)
  /-- WRSYS (R213). -/
  | wrsys (f : F)
  /-- KMOV (R178). -/
  | kmov (f : F)
  /-- KAND (R178). -/
  | kand (f : F)
  /-- KOR (R178). -/
  | kor (f : F)
  /-- KXOR (R178). -/
  | kxor (f : F)
  /-- KANDN (R178). -/
  | kandn (f : F)
  /-- KNOT (R178). -/
  | knot (f : F)
  /-- CTXSAVE (R214). -/
  | ctxsave (f : F)
  /-- CTXLOAD (R214). -/
  | ctxload (f : F)
  /-- TLBINV (R215). -/
  | tlbinv (f : F)
  /-- L1INV (R216). -/
  | l1inv (f : F)
  /-- INT_ADD (R220). -/
  | intAdd (c : Cls) (t : ITy) (f : F)
  /-- INT_SUB (R220). -/
  | intSub (c : Cls) (t : ITy) (f : F)
  /-- INT_MUL (R220). -/
  | intMul (c : Cls) (t : ITy) (f : F)
  /-- INT_MULHI (R220). -/
  | intMulhi (c : Cls) (t : ITy) (f : F)
  /-- INT_MAD (R220). -/
  | intMad (c : Cls) (t : ITy) (f : F)
  /-- INT_MIN (R220). -/
  | intMin (c : Cls) (t : ITy) (f : F)
  /-- INT_MAX (R220). -/
  | intMax (c : Cls) (t : ITy) (f : F)
  /-- INT_ABS (R220). -/
  | intAbs (c : Cls) (t : ITy) (f : F)
  /-- INT_NEG (R220). -/
  | intNeg (c : Cls) (t : ITy) (f : F)
  /-- INT_AND (R220). -/
  | intAnd (c : Cls) (t : ITy) (f : F)
  /-- INT_OR (R220). -/
  | intOr (c : Cls) (t : ITy) (f : F)
  /-- INT_XOR (R220). -/
  | intXor (c : Cls) (t : ITy) (f : F)
  /-- INT_ANDN (R220). -/
  | intAndn (c : Cls) (t : ITy) (f : F)
  /-- INT_NOT (R220). -/
  | intNot (c : Cls) (t : ITy) (f : F)
  /-- INT_SHL (R220). -/
  | intShl (c : Cls) (t : ITy) (f : F)
  /-- INT_SHR (R220). -/
  | intShr (c : Cls) (t : ITy) (f : F)
  /-- INT_ROT (R220). -/
  | intRot (c : Cls) (t : ITy) (f : F)
  /-- INT_FSHL (R220). -/
  | intFshl (c : Cls) (t : ITy) (f : F)
  /-- INT_FSHR (R220). -/
  | intFshr (c : Cls) (t : ITy) (f : F)
  /-- INT_BFE (R220). -/
  | intBfe (c : Cls) (t : ITy) (f : F)
  /-- INT_BFI (R220). -/
  | intBfi (c : Cls) (t : ITy) (f : F)
  /-- INT_POPC (R220). -/
  | intPopc (c : Cls) (t : ITy) (f : F)
  /-- INT_CLZ (R220). -/
  | intClz (c : Cls) (t : ITy) (f : F)
  /-- INT_CTZ (R220). -/
  | intCtz (c : Cls) (t : ITy) (f : F)
  /-- INT_BREV (R220). -/
  | intBrev (c : Cls) (t : ITy) (f : F)
  /-- INT_DIV (R220). -/
  | intDiv (c : Cls) (t : ITy) (f : F)
  /-- INT_REM (R220). -/
  | intRem (c : Cls) (t : ITy) (f : F)
  /-- INT_SEL (R220). -/
  | intSel (c : Cls) (t : ITy) (f : F)
  /-- INT_MOV (R223). -/
  | intMov (c : Cls) (t : ITy) (f : F)
  /-- SMOVH (R223). -/
  | smovh (t : ITy) (f : F)
  /-- INT_LEA (R221). -/
  | intLea (c : Cls) (t : ITy) (f : F)
  /-- INT_ADD_SAT (R220). -/
  | intAddSat (c : Cls) (t : ITy) (f : F)
  /-- INT_SUB_SAT (R220). -/
  | intSubSat (c : Cls) (t : ITy) (f : F)
  /-- INT_MUL_SAT (R220). -/
  | intMulSat (c : Cls) (t : ITy) (f : F)
  /-- INT_MAD_SAT (R220). -/
  | intMadSat (c : Cls) (t : ITy) (f : F)
  /-- INT_ABS_SAT (R220). -/
  | intAbsSat (c : Cls) (t : ITy) (f : F)
  /-- INT_NEG_SAT (R220). -/
  | intNegSat (c : Cls) (t : ITy) (f : F)
  /-- INT_CMP_EQ (R220). -/
  | intCmpEq (c : Cls) (t : ITy) (f : F)
  /-- INT_CMP_NE (R220). -/
  | intCmpNe (c : Cls) (t : ITy) (f : F)
  /-- INT_CMP_LT (R220). -/
  | intCmpLt (c : Cls) (t : ITy) (f : F)
  /-- INT_CMP_LE (R220). -/
  | intCmpLe (c : Cls) (t : ITy) (f : F)
  /-- INT_CMP_GT (R220). -/
  | intCmpGt (c : Cls) (t : ITy) (f : F)
  /-- INT_CMP_GE (R220). -/
  | intCmpGe (c : Cls) (t : ITy) (f : F)
  /-- AADD (R225). -/
  | aadd (f : F)
  /-- ASUB (R225). -/
  | asub (f : F)
  /-- ANEG (R225). -/
  | aneg (f : F)
  /-- AMUL (R225). -/
  | amul (f : F)
  /-- ASHL (R225). -/
  | ashl (f : F)
  /-- AMOV (R225). -/
  | amov (f : F)
  /-- ASET (R225). -/
  | aset (f : F)
  /-- ATOS (R226). -/
  | atos (f : F)
  /-- ATOS_LANE (R226). -/
  | atosLane (f : F)
  /-- VTOS (R227). -/
  | vtos (t : ITy) (f : F)
  /-- VTOA (R228). -/
  | vtoa (t : ITy) (f : F)
  /-- FP_ADD (R233). -/
  | fpAdd (k : FpK) (r : Rc) (f : F)
  /-- FP_SUB (R233). -/
  | fpSub (k : FpK) (r : Rc) (f : F)
  /-- FP_MUL (R233). -/
  | fpMul (k : FpK) (r : Rc) (f : F)
  /-- FP_FMA (R233). -/
  | fpFma (k : FpK) (r : Rc) (f : F)
  /-- FP_MIN (R233). -/
  | fpMin (k : FpK) (f : F)
  /-- FP_MAX (R233). -/
  | fpMax (k : FpK) (f : F)
  /-- FP_ABS (R233). -/
  | fpAbs (k : FpK) (f : F)
  /-- FP_NEG (R233). -/
  | fpNeg (k : FpK) (f : F)
  /-- FP_RCP (R159). -/
  | fpRcp (k : FpK) (f : F)
  /-- FP_RSQRT (R159). -/
  | fpRsqrt (k : FpK) (f : F)
  /-- FP_SQRT (R233). -/
  | fpSqrt (k : FpK) (r : Rc) (f : F)
  /-- FP_EXP2 (R159). -/
  | fpExp2 (k : FpK) (f : F)
  /-- FP_LOG2 (R159). -/
  | fpLog2 (k : FpK) (f : F)
  /-- FP_SIN (R159). -/
  | fpSin (k : FpK) (f : F)
  /-- FP_COS (R159). -/
  | fpCos (k : FpK) (f : F)
  /-- FP_CLASS (R234). -/
  | fpClass (k : FpK) (f : F)
  /-- FP_CMP_EQ (R235). -/
  | fpCmpEq (k : FpK) (f : F)
  /-- FP_CMP_NE (R235). -/
  | fpCmpNe (k : FpK) (f : F)
  /-- FP_CMP_LT (R235). -/
  | fpCmpLt (k : FpK) (f : F)
  /-- FP_CMP_LE (R235). -/
  | fpCmpLe (k : FpK) (f : F)
  /-- FP_CMP_GT (R235). -/
  | fpCmpGt (k : FpK) (f : F)
  /-- FP_CMP_GE (R235). -/
  | fpCmpGe (k : FpK) (f : F)
  /-- FP_CMP_UN (R235). -/
  | fpCmpUn (k : FpK) (f : F)
  /-- CVT (R237). -/
  | cvt (c : Cls) (dst src : CvtFmt) (r : Rc) (f : F)
  /-- VCVT_E4M3X2_F32 (R238). -/
  | vcvtE4m3x2F32 (r : Rc) (f : F)
  /-- VCVT_E5M2X2_F32 (R238). -/
  | vcvtE5m2x2F32 (r : Rc) (f : F)
  /-- VCVT_F32_E4M3 (R238). -/
  | vcvtF32E4m3 (f : F)
  /-- VCVT_F32_E5M2 (R238). -/
  | vcvtF32E5m2 (f : F)
  /-- VCVT_MXF4_F32 (R239). -/
  | vcvtMxf4F32 (r : Rc) (f : F)
  /-- VCVT_F32_MXF4 (R240). -/
  | vcvtF32Mxf4 (r : Rc) (f : F)
  /-- LD (R245). -/
  | ld (z : MSize) (o : Ord) (f : F)
  /-- ST (R245). -/
  | st (z : MSize) (o : Ord) (f : F)
  /-- LD_SYNC (R256). -/
  | ldSync (f : F)
  /-- LD_TAKE (R256). -/
  | ldTake (f : F)
  /-- ST_FILL (R256). -/
  | stFill (f : F)
  /-- FE_LANE_COMPLETE (R126). -/
  | feLaneComplete (w : WRef) (e : Nat)
  /-- ATOM_ADD (R258). -/
  | atomAdd (t : AtTy) (o : Ord) (f : F)
  /-- ATOM_MIN (R258). -/
  | atomMin (t : AtTy) (o : Ord) (f : F)
  /-- ATOM_MAX (R258). -/
  | atomMax (t : AtTy) (o : Ord) (f : F)
  /-- ATOM_AND (R258). -/
  | atomAnd (t : AtTy) (o : Ord) (f : F)
  /-- ATOM_OR (R258). -/
  | atomOr (t : AtTy) (o : Ord) (f : F)
  /-- ATOM_XOR (R258). -/
  | atomXor (t : AtTy) (o : Ord) (f : F)
  /-- ATOM_XCHG (R258). -/
  | atomXchg (t : AtTy) (o : Ord) (f : F)
  /-- ATOM_CAS (R258). -/
  | atomCas (t : AtTy) (o : Ord) (f : F)
  /-- ATOM_FADD (R258). -/
  | atomFadd (t : FaTy) (o : Ord) (f : F)
  /-- FENCE_SC (R260). -/
  | fenceSc (f : F)
  /-- FENCE_XP (R261). -/
  | fenceXp (f : F)
  /-- PF (R262). -/
  | pf (f : F)
  /-- PF_L2 (R262). -/
  | pfL2 (f : F)
  /-- CINV (R263). -/
  | cinv (f : F)
  /-- LINECLR (R254). -/
  | lineclr (f : F)
  /-- WOPEN (R265). -/
  | wopen (f : F)
  /-- WSUB (R265). -/
  | wsub (f : F)
  /-- WCLOSE (R266). -/
  | wclose (f : F)
  /-- WUNSUB (R266). -/
  | wunsub (f : F)
  /-- WINDOW_UPDATE (R130). -/
  | windowUpdate (owner off sub : Nat)
  /-- WCB_DRAIN (R96). -/
  | wcbDrain (core slot line : Nat)
  /-- SHFL_IDX (R270). -/
  | shflIdx (f : F)
  /-- SHFL_UP (R270). -/
  | shflUp (f : F)
  /-- SHFL_DN (R270). -/
  | shflDn (f : F)
  /-- SHFL_XOR (R270). -/
  | shflXor (f : F)
  /-- VOTE_ALL (R270). -/
  | voteAll (f : F)
  /-- VOTE_ANY (R270). -/
  | voteAny (f : F)
  /-- VOTE_UNI (R270). -/
  | voteUni (f : F)
  /-- BALLOT (R270). -/
  | ballot (f : F)
  /-- MATCH (R270). -/
  | matchLanes (f : F)
  /-- RED (R271). -/
  | red (op : RedOp) (f : F)
  /-- SCAN (R271). -/
  | scan (op : RedOp) (f : F)
  /-- SCAN_X (R271). -/
  | scanX (op : RedOp) (f : F)
  /-- RENDEZVOUS_COMPLETE (R56). -/
  | rendezvousComplete (w : WRef) (pc : W64)
  /-- BAR_ARR (R274). -/
  | barArr (f : F)
  /-- BAR_WAIT (R274). -/
  | barWait (f : F)
  /-- BAR_SYNC (R274). -/
  | barSync (f : F)
  /-- BAR_PHASE_COMPLETE (R274). -/
  | barPhaseComplete (team b : Nat)
  /-- JARR (R278). -/
  | jarr (f : F)
  /-- JWAIT (R279). -/
  | jwait (f : F)
  /-- TADD (R281). -/
  | tadd (f : F)
  /-- TMIN (R281). -/
  | tmin (f : F)
  /-- TMAX (R281). -/
  | tmax (f : F)
  /-- TAND (R281). -/
  | tand (f : F)
  /-- TOR (R281). -/
  | tor (f : F)
  /-- TXCHG (R281). -/
  | txchg (f : F)
  /-- TCAS (R281). -/
  | tcas (f : F)
  /-- AWAIT_EQ (R282). -/
  | awaitEq (o : Ord) (f : F)
  /-- AWAIT_NE (R282). -/
  | awaitNe (o : Ord) (f : F)
  /-- WAIT_REREAD (R282). -/
  | waitReread (w : WRef) (e : Nat)
  /-- QRES (R284). -/
  | qres (f : F)
  /-- QPUB (R284). -/
  | qpub (f : F)
  /-- QTAKE (R284). -/
  | qtake (f : F)
  /-- MMA (R290). -/
  | mma (t : MmaFmt) (f : F)
  /-- MMA_CLU (R293). -/
  | mmaClu (t : MmaFmt) (f : F)
  /-- ACCLD (R294). -/
  | accld (f : F)
  /-- ACCST (R294). -/
  | accst (f : F)
  /-- ACCZERO (R294). -/
  | acczero (f : F)
  /-- CPARM (R298). -/
  | cparm (f : F)
  /-- CPFIRE (R299). -/
  | cpfire (f : F)
  /-- CPBOOK (R298). -/
  | cpbook (f : F)
  /-- CPBIND (R299). -/
  | cpbind (f : F)
  /-- CPDISARM (R299). -/
  | cpdisarm (f : F)
  /-- COPY_FIRE (R300). -/
  | copyFire (die tpl : Nat)
  /-- COPY_COMPLETE (R302). -/
  | copyComplete (die tpl : Nat)
  /-- SPAWN (R304). -/
  | spawn (f : F)
  /-- SPAWN_PUSH (R305). -/
  | spawnPush (w : WRef) (e : Nat)
  /-- ALAUNCH (R307). -/
  | alaunch (f : F)
  /-- ASPLICE (R308). -/
  | asplice (f : F)
  /-- XRED (R310). -/
  | xred (f : F)
  /-- XRED_CONTRIBUTION (R347). -/
  | xredContribution (die : Nat)
  /-- XRED_TIMEOUT (R310). -/
  | xredTimeout (die tag : Nat)
  /-- BNKOP (R312). -/
  | bnkop (f : F)
  /-- BANK_RUN (R312). -/
  | bankRun (stack : Nat)
  /-- BANK_NOP (R368). -/
  | bankNop (stack : Nat)
  /-- BANK_COPY (R368). -/
  | bankCopy (stack rd ra n : Nat)
  /-- BANK_AND (R368). -/
  | bankAnd (stack rd ra rb n : Nat)
  /-- BANK_OR (R368). -/
  | bankOr (stack rd ra rb n : Nat)
  /-- BANK_XOR (R368). -/
  | bankXor (stack rd ra rb n : Nat)
  /-- BANK_ANDN (R368). -/
  | bankAndn (stack rd ra rb n : Nat)
  /-- BANK_NOT (R368). -/
  | bankNot (stack rd ra n : Nat)
  /-- BANK_ADD (R368). -/
  | bankAdd (stack rd ra rb n : Nat)
  /-- BANK_SUB (R368). -/
  | bankSub (stack rd ra rb n : Nat)
  /-- BANK_SETC (R368). -/
  | bankSetc (stack rd imm n : Nat)
  /-- BANK_LT (R368). -/
  | bankLt (stack rd ra rb n : Nat)
  /-- BANK_MAC8 (R368). -/
  | bankMac8 (stack rd ra imm : Nat)
  /-- BANK_CVTF (R368). -/
  | bankCvtf (stack rd ra imm : Nat)
  /-- BANK_XPOSE (R368). -/
  | bankXpose (stack rd ra : Nat)
  /-- BANK_COMBINE (R313). -/
  | bankCombine (stack : Nat)
  /-- PE_FIRE (R318). -/
  | peFire (stack elem : Nat)
  /-- STEER (R320). -/
  | steer (stack elem : Nat)
  /-- CARRY (R320). -/
  | carry (stack elem : Nat)
  /-- INVARIANT (R320). -/
  | invariant (stack elem : Nat)
  /-- MERGE (R320). -/
  | merge (stack elem : Nat)
  /-- ROUTE_HOP (R316). -/
  | routeHop (stack elem src : Nat)
  /-- READ_PORT_EMIT (R321). -/
  | readPortEmit (stack port : Nat)
  /-- COPY_FED_WORD (R323). -/
  | copyFedWord (stack port : Nat)
  /-- STORE_PORT_CONSUME (R324). -/
  | storePortConsume (stack port : Nat)
  /-- WEIGHT_LOAD (R326). -/
  | weightLoad (stack node : Nat)
  /-- MV_STEP (R327). -/
  | mvStep (stack node : Nat)
  /-- GATE_TOKEN (R329). -/
  | gateToken (stack gate : Nat)
  /-- TRICK_BOUNDARY (R331). -/
  | trickBoundary (stack part : Nat)
  /-- PLANE_CHANGE (R332). -/
  | planeChange (stack part elem : Nat)
  /-- SPLICE_RECONFIG (R333). -/
  | spliceReconfig (stack part ctx elem : Nat)
  /-- MARKER_INJECT (R334). -/
  | markerInject (stack part : Nat)
  /-- MARKER_FORWARD (R335). -/
  | markerForward (stack elem : Nat)
  /-- WAVE_COMMIT (R336). -/
  | waveCommit (stack part ctx : Nat)
  /-- MARKER_STALL (R335). -/
  | markerStall (stack part ctx : Nat)
  /-- ROLLBACK (R339). -/
  | rollback (stack part ctx : Nat)
  /-- PARK_ROTATION (R48). -/
  | parkRotation (w : WRef)
  /-- TEAM_RETIRE (R43). -/
  | teamRetire (team : Nat)
  /-- WDOG (R424). -/
  | wdog (w : WRef)
  /-- FAULT_RECORD (R414). -/
  | faultRecord (die : Nat)
  /-- SQ_TAKE_ENTRY (R394). -/
  | sqTakeEntry (die sq : Nat)
  /-- PLACE_TEAM (R396). -/
  | placeTeam (die : Nat)
  /-- COMPACTION (R400). -/
  | compaction (core : Nat)
  /-- TAKE_HAND (R401). -/
  | takeHand (core : Nat)
  /-- STEAL (R402). -/
  | steal (core : Nat)
  /-- KITTY_TAKE (R403). -/
  | kittyTake (core : Nat)
  /-- HELD_ARRIVAL (R473). -/
  | heldArrival (die i : Nat)
  /-- PREDICATE_TRUE (R331). -/
  | predicateTrue (stack part : Nat)
  /-- ARRAY_COMMAND_DONE (R406). -/
  | arrayCommandDone (stack part : Nat)
  /-- REPLICA_INSTALL (R129). -/
  | replicaInstall (sub owner off : Nat)
  /-- ARRAY_UE (R340). -/
  | arrayUe (stack part : Nat) (hurt : ArrayHurt)
  /-- PREEMPT (R406). -/
  | preempt (stack part : Nat) (ask : ParkAsk)
  /-- SAVE (R406). -/
  | save (stack part ctx : Nat)
  /-- RESTORE (R406). -/
  | restore (stack part ctx : Nat)
  /-- RESUME (R406). -/
  | resume (stack part ctx : Nat)
  /-- STOP (R406). -/
  | stop (stack part ctx : Nat)
  /-- CONFIG_FIELD_WRITE (R361). -/
  | configFieldWrite (stack off : Nat) (v : W32)
  /-- FAILED_ROW_WRITE (R362). -/
  | failedRowWrite (stack i : Nat) (v : W32)
  /-- MELD (R49). -/
  | meld (w : WRef) (e other : Nat)
  /-- TRANSLATION_WALK (R420). -/
  | translationWalk (die tag : Nat) (va : W64)
  /-- REPLAY (R415). -/
  | replay (die : Nat) (srcid : W32) (seq src : Nat)
  /-- DELIVER (R415). -/
  | deliver (die : Nat) (srcid : W32) (seq src code : Nat)
  /-- KILL_CMD (R415). -/
  | killCmd (die : Nat) (srcid : W32) (seq src : Nat)
  /-- KILLTREE (R415). -/
  | killtree (die : Nat) (srcid : W32)
  /-- FQHEAD_WRITE (R410). -/
  | fqheadWrite (die : Nat) (v : W64)
  /-- SCALEUP_MESSAGE (R432). -/
  | scaleupMessage (die member inc : Nat) (msg : LinkMsg)
  /-- HEARTBEAT_SEND (R433). -/
  | heartbeatSend
  /-- HEARTBEAT (R433). -/
  | heartbeat (die m : Nat)
  /-- HEARTBEAT_MISS (R433). -/
  | heartbeatMiss (die m : Nat)
  /-- FENCE (R433). -/
  | fence (die m : Nat)
  /-- DEAD (R433). -/
  | dead (die m : Nat)
  /-- RECMAX_EXPIRE (R433). -/
  | recmaxExpire (die m : Nat)
  /-- READMIT (R433). -/
  | readmit (die m inc : Nat)
  /-- ASSIGN (R461). -/
  | assign (die m inc : Nat)
  /-- LEAVE (R461). -/
  | leave (die : Nat)
  /-- SCRUB (R435). -/
  | scrub (die m : Nat)
  /-- LINK_PORT (R458). -/
  | linkPort (port : Nat) (up : Bool)
  /-- LINK_LANE (R466). -/
  | linkLane (port : Nat) (mask : W8)
  /-- HOST_ACCESS (R455). -/
  | hostAccess (port : Nat) (addr : W64) (n : Nat) (data : Option (List W8))
  /-- HOST_RELEASE (R456). -/
  | hostRelease (port : Nat) (addr : W64) (data : List W8)
  /-- COLD_RESET (R463). -/
  | coldReset
  /-- WARM_RESET (R463). -/
  | warmReset
  /-- DRAM_READY (R463). -/
  | dramReady
  /-- BOOTPC (R464). -/
  | bootpc (die : Nat) (v : W64)
  /-- SYSROOT (R465). -/
  | sysroot (die : Nat) (v : W64)
  /-- RUN (R465). -/
  | run (die : Nat) (v : W32)
  /-- SQD (R465). -/
  | sqd (die q : Nat) (v : W64)
  /-- TELEMETRY_SAMPLE (R468). -/
  | telemetrySample (die : Nat) (pwr tdie : W16) (clt : List W16) (stk : List W32)
  /-- DRAIN (R470). -/
  | drain (die cl : Nat)
  /-- UNDRAIN (R470). -/
  | undrain (die cl : Nat)
  /-- MEASURE (R470). -/
  | measure (die cl : Nat)
  /-- MEASURE_DONE (R470). -/
  | measureDone (die : Nat) (margin : W8)
  /-- SETV (R470). -/
  | setv (die cl voff : Nat)
  /-- SETV_DONE (R470). -/
  | setvDone (die : Nat)
  /-- RETIRE (R470). -/
  | retire (die cl : Nat)
  /-- UNRETIRE (R470). -/
  | unretire (die cl : Nat)
  /-- ARRAY_RESET (R469). -/
  | arrayReset (stack : Nat)
  /-- CLRCNT (R467). -/
  | clrcnt (die : Nat)
  /-- REGISTER_WRITE (R410). -/
  | registerWrite (addr : W64) (n : Nat) (v : W64)
  /-- PLACEMENT_STARVATION (R395). -/
  | placementStarvation (die : Nat)
  /-- HANDLER_FREEZE (R68). -/
  | handlerFreeze (core tag : Nat)
  /-- WAVE_BOOST (R64). -/
  | waveBoost (w : WRef)
  /-- YIELD_EXPIRE (R204). -/
  | yieldExpire (w : WRef)
  /-- WAIT_EXPIRE (R205). -/
  | waitExpire (w : WRef) (e : Nat)
  deriving DecidableEq, Repr

end Sys2Proof
end

