-- ==== Sys2Proof/Machine/Forms.lean ====
section
/-! DEFINITION. The legality of every encoded form: the operand files, numbers, extension fields, guards and immediates of
R165 to R187 with the tables of the instruction chapters (R197, R217, R222, R225, R229, R236, R241, R257, R264, R267,
R274, R278, R280, R282, R284, R287). -/
namespace Sys2Proof

/-- Why a word is no instruction: the check of R174 that fails first. -/
inductive DecodeErr where
  | opcode | function | modifier | destination | sourceA | sourceB | sourceC | immediates | needsExtension
  | extension | scope | guard | reuse | imm8 | length
  deriving DecidableEq, Repr

namespace Forms

/-- System registers of R85: number, has class A, is 64 bits wide, may be written by `wrsys`. -/
def sysRegs : List (Nat × Bool × Bool × Bool) :=
  [(0x00, true, false, false), (0x01, false, false, false), (0x02, false, false, false), (0x03, false, false, false),
   (0x04, false, false, false), (0x05, false, false, false), (0x08, false, false, true), (0x09, false, false, true),
   (0x0A, false, false, true), (0x10, false, true, true), (0x11, false, false, false)] ++
  ((List.range 16).map fun i => (0x20 + i, false, true, true)) ++
  [(0x30, false, true, true), (0x31, false, false, true), (0x38, false, true, true)]

/-- The row of R85 for a number. -/
def sysReg (n : Nat) : Option (Bool × Bool × Bool) := (sysRegs.find? fun r => r.1 == n).map fun r => r.2

/-- What a form allows in its fields. -/
structure Spec where
  /-- Destination files. -/
  d : List DFile := [.none]
  /-- Source files; an empty list is an operand the form does not take. -/
  a : List SFile := []
  b : List SFile := []
  c : List SFile := []
  /-- 64-bit varying operands (R72). -/
  dPair : Bool := false
  aPair : Bool := false
  bPair : Bool := false
  cPair : Bool := false
  /-- The form needs the extension word (R166). -/
  needX : Bool := false
  /-- The form uses IMM32 for a purpose of its own (R166). -/
  ownImm : Bool := false
  useSc : Bool := false
  /-- The file of RND when MD = 5 (R165). -/
  rnd : Option SFile := none
  guardOk : Bool := false
  /-- Least and greatest IMM8. -/
  imm8Lo : Nat := 0
  imm8Hi : Nat := 0
  /-- Greatest value of an immediate source. -/
  immMax : Option Nat := none
  /-- A check of the form's own. -/
  extra : Bool := true

/-- A register number lies within its file (R167), and a pair is even (R72). -/
def srcNum (p : Bool) (o : Src) : Bool :=
  match o.file with
  | .s => o.num.toNat ≤ 63
  | .a => o.num.toNat ≤ 31
  | .v => !p || o.num.toNat % 2 == 0
  | .k => o.num.toNat ≤ 7
  | .t => o.num.toNat ≤ 15
  | .acc => o.num.toNat ≤ 7
  | .imm => true
  | .sys => (sysReg o.num.toNat).isSome

/-- A destination number lies within its file; k0 is no destination (R78, R167). -/
def dstNum (p : Bool) (o : Dst) : Bool :=
  match o.file with
  | .none => o.num == 0
  | .s => o.num.toNat ≤ 63
  | .a => o.num.toNat ≤ 31
  | .v => !p || o.num.toNat % 2 == 0
  | .k => 1 ≤ o.num.toNat && o.num.toNat ≤ 7
  | .acc => o.num.toNat ≤ 7
  | .t => o.num.toNat ≤ 15
  | .sys => (sysReg o.num.toNat).isSome

/-- An operand the form takes has a legal file and number; one it does not take is zero (R168). -/
def srcOk (files : List SFile) (p : Bool) (o : Src) : Bool :=
  if files.isEmpty then o.file == .s && o.num == 0 else files.contains o.file && srcNum p o

/-- How many operands have file 6 (R169). -/
def immCount (f : F) : Nat :=
  (if f.a.file = .imm then 1 else 0) + (if f.b.file = .imm then 1 else 0) + (if f.c.file = .imm then 1 else 0)

/-- An immediate's register field is zero where its value lies in IMM32 (R169). -/
def immField (own : Bool) (f : F) (o : Src) : Bool := !(o.file == .imm && f.x && !own) || o.num == 0

/-- The value of an immediate operand (R169). -/
def immValue (own : Bool) (f : F) (o : Src) : W64 :=
  if f.x && !own then f.imm32.signExtend 64 else o.num.signExtend 64

/-- An immediate source is at most the form's limit, read as a signed number that must not be negative. -/
def immLimit (p : Spec) (f : F) : Bool :=
  match p.immMax with
  | none => true
  | some m =>
    let ok := fun o : Src => o.file != .imm || (immValue p.ownImm f o).toNat ≤ m
    ok f.a && ok f.b && ok f.c

/-- The checks of R174 on the fields, in its order, after OP, FN and MD. `brDisp` says that D is a displacement. -/
def check (p : Spec) (brDisp : Bool) (f : F) : Option DecodeErr :=
  if !(p.d.contains f.d.file && (brDisp || dstNum p.dPair f.d)) then some .destination
  else if !(srcOk p.a p.aPair f.a) then some .sourceA
  else if !(srcOk p.b p.bPair f.b) then some .sourceB
  else if !(srcOk p.c p.cPair f.c) then some .sourceC
  else if !(immCount f ≤ 1 && immField p.ownImm f f.a && immField p.ownImm f f.b && immField p.ownImm f f.c
            && immLimit p f) then some .immediates
  else if p.needX && !f.x then some .needsExtension
  else if !((f.x && (p.ownImm || immCount f == 1)) || f.imm32 == 0) then some .extension
  else if !(p.rnd.isSome || f.rnd == 0) then some .extension
  else if !(p.rnd != some .s || f.rnd.toNat ≤ 63) then some .extension
  else if !(f.x || (f.sc == 0 && f.rnd == 0)) then some .extension
  else if f.sc == 7 || !(p.useSc || f.sc == 0) then some .scope
  else if (f.g == 0 && f.gn) || (!p.guardOk && (f.g != 0 || f.gn)) then some .guard
  else if f.ru && f.a.file != .v then some .reuse
  else if !(p.imm8Lo ≤ f.imm8.toNat && f.imm8.toNat ≤ p.imm8Hi) then some .imm8
  else if !p.extra then some .extension
  else none

def sSrc : List SFile := [.s, .k, .t, .imm]
def vSrc : List SFile := [.s, .a, .v, .t, .imm]

/-- The width of an integer type in bits (R136). -/
def tyBits : ITy → Nat
  | .i32 | .u32 => 32 | .i64 | .u64 => 64 | .i16 | .u16 => 16 | .i8 | .u8 => 8

def wide (t : ITy) : Bool := tyBits t == 64

/-- A typed integer form of `n` sources (R180, R217). -/
def int (c : Cls) (t : ITy) (n : Nat) (lo hi : Nat := 0) : Spec :=
  let src := match c with | .s => sSrc | .v => vSrc
  let p := c == .v && wide t
  { d := match c with | .s => [.s, .t] | .v => [.v]
    a := src, b := if 2 ≤ n then src else [], c := if 3 ≤ n then src else []
    dPair := p, aPair := p, bPair := p, cPair := p
    needX := 3 ≤ n, guardOk := c == .v, imm8Lo := lo, imm8Hi := hi }

/-- An integer compare (R180). -/
def intCmp (c : Cls) (t : ITy) : Spec :=
  { int c t 2 with d := match c with | .s => [.s, .t] | .v => [.k] }

/-- `sel` (R222). -/
def sel (c : Cls) (t : ITy) : Spec :=
  { int c t 3 with c := match c with | .s => [.s] | .v => [.k], cPair := false }

/-- `lea` (R221): types 0 to 3, a shift in IMM8, and a single register in B. -/
def lea (c : Cls) (t : ITy) : Spec :=
  { int c t 2 0 63 with bPair := false, extra := 32 ≤ tyBits t }

def fpCls : FpK → Cls
  | .sF32 | .sF64 => .s
  | _ => .v

def fpWide : FpK → Bool
  | .sF64 | .vF64 => true
  | _ => false

def fpPacked : FpK → Bool
  | .vF16x2 | .vBf16x2 => true
  | _ => false

/-- A floating-point form of `n` sources (R229). -/
def fp (k : FpK) (n : Nat) (sr : Bool := false) : Spec :=
  let c := fpCls k
  let src := match c with | .s => sSrc | .v => vSrc
  let p := c == .v && fpWide k
  { d := match c with | .s => [.s, .t] | .v => [.v]
    a := src, b := if 2 ≤ n then src else [], c := if 3 ≤ n then src else []
    dPair := p, aPair := p, bPair := p, cPair := p
    needX := 3 ≤ n || sr, guardOk := c == .v
    rnd := if sr then some (match c with | .s => .s | .v => .v) else none }

/-- A special function that has no FP64 form (R182). -/
def fpSpecial (k : FpK) : Spec := { fp k 1 with extra := !fpWide k }

/-- A floating compare, with no packed form (R182). -/
def fpCmp (k : FpK) : Spec :=
  { fp k 2 with d := match fpCls k with | .s => [.s, .t] | .v => [.k], extra := !fpPacked k }

def cvtWide : CvtFmt → Bool
  | .i64 | .u64 | .f64 => true
  | _ => false

def cvtInt : CvtFmt → Bool
  | .i32 | .u32 | .i64 | .u64 => true
  | _ => false

/-- A general conversion (R183, R236). -/
def cvt (c : Cls) (dst src : CvtFmt) (r : Rc) : Spec :=
  { fp (match c with | .s => .sF32 | .v => .vF32) 1 (r == .sr) with
    dPair := c == .v && cvtWide dst, aPair := c == .v && cvtWide src, imm8Hi := 1
    extra := !(dst == src) && !(cvtInt dst && cvtInt src) }

/-- A narrow conversion of OP 0x71 (R238). -/
def narrow (n : Nat) (sr : Bool) (hi : Nat := 0) : Spec := { fp .vF32 n sr with imm8Hi := hi }

/-- A memory form (R184): an address in A, an offset in IMM8 or IMM32. -/
def mem (f : F) (p : Spec) : Spec :=
  { p with ownImm := true, imm8Hi := if f.x then 0 else 255, aPair := true }

def addrSrc : List SFile := [.s, .a, .v]

/-- An s destination is legal only with an s address, and takes no guard (R241). -/
def sDestOk (f : F) : Bool := f.d.file != .s || f.a.file == .s

def rdv (p : Spec) : Spec := { p with imm8Hi := 7 }

/-- A team-register form (R280). -/
def treg (f : F) (cas : Bool) : Spec :=
  let v := f.a.file == .v || (cas && f.c.file == .v)
  { d := [.none, .s, .v], a := [.s, .v, .imm], c := if cas then [.s, .v, .imm] else [], needX := cas
    guardOk := v, imm8Hi := 15, extra := !(v && f.d.file == .s) }

def ordNeedsScope : Ord → Bool
  | .acq | .rel | .ar | .acqNp => true
  | .plain | .np => false

/-- An atomic (R257). -/
def atom (f : F) (o : Ord) (is64 cas : Bool) : Spec :=
  mem f { d := [.none, .s, .v], a := addrSrc, b := [.s, .v, .imm], c := if cas then [.s, .v, .imm] else []
          dPair := is64, bPair := is64, cPair := is64
          needX := cas || ordNeedsScope o, useSc := ordNeedsScope o, guardOk := f.d.file != .s
          extra := (f.d.file != .s || (f.a.file == .s && f.b.file != .v && f.c.file != .v))
                   && (o == .plain || o == .acq || o == .rel || o == .ar) }

def atWide : AtTy → Bool
  | .u64 | .i64 => true
  | _ => false

def size64 : MSize → Bool
  | .b64 => true
  | _ => false

/-- An engine form with a descriptor in A and a number in B (R287). -/
def engine (max : Option Nat) : Spec := { a := [.s], b := [.s, .imm], immMax := max }

/-- The form of an encoded instruction and its fields; nothing for an event. -/
def spec : Instr → Option (Spec × F)
  | .nop f => some ({ guardOk := true }, f)
  | .br f => some ({ ownImm := true, guardOk := true, imm8Hi := if f.x then 0 else 255
                     extra := f.imm32.toNat % 8 == 0 && (!f.x || f.d.num == 0) }, f)
  | .brNz f | .brZ f =>
    some ({ a := [.s, .k, .v, .t], ownImm := true, guardOk := true, imm8Hi := if f.x then 0 else 255
            extra := f.imm32.toNat % 8 == 0 && (!f.x || f.d.num == 0) }, f)
  | .brx f | .ret f => some ({ a := [.s, .v], aPair := true, guardOk := true }, f)
  | .call f => some ({ d := [.s, .v], dPair := true, needX := true, ownImm := true, guardOk := f.d.file == .v
                       extra := f.imm32.toNat % 8 == 0 }, f)
  | .callIndirect f => some ({ d := [.s, .v], dPair := true, a := [.s, .v], aPair := true, guardOk := f.d.file == .v }, f)
  | .join f | .kill f => some ({ a := [.k] }, f)
  | .yield f | .tret f | .l1inv f => some ({}, f)
  | .exit f => some ({ guardOk := true }, f)
  | .wait f => some ({ a := [.s, .imm] }, f)
  | .trap f | .bkpt f => some ({ imm8Hi := 255 }, f)
  | .rdsys f =>
    let r := sysReg f.a.num.toNat
    some ({ d := [.s, .a, .v], a := [.sys], guardOk := f.d.file == .v
            dPair := (r.map fun x => x.2.1).getD false
            extra := !(f.d.file == .s && (r.map fun x => x.1).getD false) }, f)
  | .wrsys f => some ({ d := [.sys], a := [.s, .imm]
                        extra := ((sysReg f.d.num.toNat).map fun x => x.2.2).getD false }, f)
  | .kmov f | .knot f => some ({ d := [.k], a := [.k, .s, .imm], guardOk := true }, f)
  | .kand f | .kor f | .kxor f | .kandn f =>
    some ({ d := [.k], a := [.k, .s, .imm], b := [.k, .s, .imm], guardOk := true }, f)
  | .ctxsave f | .ctxload f => some ({ a := [.s] }, f)
  | .tlbinv f => some ({ a := [.s], b := [.s, .imm], immMax := some 3 }, f)
  | .intAdd c t f | .intSub c t f | .intMul c t f | .intMulhi c t f | .intMin c t f | .intMax c t f
  | .intAnd c t f | .intOr c t f | .intXor c t f | .intAndn c t f | .intShl c t f | .intShr c t f | .intRot c t f
  | .intDiv c t f | .intRem c t f | .intAddSat c t f | .intSubSat c t f | .intMulSat c t f => some (int c t 2, f)
  | .intMad c t f | .intFshl c t f | .intFshr c t f | .intMadSat c t f => some (int c t 3, f)
  | .intAbs c t f | .intNeg c t f | .intNot c t f | .intPopc c t f | .intClz c t f | .intCtz c t f | .intBrev c t f
  | .intMov c t f | .intAbsSat c t f | .intNegSat c t f => some (int c t 1, f)
  | .intBfe c t f => some (int c t 2 1 (tyBits t), f)
  | .intBfi c t f => some (int c t 3 1 (tyBits t), f)
  | .intSel c t f => some (sel c t, f)
  | .smovh t f => some ({ int .s t 1 with extra := wide t }, f)
  | .intLea c t f => some (lea c t, f)
  | .intCmpEq c t f | .intCmpNe c t f | .intCmpLt c t f | .intCmpLe c t f | .intCmpGt c t f | .intCmpGe c t f =>
    some (intCmp c t, f)
  | .aadd f | .asub f => some ({ d := [.a], a := [.s, .a, .imm], b := [.s, .a, .imm] }, f)
  | .aneg f => some ({ d := [.a], a := [.a] }, f)
  | .amul f => some ({ d := [.a], a := [.a], b := [.s, .imm] }, f)
  | .ashl f => some ({ d := [.a], a := [.a], b := [.s, .imm], immMax := some 63 }, f)
  | .amov f => some ({ d := [.a], a := [.s, .a, .imm] }, f)
  | .aset f => some ({ d := [.a], a := [.s, .imm], b := [.s, .imm] }, f)
  | .atos f => some ({ d := [.s], a := [.a] }, f)
  | .atosLane f => some ({ d := [.s], a := [.a], imm8Hi := 31 }, f)
  | .vtos t f => some ({ d := [.s], a := [.v], aPair := wide t, extra := 32 ≤ tyBits t }, f)
  | .vtoa t f => some ({ d := [.a], a := [.v], aPair := wide t, extra := 32 ≤ tyBits t }, f)
  | .fpAdd k r f | .fpSub k r f | .fpMul k r f => some (fp k 2 (r == .sr), f)
  | .fpFma k r f => some (fp k 3 (r == .sr), f)
  | .fpMin k f | .fpMax k f => some (fp k 2, f)
  | .fpAbs k f | .fpNeg k f | .fpRcp k f | .fpRsqrt k f => some (fp k 1, f)
  | .fpSqrt k r f => some (fp k 1 (r == .sr), f)
  | .fpExp2 k f | .fpLog2 k f | .fpSin k f | .fpCos k f => some (fpSpecial k, f)
  | .fpClass k f => some ({ fp k 1 with dPair := false, extra := !fpPacked k }, f)
  | .fpCmpEq k f | .fpCmpNe k f | .fpCmpLt k f | .fpCmpLe k f | .fpCmpGt k f | .fpCmpGe k f | .fpCmpUn k f =>
    some (fpCmp k, f)
  | .cvt c dst src r f => some (cvt c dst src r, f)
  | .vcvtE4m3x2F32 r f | .vcvtE5m2x2F32 r f => some (narrow 2 (r == .sr), f)
  | .vcvtF32E4m3 f | .vcvtF32E5m2 f => some (narrow 1 false 3, f)
  | .vcvtMxf4F32 r f => some (narrow 1 (r == .sr), f)
  | .vcvtF32Mxf4 r f => some (narrow 2 (r == .sr) 31, f)
  | .ld z o f =>
    some (mem f { d := [.s, .v], a := addrSrc, dPair := size64 z, needX := ordNeedsScope o, useSc := ordNeedsScope o
                  guardOk := f.d.file != .s
                  extra := sDestOk f && (o == .plain || o == .acq || o == .np || o == .acqNp) }, f)
  | .st z o f =>
    some (mem f { a := addrSrc, b := [.s, .v, .imm], bPair := size64 z, needX := ordNeedsScope o
                  useSc := ordNeedsScope o, guardOk := true
                  extra := (z != .i8 && z != .i16) && (o == .plain || o == .rel) }, f)
  | .ldSync f | .ldTake f => some (mem f { d := [.v], a := addrSrc, guardOk := true }, f)
  | .stFill f => some (mem f { a := addrSrc, b := [.s, .v, .imm], guardOk := true }, f)
  | .atomAdd t o f | .atomMin t o f | .atomMax t o f | .atomAnd t o f | .atomOr t o f | .atomXor t o f
  | .atomXchg t o f => some (atom f o (atWide t) false, f)
  | .atomCas t o f => some (atom f o (atWide t) true, f)
  | .atomFadd t o f => some (atom f o (t == .f64) false, f)
  | .fenceSc f => some ({ needX := true, useSc := true }, f)
  | .fenceXp f | .cinv f => some ({ a := [.s], b := [.s, .imm] }, f)
  | .pf f | .pfL2 f => some (mem f { a := addrSrc, guardOk := true }, f)
  | .lineclr f => some ({ a := [.s] }, f)
  | .wopen f => some ({ d := [.none, .s, .v], a := [.s, .imm], b := [.s, .imm], imm8Hi := 1 }, f)
  | .wsub f => some ({ d := [.none, .s, .v], a := [.s, .imm], b := [.s, .imm] }, f)
  | .wclose f => some ({ a := [.s, .imm] }, f)
  | .wunsub f => some ({ a := [.s, .imm], b := [.s, .imm] }, f)
  | .shflIdx f | .shflUp f | .shflDn f | .shflXor f =>
    some (rdv { d := [.v], a := [.s, .v], b := [.s, .v, .imm] }, f)
  | .voteAll f | .voteAny f | .voteUni f => some (rdv { d := [.k], a := [.s, .v] }, f)
  | .ballot f => some (rdv { d := [.s, .v], a := [.s, .v, .k] }, f)
  | .matchLanes f => some (rdv { d := [.k], a := [.v] }, f)
  | .red op f => some (rdv { d := [.s, .v], a := [.v], aPair := op == .addI64, dPair := op == .addI64 }, f)
  | .scan op f | .scanX op f => some (rdv { d := [.v], a := [.v], aPair := op == .addI64, dPair := op == .addI64 }, f)
  | .barArr f | .barSync f => some ({ a := [.s, .imm], imm8Hi := 63 }, f)
  | .barWait f => some ({ imm8Hi := 63 }, f)
  | .jarr f => some ({ a := [.s], b := [.s, .imm], immMax := some 1, needX := true, useSc := true, extra := f.sc != 0 }, f)
  | .jwait f => some ({ d := [.none, .s, .v], dPair := true, a := [.s], needX := true, useSc := true, extra := f.sc != 0 }, f)
  | .tadd f | .tmin f | .tmax f | .tand f | .tor f | .txchg f => some (treg f false, f)
  | .tcas f => some (treg f true, f)
  | .awaitEq o f | .awaitNe o f =>
    some ({ a := [.s], b := [.s, .imm], ownImm := true, imm8Hi := if f.x then 0 else 255, needX := ordNeedsScope o
            useSc := ordNeedsScope o, extra := o == .plain || o == .acq }, f)
  | .qres f | .qtake f => some ({ d := [.s, .v], dPair := true, a := [.s] }, f)
  | .qpub f => some ({ a := [.s], b := [.s, .v], bPair := true }, f)
  | .mma t f => some ({ d := [.acc], a := [.v], b := [.s]
                        extra := f.a.num.toNat ≤ (if t = .mxf4 then 239 else 240) }, f)
  | .mmaClu t f => some ({ d := [.acc], a := [.v], b := [.s]
                           extra := f.a.num.toNat ≤ (if t = .mxf4 then 239 else 240) && f.d.num == 0 }, f)
  | .accld f => some ({ d := [.acc], a := [.s] }, f)
  | .accst f => some ({ a := [.acc], b := [.s] }, f)
  | .acczero f => some ({ d := [.acc] }, f)
  | .cparm f | .cpbook f => some (engine (some 255), f)
  | .cpfire f | .cpbind f => some (engine (some 63), f)
  | .cpdisarm f => some (engine (some 1), f)
  | .spawn f | .bnkop f => some ({ a := [.s] }, f)
  | .alaunch f => some (engine none, f)
  | .asplice f => some (engine (some 3), f)
  | .xred f => some (engine (some 65535), f)
  | .feLaneComplete _ _ | .windowUpdate _ _ _ | .wcbDrain _ _ _ | .rendezvousComplete _ _ | .barPhaseComplete _ _
  | .waitReread _ _ | .copyFire _ _ | .copyComplete _ _ | .spawnPush _ _ | .xredContribution _ | .xredTimeout _ _
  | .bankRun _ | .bankNop _ | .bankCopy _ _ _ _ | .bankAnd _ _ _ _ _ | .bankOr _ _ _ _ _ | .bankXor _ _ _ _ _
  | .bankAndn _ _ _ _ _ | .bankNot _ _ _ _ | .bankAdd _ _ _ _ _ | .bankSub _ _ _ _ _ | .bankSetc _ _ _ _
  | .bankLt _ _ _ _ _ | .bankMac8 _ _ _ _ | .bankCvtf _ _ _ _ | .bankXpose _ _ _ | .bankCombine _
  | .peFire _ _ | .steer _ _ | .carry _ _ | .invariant _ _ | .merge _ _ | .routeHop _ _ _ | .readPortEmit _ _
  | .copyFedWord _ _ | .storePortConsume _ _ | .weightLoad _ _ | .mvStep _ _ | .gateToken _ _ | .trickBoundary _ _
  | .planeChange _ _ _ | .spliceReconfig _ _ _ _ | .markerInject _ _ | .markerForward _ _ | .waveCommit _ _ _
  | .markerStall _ _ _ | .rollback _ _ _ | .arrayUe _ _ _ | .preempt _ _ _ | .save _ _ _ | .restore _ _ _
  | .resume _ _ _ | .stop _ _ _ | .configFieldWrite _ _ _ | .failedRowWrite _ _ _ | .parkRotation _ | .meld _ _ _
  | .waveBoost _ | .yieldExpire _ | .waitExpire _ _ | .teamRetire _ | .wdog _ | .handlerFreeze _ _
  | .translationWalk _ _ _ | .faultRecord _ | .replay _ _ _ _ | .deliver _ _ _ _ _ | .killCmd _ _ _ _ | .killtree _ _
  | .fqheadWrite _ _ | .sqTakeEntry _ _ | .placeTeam _ | .placementStarvation _ | .compaction _ | .takeHand _
  | .steal _ | .kittyTake _ | .heldArrival _ _ | .scaleupMessage _ _ _ _ | .heartbeatSend | .heartbeat _ _
  | .heartbeatMiss _ _ | .fence _ _ | .dead _ _ | .recmaxExpire _ _ | .readmit _ _ _ | .assign _ _ _ | .leave _
  | .scrub _ _ | .linkPort _ _ | .linkLane _ _ | .hostAccess _ _ _ _ | .hostRelease _ _ _ | .coldReset | .warmReset
  | .dramReady | .bootpc _ _ | .sysroot _ _ | .run _ _ | .sqd _ _ _ | .telemetrySample _ _ _ _ _ | .drain _ _
  | .undrain _ _ | .measure _ _ | .measureDone _ _ | .setv _ _ _ | .setvDone _ | .retire _ _ | .unretire _ _
  | .arrayReset _ | .clrcnt _ | .registerWrite _ _ _ | .predicateTrue _ _ | .arrayCommandDone _ _
  | .replicaInstall _ _ _ => none

/-- D of a short branch is the high byte of its displacement (R177). -/
def isBr : Instr → Bool
  | .br _ | .brNz _ | .brZ _ => true
  | _ => false

end Forms
end Sys2Proof
end

