-- ==== Sys2Proof/Config.lean ====
section
/-! DEFINITION. The free values of the model: what the spec leaves open (the log entries named below). Each is a constant
with no body, so nothing can be proved about its value. -/
namespace Sys2Proof.Config

/-- Whether an L1 copy that no rule has removed is gone all the same, by replacement (R20, R99; log entry 3). -/
opaque l1Gone : Nat → Bool

/-- Which copy leaves a full L1 or L2 (R20, R21; log entry 3). -/
opaque victim : Nat → Nat

/-- Whether a fetch takes the word held in the instruction cache in place of a newer one in memory (R202; log entry 3). -/
opaque icacheOld : Nat → Bool

/-- Whether a dirty L2 line has been written to DRAM before an array or a bank operation reads it (R36; log entry 4). -/
opaque l2WroteBack : Nat → Bool

/-- A byte of a member's memory (space 0 to 143) or of the host's (space 256) that nothing has written (R95; log entry 6). -/
opaque envByte : Nat → Nat → W8

/-- A special function's result in FP32 within its bound (R159, R161): function code, FTZ, input (log entry 7). -/
opaque special32 : Nat → Bool → W32 → W32

/-- A special function's result in FP64 within its bound (R159, R161; log entry 7). -/
opaque special64 : Nat → Bool → W64 → W64

/-- The data of a token that a port makes from poisoned DRAM (R322; log entry 8). -/
opaque psnData : Nat → W64

/-- Signature and floor in a peer's answer to an acquire (R460; log entry 6). -/
opaque peerSig : Nat → Sig
opaque peerFloor : Nat → BitVec 3

/-- Whether a release at a member's line fills the slot there, so that the member flushes every L1 (R460; log entry 6). -/
opaque peerFlush : Nat → Bool

/-- The length, below 4 GiB, that the header of an array's save area holds (R406; log entry 31). -/
opaque saveLen : Nat → W32

/-- The parameter register of a successor, which `asplice` does not give (R308, R331; log entry 30). -/
opaque spliceParam : Nat → W64

/-- What a sensor of the device reads at a sample or a measurement (R467, R468, R470; log entry 15). -/
opaque sensor : Nat → W16

end Sys2Proof.Config
end

