-- ==== Sys2Proof/Machine/State.lean ====
section
/-! DEFINITION. The state of the ZM-740 as plain data: every piece of state that the spec names (INVENTORY.md, State), and
the state after reset. Finite maps list only what is present or differs from the value an unlisted key holds. -/
namespace Sys2Proof.Machine

/-- Fault codes 0x00 to 0x0E (R407). -/
inductive Code where
  | trap | illop | unconv | afovf | misalign | page | prot | poison | remdead | accfirst | bkpt | wdog | nestdepth
  | eccu | splitx
  deriving DecidableEq, Repr

/-- Why a split that stands at an instruction does not issue: the form that holds it (R55, R126, R274, R279, R282, R299,
R305, R129, R293, R214, R434, R436). -/
inductive Stall where
  | none
  | records
  | bar (b : Nat)
  /-- The member whose recovery holds the last read back, if one does (R436). -/
  | word (held : Option Nat)
  | fullEmpty
  | kitty
  | queue (q : Nat)
  | disarm (tpl : Nat) (all : Bool)
  /-- An access whose line is homed on a member that is RECOVERING (R425, R436). -/
  | member (m : Nat)
  /-- An access at a line that a member holds reserved at its home here (R434). -/
  | reserved (line : Nat)
  /-- A load through a window waits for its team's replica (R129). -/
  | replica (owner off : Nat)
  /-- A store through a window waits for the window's owner, which is saved in a context record (R134; log entry 46). -/
  | owner (team : Nat)
  | cluster
  /-- A `mma.clu` of another wave of the team waits for the other ranks (R293). -/
  | cluBusy
  /-- A `ctxsave` waits for the handlers of a context and for the saves that came before it (R68, R214). -/
  | context (core tag : Nat)
  /-- An access that another split of the wave issued earlier is not performed yet (R110, R116, R123, R266, R288). -/
  | earlier
  deriving DecidableEq, Repr

/-- A `ctxsave` that has come to its core: the context that it names, the cc of its arrival, and the unthrottled cc of the core's die
then (R68, R214, R471). -/
structure SaveAsk where
  core : Nat
  tag : Nat
  arrived : Nat
  since : Nat
  deriving DecidableEq, Repr

/-- A valid entry of the split table (R45), the cc up to which a `wait` form holds it (R205), its stall, and the form that
stalls, which is performed again without a new issue (R274, R279, R282, R126, R305). -/
structure Split where
  pc : W64
  mask : W32
  waitTo : Nat := 0
  stall : Stall := .none
  form : Option Instr := none
  /-- One more than the cc in which the form that stalls first stalled; 0 when it has not (R110, R214). -/
  born : Nat := 0
  /-- The save that the form waits for, whatever holds it back (R214). -/
  ask : Option SaveAsk := none
  deriving DecidableEq, Repr

/-- A rendezvous record (R54). -/
structure Rdv where
  pc : W64
  mask : W32
  waiting : W32
  deriving DecidableEq, Repr

/-- The execution state of a wave or of its handler (R45 to R48, R54, R429). -/
structure ExecSt where
  splits : FMap Split
  parked : List W32
  ptimer : Nat
  rdv : List Rdv
  conv : Bool
  pcf : FMap W64
  /-- The cc up to which a `wait` form holds a lane that rotation has parked (R205). -/
  pwait : FMap Nat := []
  deriving DecidableEq, Repr

/-- The trap frame (R409). -/
structure Frame where
  code : W32 := 0
  lanes : W32 := 0
  fpc : W64 := 0
  rpc : W64 := 0
  addr : W64 := 0
  marked : W32 := 0
  info : W32 := 0
  sconv : W32 := 0
  mode : W32 := 0
  save : FMap W64 := []
  /-- Errors of the registers that SAVE holds, as in `Wave.spois` (R92). -/
  errs : FMap Bool := []
  scratch : FMap W8 := []
  deriving DecidableEq, Repr

/-- An affine register: base and stride (R76). -/
structure Aff where
  base : W64
  stride : W32
  deriving DecidableEq, Repr

/-- A task on a hand or in the kitty (R303, R304, R403). -/
structure Task where
  krec : W64
  join : W64
  scope : Nat
  args : List W64
  depth : Nat
  sig : Sig
  floor : Nat
  parent : Nat
  tag : Nat
  deriving DecidableEq, Repr

/-- A resident wave. -/
structure Wave where
  /-- Its team, 0 for a wave on a system core (R39). -/
  team : Nat
  tag : Nat
  waveId : Nat := 0
  role : Nat := 0
  prio : Nat := 0
  lregs : Nat := 8
  /-- Offset of its varying block in the core's file (R400). -/
  voff : Nat := 0
  s : FMap W64 := []
  a : FMap Aff := []
  /-- Register n at lane l under key 32 n + l (R72). -/
  v : FMap W32 := []
  k : FMap W32 := []
  flags : W32 := 0
  fpctl : W32 := 0
  fcm : W32 := 0
  sigacc : Sig := 0
  sigfl : Nat := 6
  trapvec : W64 := 0
  wdog : Nat := 0
  wlim : Nat := 0
  wt : FMap W32 := []
  ex : ExecSt
  /-- The saved state of the wave while it runs a handler (R66). -/
  hnd : Option ExecSt := none
  frame : Frame := {}
  supervisor : Bool := false
  suspended : Bool := false
  stopped : Bool := false
  frozen : Bool := false
  nested : Bool := false
  seq : Nat := 0
  /-- The code that awaits a command, with the lanes and the PC of the split that took it (R415, R428). -/
  pcode : Option Code := none
  plane : W32 := 0
  ppc : W64 := 0
  /-- MARKED, ADDR and INFO of that fault (R409). -/
  pmark : W32 := 0
  paddr : W64 := 0
  pkind : Nat := 0
  /-- Registers whose check bits find an error, by file: true for an uncorrectable one, false for one that a read corrects (R89
  to R92). `ypois` is keyed by the number of a system register (R85). -/
  vpois : FMap Bool := []
  spois : FMap Bool := []
  apois : FMap Bool := []
  ypois : FMap Bool := []
  /-- The split that issued last (R52). -/
  lastSplit : Nat := 3
  /-- The cc in which the wave has been ready without issuing (R64), and the boost. -/
  readyFor : Nat := 0
  boosted : Bool := false
  /-- The cc from which a wave that yielded is ready again (R204); 0 when it has not yielded. -/
  yieldTo : Nat := 0
  /-- The unthrottled cc of the die up to which compaction moves its block (R400, R471). -/
  movingTo : Nat := 0
  issuedWin : Bool := false
  exemptWin : Bool := false
  /-- Incarnation of the dead home that a store was discarded at (R255, R412), 0 for the host; members whose acknowledgement is
  held (R436). -/
  deadStore : Option Nat := none
  heldStores : List Nat := []
  /-- The lanes whose arrivals at a `bar.sync` are done, under the lane that bears their mark in FCM (R276). -/
  synced : FMap W32 := []
  /-- The record of a `spawn` that waits for room, by split entry (R305). -/
  spawning : FMap Task := []
  deriving DecidableEq, Repr

/-- A core-barrier entry (R273). -/
structure Bar where
  ph : W32
  arr : Nat
  expect : Nat
  tx : W32
  deriving DecidableEq, Repr

/-- An update of a window on its way to a subscriber (R130, R133). -/
structure WinUpd where
  seq : W32
  bytes : FMap W8
  pair : Option (Sig × Nat)
  core : Nat
  slot : Nat
  deriving DecidableEq, Repr

/-- An open window at its home (R128), with the updates each subscriber has not applied. -/
structure Window where
  sw : Bool
  writer : Nat
  seq : W32
  subs : FMap (List WinUpd)
  deriving DecidableEq, Repr

/-- A subscriber's replica (R129, R131, R133). -/
structure Replica where
  owner : Nat
  offset : Nat
  installed : Bool
  seq : W32
  bytes : FMap W8
  pair : Option (Sig × Nat)
  deriving DecidableEq, Repr

/-- The slot and the varying block that a wave of a running team leaves when it ends: its team holds them until it drains (R43,
R59). -/
structure Vacant where
  slot : Nat
  voff : Nat
  lregs : Nat
  deriving DecidableEq, Repr

/-- A rank's part of a `mma.clu` operation that waits for the other ranks (R293). -/
structure CluPart where
  slot : Nat
  pc : W64
  fmt : MmaFmt
  arow : List (List W8)
  bcol : List (List W8)
  deriving DecidableEq, Repr

/-- A resident team. -/
structure Team where
  core : Nat
  grid : Nat
  teamId : Nat
  rank : Nat
  /-- The cluster group, as grid number and group number; and whether it is cooperative (R40, R293). -/
  group : Nat
  groupSize : Nat
  coop : Bool
  depth : Nat
  tag : Nat
  join : W64
  jscope : Nat
  lrec : W64
  teammem : Nat
  nbar : Nat
  /-- The waves that have not ended, and what the ended ones leave to the team. -/
  alive : Nat
  vacant : List Vacant := []
  draining : Bool := false
  killed : Bool := false
  children : Nat := 0
  parent : Nat := 0
  isTask : Bool := false
  tsig : Sig := 0
  tsigfl : Nat := 6
  rsig : Sig := 0
  rfl : Nat := 6
  t : FMap W64 := []
  /-- One more than the cc of the last write, and the registers as they stood before that cc (R81). -/
  tcc : Nat := 0
  told : FMap W64 := []
  /-- Errors of the registers as in `Wave.vpois`, and as they stood before that cc (R81, R92). -/
  tpois : FMap Bool := []
  tpold : FMap Bool := []
  mem : FMap W8 := []
  full : FMap Bool := []
  /-- The cc of each word's last full or empty transition, plus one (R126). -/
  feLast : FMap Nat := []
  bars : FMap Bar := []
  windows : FMap Window := []
  replicas : List Replica := []
  clucnt : W32 := 0
  clu : Option CluPart := none
  deriving DecidableEq, Repr

/-- A role entry (R389). -/
structure Role where
  prio : Nat
  lregs : Nat
  waves : Nat
  name : Nat
  deriving DecidableEq, Repr

/-- A launch record (R388). -/
structure LRec where
  addr : W64
  entry : W64
  nteams : Nat
  group : Nat
  coop : Bool
  dies : Nat
  teammem : Nat
  nbar : Nat
  jscope : Nat
  join : W64
  roles : List Role
  trapvec : W64
  args : List W64
  deriving DecidableEq, Repr

/-- A grid that has been taken from a queue, or the grid of one task (R394, R395, R404). -/
structure Grid where
  tag : Nat
  lr : LRec
  die : Nat
  sq : Nat
  qprio : Nat
  /-- The next cluster group to place, the teams placed and the teams retired. -/
  nextGroup : Nat := 0
  retired : Nat := 0
  waitSince : Nat := 0
  starved : Bool := false
  isTask : Bool := false
  /-- The cores of the ranks of the group under placement that are not yet placed, and their die (R40, R397): the turns of one
  placement follow one another. -/
  todo : List Nat := []
  todoDie : Nat := 0
  /-- The pair of the distributor's acquire (R394, log entry 32). -/
  sig : Sig := 0
  floor : Nat := 6
  deriving DecidableEq, Repr

/-- What the device keeps of a saved team (R427). -/
structure Kept where
  tag : Nat
  teamId : Nat
  join : W64
  lrec : W64
  grid : Nat
  children : Nat
  rsig : Sig
  rfl : Nat
  killed : Bool
  parent : Nat
  isTask : Bool
  group : Nat
  groupSize : Nat
  coop : Bool
  /-- Its waves whose store a dead home discarded, by WAVEID, with the home's incarnation (R255, R412). -/
  dead : FMap Nat
  /-- Where its record stands: key of the record's first byte, and the team's place in the record (log entry 26). -/
  place : Option (Nat × Nat) := none
  deriving DecidableEq, Repr

/-- An entry of the write-combining buffer (R96). Keys of bytes are physical (see Machine/Memory.lean). -/
structure WcbEnt where
  slot : Nat
  line : Nat
  bytes : FMap W8
  last : Nat
  deriving DecidableEq, Repr

/-- A cached translation (R215, R418). -/
structure TlbEnt where
  tag : Nat
  die : Nat
  page : Nat
  log : Nat
  base : Nat
  u : Bool
  x : Bool
  w : Bool
  r : Bool
  deriving DecidableEq, Repr

/-- A core (R16 to R20, R83, R88, R93, R96, R401). -/
structure Core where
  l1 : FMap W8 := []
  icache : FMap W64 := []
  wcb : List WcbEnt := []
  tlb : List TlbEnt := []
  hand : List Task := []
  accown : W64 := 0
  /-- Element (i, j) of slot n under key 1024 n + 32 i + j (R83, R294). -/
  acc : FMap W32 := []
  /-- Errors of the rows, under key 32 n + i (R89), as in `Wave.vpois`; and of the core's system registers. -/
  accpois : FMap Bool := []
  ypois : FMap Bool := []
  ce : Nat := 0
  ue : Nat := 0
  /-- Writes of core-wide registers that are seen from the next cc (R212, R213). -/
  ownNext : Option W64 := none
  eccClear : Bool := false
  /-- The slot that issued last, by 8 quad + priority (R63), plus one; 0 for none. -/
  rr : FMap Nat := []
  /-- Block sizes that a placement asks the compaction engine for, the offsets that it has assigned, and the unthrottled cc of the
  die at which it is done (R400, R471). -/
  packReq : List Nat := []
  packOff : List Nat := []
  packEnd : Nat := 0
  /-- One more than the cc of the last take from a hand or the kitty (R399), and of the last steal from this core's hand (R402). -/
  took : Nat := 0
  robbed : Nat := 0
  deriving DecidableEq, Repr

/-- A signature slot (R115). -/
structure SigSlot where
  line : Nat
  sig : Sig
  floor : Nat
  scope : Nat
  member : Nat
  core : Nat
  deriving DecidableEq, Repr

/-- A fault record (R412). -/
structure Rec where
  code : Nat
  source : Nat
  replay : Bool := false
  last : Bool := true
  nested : Bool := false
  restored : Bool := false
  seq : Nat := 0
  srcid : W32 := 0
  tag : Nat := 0
  cause : Nat := 0
  lanes : W32 := 0
  pc : W64 := 0
  va : W64 := 0
  pa : Nat := 0
  acc : W32 := 0
  inc : Nat := 0
  time : Nat := 0
  deriving DecidableEq, Repr

/-- Lifecycle of a member (R410, R433). -/
inductive AgentState where | alive | recovering | dead | absent
  deriving DecidableEq, Repr

/-- What a die knows of a member (R410, R433, R434). -/
structure Agent where
  st : AgentState
  inc : Nat
  /-- The cc of the last heartbeat while it is ALIVE, and of the fencing while it is RECOVERING. -/
  since : Nat := 0
  drops : Nat := 0
  /-- The scrub of its fencing is not complete (R435). -/
  scrubbing : Bool := false
  deriving DecidableEq, Repr

/-- A pattern record (R364). -/
structure Pat where
  base : W64
  esz : Nat
  tl : Nat
  sl : Nat
  dir : Nat
  /-- Count and stride of each dimension, innermost first. -/
  dims : List (Nat × W64)
  deriving DecidableEq, Repr

/-- A token on a named queue (R299, R302, R325), with its place in the order of arrival. -/
structure QTok where
  val : W64
  sig : Sig
  floor : Nat
  arr : Nat
  deriving DecidableEq, Repr

/-- A named queue (R299). -/
structure Queue where
  bound : Option Nat := none
  grid : Nat := 0
  tokens : List QTok := []
  deriving DecidableEq, Repr

/-- A codebook (R301). -/
structure Book where
  nent : Nat
  ewl : Nat
  data : FMap W8
  deriving DecidableEq, Repr

/-- A firing in progress (R300, R302). -/
structure Firing where
  tok : QTok
  pos : Nat
  poisoned : Bool
  waiting : Bool
  seq : Nat
  walked : Bool
  deriving DecidableEq, Repr

/-- A copy template (R297, R298). -/
structure Tpl where
  armed : Bool := false
  grid : Nat := 0
  team : Nat := 0
  core : Nat := 0
  tag : Nat := 0
  src : Pat
  dst : Pat
  kind : Nat := 0
  cb : Bool := false
  esize : Nat := 0
  scope : Nat := 4
  cq : Option Nat := none
  bar : Option Nat := none
  tok : Nat := 0
  stack : Nat := 0
  port : Nat := 0
  chan : W16 := 0
  join : W64 := 0
  sig : Sig := 0
  floor : Nat := 6
  book : Option Book := none
  firing : Option Firing := none
  deriving DecidableEq, Repr

/-- A stack's contribution to a reduction (R347). -/
structure Contrib where
  /-- The array's incarnation in which its elements were sent. -/
  ainc : Nat := 0
  elems : FMap W32 := []
  complete : Bool := false
  poisoned : Bool := false
  deriving DecidableEq, Repr

/-- A reduction in flight (R309, R310). -/
structure Reduction where
  dest : W64
  len : Nat
  mask : W16
  int32 : Bool
  scope : Nat
  join : W64
  deadline : Nat
  tag : Nat
  desc : W64
  contribs : FMap Contrib := []
  deriving DecidableEq, Repr

/-- Elements that a reduction port sends, or the end of a stack's contribution (R347). -/
structure ContribMsg where
  tag : Nat
  stack : Nat
  ainc : Nat
  elems : List (Nat × W32)
  poisoned : Bool
  final : Bool
  deriving DecidableEq, Repr

/-- An arrival that the device makes of its own, held (R473). -/
structure HeldArr where
  kind : Nat
  tag : Nat
  join : W64
  scope : Nat
  poison : Bool
  sig : Sig
  floor : Nat
  code : Code
  /-- Number of the team whose child count falls, 0 for none. -/
  parent : Nat
  /-- Core field that anchors the release (R115). -/
  anchor : Nat
  seq : Nat
  deriving DecidableEq, Repr

/-- A submission queue as its distributor holds it (R393, R394, R465). -/
structure SubQ where
  sqd : W64 := 0
  stopped : Bool := false
  /-- ERR[1] for an SQD address at or above 768 GiB, where no descriptor can hold it (R411). -/
  lost : Bool := false
  /-- TAIL as it was last read, and the pair that the acquires of it have brought for the entries below it (R394, log entry 32). -/
  tail : Option W64 := none
  sig : Sig := 0
  floor : Nat := 6
  deriving DecidableEq, Repr

/-- An ageing command in progress (R470). -/
structure Ageing where
  op : Nat
  cluster : Nat
  voff : Nat
  until_ : Nat
  deriving DecidableEq, Repr

/-- A die (R21, R410, R465, R467). -/
structure Die where
  fqbase : W64 := 0
  fqlog2n : W32 := 0
  fqtail : W64 := 0
  fqhead : W64 := 0
  fqlost : W32 := 0
  fqerr : W32 := 0
  ctxt : W64 := 0
  wdlim : W32 := 0x00100000
  hbmiss : W32 := 4
  recmax : W32 := 1000000
  myinc : W32 := 0
  agents : FMap Agent := []
  /-- Records that are not in the ring yet, in the order of their events: those that their sources hold and those of the
  overflow queue (R414). -/
  held : List Rec := []
  /-- SEQ of the die's held arrivals, by kind (R415, R473). -/
  arrSeq : FMap Nat := []
  arrivals : List HeldArr := []
  bootpc : W64 := 0
  sysroot : W64 := 0
  run : W32 := 0
  bootst : W32 := 0
  cpstat : W32 := 0
  sq : FMap SubQ := []
  lastSq : Nat := 15
  stlb : List TlbEnt := []
  slots : FMap (List SigSlot) := []
  tpls : FMap Tpl := []
  /-- SEQ of each of its copy engines (R415). -/
  engSeq : FMap Nat := []
  queues : FMap Queue := []
  reds : FMap Reduction := []
  contribQ : List ContribMsg := []
  tsamp : Nat := 0
  pwr : W32 := 0
  tdie : W32 := 0
  pcap : W32 := 13000
  tlim : W32 := 760
  ttrip : W32 := 880
  thr : W32 := 0
  thrcnt : W32 := 0
  rce : W32 := 0
  rue : W32 := 0
  l1e : W32 := 0
  clt : FMap W32 := []
  marg : FMap W32 := []
  agestat : W32 := 0
  ageing : Option Ageing := none
  /-- Ageing commands of this cc that take effect in the next: OP and cluster (R470). -/
  ageNext : List (Nat × Nat) := []
  link : FMap W64 := []
  hbSent : Nat := 0
  /-- The cc in which the die was not throttled (R423, R468). -/
  ucc : Nat := 0
  deriving DecidableEq, Repr

/-- A token of an array (R314). -/
structure Tok where
  data : W64
  v : Bool := true
  sot : Bool := false
  eot : Bool := false
  mark : Bool := false
  preempt : Bool := false
  swap : Bool := false
  psn : Bool := false
  gen : Bool := false
  ctx : Nat := 0
  deriving DecidableEq, Repr

/-- A control operator's state (R320): LOOP or HELD, and the held token. -/
structure OpSt where
  busy : Bool := false
  held : Option Tok := none
  deriving DecidableEq, Repr

/-- A matrix-vector node's state (R326 to R328). -/
structure NodeSt where
  active : FMap W64 := []
  loading : FMap W64 := []
  loaded : Nat := 0
  apsn : Bool := false
  lpsn : Bool := false
  partials : FMap W32 := []
  /-- Rows whose CLR is clear. -/
  live : FMap Bool := []
  vpsn : Bool := false
  deriving DecidableEq, Repr

/-- A stream port's state (R321 to R325, R347). -/
structure PortSt where
  /-- Tricks completed; for a weight port, the tokens loaded; for a copy-fed port, the words emitted. -/
  pos : Nat := 0
  /-- Tokens of the current trick already emitted or taken. -/
  tok : Nat := 0
  /-- The track that a sink looks at next (R324). -/
  trk : Nat := 0
  /-- Tricks since the last marker (R334). -/
  since : Nat := 0
  /-- The port waits for a command after a stream fault (R343). -/
  fault : Bool := false
  /-- Words received and not yet emitted, and words kept for a rollback (R323). -/
  words : List W64 := []
  retained : List W64 := []
  /-- Data and PSN of the tokens that a read or weight port has fetched and not yet emitted or loaded (R326, R331). -/
  fetched : List (W64 × Bool) := []
  deriving DecidableEq, Repr

/-- What a snapshot of R335 holds. -/
structure Dyn where
  ops : FMap OpSt := []
  nodes : FMap NodeSt := []
  ports : FMap PortSt := []
  deriving DecidableEq, Repr

/-- A marker wave in flight (R334 to R336). -/
structure MWave where
  round : Nat
  final : Bool
  preempt : Bool
  since : Nat
  deriving DecidableEq, Repr

/-- A loaded context of a partition (R330 to R341). -/
structure ACtx where
  tag : Nat
  grid : Nat
  team : Nat
  join : W64
  scope : Nat
  param : W64
  pats : FMap Pat
  gen : Bool := false
  parked : Bool := false
  preemptReq : Bool := false
  /-- The round of the last committed marker wave. -/
  round : Nat := 0
  wave : Option MWave := none
  dyn : Dyn := {}
  next : Dyn := {}
  snap : Dyn := {}
  /-- Tokens at inputs and on tracks, with the ac from which each is there (R316, R317). -/
  bufs : FMap (List (Nat × Tok)) := []
  /-- Markers passed by each element; and the ac in which a FINAL marker of the wave in flight passed (R333). -/
  passed : FMap Nat := []
  finals : FMap Nat := []
  /-- Weighted in minus out minus absorbed, by round and region (R338, R363). -/
  bal : FMap Int := []
  /-- ALIGN (1) and CHANERR (2) by region (R338). -/
  rerr : FMap Nat := []
  /-- Write-behind bytes by port and round, and its poisoned lines by round (R324). -/
  wb : FMap (FMap W8) := []
  wbPois : FMap Bool := []
  /-- Held tokens by gate and round (R329). -/
  gates : FMap (List Tok) := []
  /-- Guard drops by route and round (R448). -/
  drops : FMap Nat := []
  sig : Sig := 0
  poisoned : Bool := false
  rolled : Bool := false
  /-- A rollback waits for its record to be written: code and region of the record (R339, R414). With code 0x22, a stop that waits
  for the record of a STREAM_FAULT of cause 2: code and port (R343, R414). -/
  undo : Option (Nat × Nat) := none
  /-- Last ac in which an element's function fired, plus one (R316). -/
  busy : FMap Nat := []
  /-- Round of the last rollback or of launch, for what no marker has passed since. -/
  base : Nat := 0
  /-- Bytes in the write-behind, by port and round (R324). -/
  wbLen : FMap Nat := []
  /-- SEQ of the last STREAM_FAULT of each port (R415). -/
  pseq : FMap Nat := []
  /-- Tricks that the sources had emitted at the last boundary that was acted on (R331). -/
  bcount : Nat := 0
  /-- The deck's entry of the image (`DeckEnt.born`), when the deck took it or gave it (R351). -/
  img : Option Nat := none
  /-- Elements that reduction ports hold, by port and round: index, value and PSN (R347). -/
  reds : FMap (List (Nat × W32 × Bool)) := []
  deriving DecidableEq, Repr

/-- A successor that is spliced onto a context (R333). -/
structure Splice where
  cfg : FMap W16
  arr : ACtx
  taken : FMap Bool
  deriving DecidableEq, Repr

/-- An image in a deck (R351). -/
structure DeckEnt where
  grid : Nat
  imgid : Nat
  words : List W32
  used : Nat
  /-- What tells it from every other image that the deck has held. -/
  born : Nat := 0
  deriving DecidableEq, Repr

/-- The scheduler of a partition (R331). -/
structure Part where
  running : Option Nat := none
  tricks : Nat := 0
  last : Nat := 3
  cmd : W32 := 0
  stat : W32 := 0
  saveAddr : W64 := 0
  /-- The command in progress: operation and context. -/
  busy : Option (Nat × Nat) := none
  /-- The ac from which its slots of the internal path are counted (R359, R454; log entry 42). -/
  phase : Nat := 0
  deriving DecidableEq, Repr

/-- A parked context written to a save area (R406). -/
structure SavedArr where
  stack : Nat
  pcol : W16
  masks : List W16
  cfg : FMap W16
  arr : ACtx
  /-- The successor that is spliced onto it (R308). -/
  next : Option Splice := none
  deriving DecidableEq, Repr

/-- An accepted bank operation (R311, R312). -/
structure BankOp where
  words : List W64
  /-- Physical 64 KiB pages of the range, of the result vector, of CBUF and of COUT. -/
  pages : List Nat
  res : List Nat := []
  cbuf : List Nat := []
  cout : List Nat := []
  cbufVa : W64 := 0
  coutVa : W64 := 0
  join : W64
  cjoin : W64 := 0
  scope : Nat
  clen : Nat
  tag : Nat
  poisoned : Bool := false
  /-- The next word to run. -/
  idx : Nat := 0
  /-- Signature and first bytes of the rows that the run has written (R35, R122). -/
  sig : Sig := 0
  wrote : List Nat := []
  deriving DecidableEq, Repr

/-- A stack: its array and its near-bank sequencer (R22). -/
structure Stack where
  /-- Configuration fields, by plane, element and field (`cfgKey` in Machine/ArrayCfg.lean). -/
  cfg : FMap W16 := []
  parts : FMap Part := []
  ctxs : FMap ACtx := []
  splices : FMap Splice := []
  /-- The context whose plane each element holds (R332). -/
  plane : FMap Nat := []
  deck : List DeckEnt := []
  deckClock : Nat := 0
  rows : FMap W32 := []
  bankq : List BankOp := []
  bankRun : Option BankOp := none
  combines : List BankOp := []
  latchA : FMap (BitVec 8192) := []
  latchB : FMap (BitVec 8192) := []
  cy : FMap (BitVec 8192) := []
  /-- Words of copy firings on their way to a copy-fed port: tag and data (R323). -/
  inbox : FMap (List (W16 × W64)) := []
  stkpt : W32 := 0
  dramce : W32 := 0
  dramue : W32 := 0
  rollb : W32 := 0
  stops : W32 := 0
  regc : W32 := 0
  arue : W32 := 0
  hold : Bool := false
  ainc : W16 := 0
  /-- SEQ of the last STREAM_FAULT by partition, context and port, which outlives the configurations (R415). -/
  portSeq : FMap Nat := []
  deriving DecidableEq, Repr

/-- A soft error, or the finding of one, from outside the machine (R89, R437, R466). -/
inductive Upset where
  /-- Register n of file v, s or a of a wave, or a system register; correctable or not. -/
  | wave (core slot : Nat) (file : DFile) (n : Nat) (hard : Bool)
  | team (team n : Nat) (hard : Bool)
  /-- ACCOWN or another system register that belongs to a core. -/
  | coreReg (core n : Nat) (hard : Bool)
  | accRow (core row : Nat) (hard : Bool)
  /-- Parity fails in a line of a core's L1 or instruction cache. -/
  | l1 (core line : Nat)
  /-- A read of a stack corrects an error. -/
  | dram (stack : Nat)
  /-- A read of a line at its home finds an error in DRAM or in a dirty L2 line that cannot be corrected. -/
  | dramBad (line : Nat)
  /-- A flit is sent again on a scale-up port. -/
  | flit (port : Nat)
  deriving DecidableEq, Repr

/-- The issuing core, wave slot and split entry. -/
structure Cur where
  core : Nat
  slot : Nat
  entry : Nat
  deriving DecidableEq, Repr

/-- A turn on the agenda: an event, an issue by a named split, or a soft error from outside (log entry 1). -/
inductive Turn where
  | event (i : Instr)
  | issue (core slot entry : Nat)
  | upset (u : Upset)
  deriving DecidableEq, Repr

/-- The device's last answer to the control node or to a peer (R455, R459). -/
structure Reply where
  err : Bool
  data : List W8
  sig : Sig := 0
  floor : Nat := 6
  deriving DecidableEq, Repr

/-- A request from outside that waits for a reserved line (R434), or behind one of its port (R456). -/
inductive HeldReq where
  | msg (die member : Nat) (m : LinkMsg)
  | host (port : Nat) (addr : W64) (n : Nat) (data : Option (List W8))
  | hostRel (port : Nat) (addr : W64) (data : List W8)
  deriving DecidableEq, Repr

/-- The whole device. -/
structure State where
  dram : List Host.Cell
  l2d : FMap W8
  lfl : FMap Nat
  poison : FMap Bool
  /-- Poisoned lines whose uncorrectable error no access has reported yet (R413, R437; log entry 40). -/
  hard : FMap Bool
  peerMem : FMap W8
  hostMem : FMap W8
  /-- Lines of members a die's L2 holds a copy of, by physical key and die (R97). -/
  peerCopy : FMap W8
  dirCopy : FMap (List Nat)
  reserved : FMap (Nat × List W8)
  /-- What this device's releases have left at the slots of members' lines, by line (R105, R460; log entry 6). -/
  peerSlots : FMap SigSlot
  /-- Lines of submission descriptors whose next write the distributor waits for: true once it has come (R394). -/
  watch : FMap Bool
  linkq : List HeldReq
  cores : FMap Core
  /-- Resident waves, by 64 core + slot. -/
  waves : FMap Wave
  teams : FMap Team
  grids : FMap Grid
  kept : FMap Kept
  dies : FMap Die
  stks : FMap Stack
  kbase : W64
  klog2n : W32
  kitty : List Task
  /-- One more than the cc of the last take from the kitty (R403). -/
  kittyTook : Nat
  saves : FMap SavedArr
  nextId : Nat
  cc : Nat
  phase : Nat
  cur : Cur
  agenda : List Turn
  free : Nat
  reply : Reply
  deriving DecidableEq, Repr

/-- Reasons for which the model stops. -/
inductive Fault where
  /-- Raised by an encoded instruction when `cur` names no split of a resident wave: nothing issues then. No step raises it,
  since a step sets `cur` to a ready split. Safe: the model stops where the device has no such event. -/
  | noIssuer
  deriving DecidableEq, Repr

/-- Reasons for which the model gives an instruction no meaning. -/
inductive Refusal where
  /-- Raised by `exec` for an instruction that has no meaning in the model yet. Safe: nothing is claimed of it. -/
  | notModelled (mnemonic : String)
  deriving DecidableEq, Repr

/-- The device right after a cold reset (R463; log entry 14): no work, every cache empty, every register at the
value the spec gives, or at the value that the log names. -/
def State.reset : State where
  dram := []
  l2d := []
  lfl := []
  poison := []
  hard := []
  peerMem := []
  hostMem := []
  peerCopy := []
  dirCopy := []
  reserved := []
  peerSlots := []
  watch := []
  linkq := []
  cores := []
  waves := []
  teams := []
  grids := []
  kept := []
  dies := []
  stks := []
  kbase := 0
  klog2n := 0
  kitty := []
  kittyTook := 0
  saves := []
  nextId := 1
  cc := 0
  phase := 0
  cur := ⟨0, 0, 0⟩
  agenda := []
  free := 0
  reply := ⟨false, [], 0, 6⟩

end Sys2Proof.Machine
end

