-- ==== Sys2Proof/Machine/Access.lean ====
section
/-! DEFINITION. Reading and replacing the parts of the state, and the numbering of the parts (R1 to R4, R31, R115, R118). -/
namespace Sys2Proof.Machine

/-- Key of a wave: core and slot. -/
def wkey (core slot : Nat) : Nat := 64 * core + slot

def State.core (s : State) (g : Nat) : Core := (s.cores.fetch g).getD {}
def State.setCore (s : State) (g : Nat) (c : Core) : State := { s with cores := s.cores.ins g c }
def State.updCore (s : State) (g : Nat) (f : Core → Core) : State := s.setCore g (f (s.core g))

def State.die (s : State) (d : Nat) : Die := (s.dies.fetch d).getD {}
def State.setDie (s : State) (d : Nat) (x : Die) : State := { s with dies := s.dies.ins d x }
def State.updDie (s : State) (d : Nat) (f : Die → Die) : State := s.setDie d (f (s.die d))

def State.stk (s : State) (n : Nat) : Stack := (s.stks.fetch n).getD {}
def State.setStk (s : State) (n : Nat) (x : Stack) : State := { s with stks := s.stks.ins n x }
def State.updStk (s : State) (n : Nat) (f : Stack → Stack) : State := s.setStk n (f (s.stk n))

def State.setWave (s : State) (k : Nat) (w : Wave) : State := { s with waves := s.waves.ins k w }
def State.updWave (s : State) (k : Nat) (f : Wave → Wave) : State := { s with waves := s.waves.upd k f }
def State.setTeam (s : State) (k : Nat) (t : Team) : State := { s with teams := s.teams.ins k t }
def State.updTeam (s : State) (k : Nat) (f : Team → Team) : State := { s with teams := s.teams.upd k f }

/-- Takes the next number of the free values (log entry 2). -/
def State.tick (s : State) : State := { s with free := s.free + 1 }

/-- Die of a core number: user cores 0 to 319, system core n as 320 + n (R1 to R3, R115). -/
def dieOf (g : Nat) : Nat := if g < 320 then g / 160 else (g - 320) / 4

/-- Near die of a stack (R1). -/
def nearDie (st : Nat) : Nat := st / 6

/-- Core field of the system core that anchors a die's own releases (R121, R122, R414). -/
def dieAnchor (d : Nat) : Nat := 320 + 4 * d

/-- Cluster of a user core, counted over both dies (R2). -/
def clusterOf (g : Nat) : Nat := g / 16

/-- The cores of a range. -/
def coresFrom (lo n : Nat) : List Nat := (List.range n).map fun i => lo + i

/-- The system cores of a die (R3). -/
def sysCoresOf (d : Nat) : List Nat := coresFrom (320 + 4 * d) 4

/-- The cores whose L1 a scope flush empties (R118). A core field of another member anchors no flush here but at the wide
scopes, which reach every core of this device too. -/
def flushRegion (scope g : Nat) : List Nat :=
  match scope with
  | 0 => []
  | 1 => [g]
  | 2 => if g < 320 then coresFrom (16 * clusterOf g) 16 else [g]
  | 3 => coresFrom (160 * dieOf g) 160 ++ sysCoresOf (dieOf g)
  | _ => coresFrom 0 328

/-- The member number of this device, 0 outside a domain (R112, R410). -/
def State.myMember (s : State) : Nat := if bit (s.die 0).myinc 24 then bits (s.die 0).myinc 16 8 else 0

/-- The device is in a domain (R461). -/
def State.inDomain (s : State) : Bool := bit (s.die 0).myinc 24

/-- What a die knows of a member (R410); the reset value of an entry is ALIVE with incarnation 0. -/
def Die.agent (d : Die) (m : Nat) : Agent := (d.agents.fetch m).getD { st := .alive, inc := 0 }
def Die.setAgent (d : Die) (m : Nat) (a : Agent) : Die := { d with agents := d.agents.ins m a }

/-- State of a member as an access through a die finds it; a device outside a domain reaches no member (R461). -/
def State.member (s : State) (d m : Nat) : AgentState := if bit (s.die d).myinc 24 then ((s.die d).agent m).st else .absent

/-- A control port of the device is up, as the issuing die sees it (R457). -/
def State.hostUp (s : State) (d : Nat) : Bool := bits (s.die d).cpstat 0 2 != 0

/-- Bytes of the physical address space of this device (R31). -/
def memTop : Nat := 12 * 2 ^ 36

/-- Stack of a device physical address (R31). -/
def stackOf (pa : Nat) : Nat := pa / 2 ^ 36 % 16

/-- Stream port and bank gate that serve a device physical address (R22, R31). -/
def portOf (pa : Nat) : Nat := pa / 2 ^ 12 % 64

/-- L2 slice of a device physical address (R31). -/
def sliceOf (pa : Nat) : Nat := (pa / 2 ^ 7 % 64) ^^^ (pa / 2 ^ 13 % 64)

/-! ### Counters (R93, R466, R467) -/

/-- A 32-bit counter that stops at its greatest value. -/
def satAdd (c : W32) (n : Nat) : W32 := BitVec.ofNat 32 (min (c.toNat + n) 0xFFFFFFFF)

/-- Counts errors that reads of a core's registers have found and corrected (R91, R93, R467). -/
def State.countCe (s : State) (g n : Nat) : State :=
  (s.updCore g fun c => { c with ce := min (c.ce + n) 0xFFFFFFFF }).updDie (dieOf g) fun d =>
    { d with rce := satAdd d.rce (min ((s.core g).ce + n) 0xFFFFFFFF - (s.core g).ce) }

/-- Counts uncorrectable errors that reads of a core's registers have found (R92, R93, R467). -/
def State.countUe (s : State) (g n : Nat) : State :=
  (s.updCore g fun c => { c with ue := min (c.ue + n) 0xFFFF }).updDie (dieOf g) fun d =>
    { d with rue := satAdd d.rue (min ((s.core g).ue + n) 0xFFFF - (s.core g).ue) }

/-- The waves of a team, in the order of core and slot. -/
def State.wavesOf (s : State) (team : Nat) : List (Nat × Wave) := s.waves.filter fun p => p.2.team == team

/-- Keys of the resident waves of a core. -/
def State.coreWaves (s : State) (g : Nat) : List (Nat × Wave) := s.waves.filter fun p => p.1 / 64 == g

/-- Puts a value before the first one that may follow it. -/
def insertBy {α : Type} (le : α → α → Bool) (x : α) : List α → List α
  | [] => [x]
  | y :: ys => if le x y then x :: y :: ys else y :: insertBy le x ys

/-- A list in order; values of which either may come first keep their order. -/
def sortBy {α : Type} (le : α → α → Bool) (l : List α) : List α := l.foldr (insertBy le) []

end Sys2Proof.Machine
end

