-- ==== Sys2Proof/Machine/Memory.lean ====
section
/-! DEFINITION. Memory: homes and physical bytes (R31, R95), poison (R253, R437), Bloom signatures and their slots (R112 to
R119), the L1s and the write-combining buffers (R20, R96), and the release, acquire and fence steps (R110 to R117). A byte of
any device or of the host has one key: the device physical address for this device, (m + 1) 2^52 + address for member m, and
257 * 2^52 + address for the host. -/
namespace Sys2Proof.Machine

/-- Where a byte lives. -/
inductive Home where
  | here
  | member (m : Nat)
  | host
  deriving DecidableEq, Repr

/-- Key of a byte of a member. -/
def memberKey (m pa : Nat) : Nat := (m + 1) * 2 ^ 52 + pa
/-- Key of a byte of host memory. -/
def hostKey (pa : Nat) : Nat := 257 * 2 ^ 52 + pa
/-- Address of a byte at its home. -/
def keyPa (k : Nat) : Nat := k % 2 ^ 52

/-- Home of a byte. -/
def homeOf (k : Nat) : Home :=
  match k / 2 ^ 52 with
  | 0 => .here
  | n + 1 => if n = 256 then .host else .member n

/-- Line of a byte. -/
def lineOf (k : Nat) : Nat := k / 128

/-- The bytes of a range of keys. -/
def keysFrom (k n : Nat) : List Nat := (List.range n).map fun i => k + i

/-- DRAM of this device: a byte that is not listed holds 0 (R463). -/
def State.dramByte (s : State) (pa : Nat) : W8 := FMap.at' 0 s.dram pa
def State.putDram (s : State) (pa : Nat) (b : W8) : State := { s with dram := FMap.put 0 s.dram pa b }

/-- The memory as an abbreviation of the list of cells. -/
abbrev Memory := List Host.Cell
/-- The canonical form: addresses strictly rising, and no byte listed that equals what an unlisted address reads as. -/
abbrev Memory.wf (m : Memory) : Prop := FMap.canon (0 : W8) m = true

/-- What the home of a byte holds (R95). -/
def State.homeByte (s : State) (k : Nat) : W8 :=
  match homeOf k with
  | .here => (s.l2d.fetch k).getD (s.dramByte k)
  | .member m => (s.peerMem.fetch k).getD (Config.envByte m (keyPa k))
  | .host => (s.hostMem.fetch k).getD (Config.envByte 256 (keyPa k))

def State.homeNat (s : State) (k n : Nat) : Nat := ofBytes ((keysFrom k n).map s.homeByte)

/-- Key of a byte of a copy that a die's L2 holds of a member's line (R97). -/
def copyKey (d k : Nat) : Nat := 2 * k + d

/-- What a die reads of a byte outside the L1s: a copy of a member's line that its L2 holds, or the home (R95). -/
def State.farByte (s : State) (d k : Nat) : W8 :=
  match homeOf k with
  | .member _ => (s.peerCopy.fetch (copyKey d k)).getD (s.homeByte k)
  | _ => s.homeByte k

/-- Drops both dies' copies of a member's line. -/
def State.dropPeerCopies (s : State) (line : Nat) : State :=
  { s with peerCopy := s.peerCopy.dropKeys fun c => c / 2 / 128 == line }

/-- The row of a stack in which a device physical address lies: row, bank and pseudo-channel as one number (R345). -/
def rowOfPa (pa : Nat) : Nat := pa % 2 ^ 36 / 1024

/-- The row that an entry of the failed-row table names (R362). -/
def entryRow (e : W32) : Nat := 4096 * bits e 0 14 + 256 * bits e 18 4 + bits e 22 8

/-- The entry that governs a row: of the valid entries that name it the one of the lowest number (R362). -/
def Stack.rowEntry (x : Stack) (row : Nat) : Option W32 :=
  (x.rows.find? fun (p : Nat × W32) => bit p.2 31 && entryRow p.2 == row).map fun p => p.2

/-- The row is marked failed: the entry that governs it is not spared (R362). -/
def Stack.rowFailed (x : Stack) (row : Nat) : Bool := (x.rowEntry row).any fun e => !bit e 30

/-- A spare row stands in for the row: the entry that governs it is spared (R362). -/
def Stack.rowSpared (x : Stack) (row : Nat) : Bool := (x.rowEntry row).any fun e => bit e 30

/-- A line of this device lies in a row that is marked failed (R362). -/
def State.failedLine (s : State) (line : Nat) : Bool :=
  homeOf (128 * line) == .here && (s.stk (stackOf (128 * line))).rowFailed (rowOfPa (128 * line))

/-- A read of the line finds poison: its mark, or its failed row (R253, R362, R437). -/
def State.poisoned (s : State) (line : Nat) : Bool := FMap.at' false s.poison line || s.failedLine line
/-- Sets or clears a line's mark (R437, R254). -/
def State.setPoison (s : State) (line : Nat) (b : Bool) : State :=
  { s with poison := FMap.put false s.poison line b, hard := if b then s.hard else s.hard.del line }

/-- A read at the home finds an error of a line that cannot be corrected: the line is poisoned, and the stack counts it (R437,
R466, R469). -/
def State.foundBad (s : State) (line : Nat) : State :=
  ({ s.setPoison line true with hard := FMap.put false s.hard line true }).updStk (stackOf (128 * line)) fun x =>
    { x with dramue := satAdd x.dramue 1 }

/-- Some line of a range of bytes is poisoned. -/
def State.poisonedRange (s : State) (k n : Nat) : Bool := (keysFrom k n).any fun i => s.poisoned (lineOf i)

/-- Incarnation of the member that is a byte's home, as a die knows it; 0 for any other home (R412). -/
def State.incAt (s : State) (d k : Nat) : Nat := match homeOf k with | .member m => ((s.die d).agent m).inc | _ => 0

/-- A line that a member's whole-line write holds reserved (R434). -/
def State.isReserved (s : State) (line : Nat) : Bool := (s.reserved.fetch line).isSome

/-- A scale-up port is up (R467). -/
def State.portUp (s : State) (p : Nat) : Bool := bit (FMap.at' (0 : W64) (s.die (p / 9)).link (p % 9)) 40

/-- The ports that may carry a member's line for a die, in order: those of the die in ascending order from 9 d + pa[16:7] mod 9 on,
wrapping, and then, across the bridge, those of the other die (R458; log entry 44). -/
def portOrder (d line : Nat) : List Nat :=
  let n := line % 1024 % 9
  ((List.range 9).map fun i => 9 * d + (n + i) % 9) ++ (List.range 9).map fun i => 9 * (1 - d) + (n + i) % 9

/-- The port that carries a member's line for a die, when one is up (R458). -/
def State.portOfLine (s : State) (d line : Nat) : Option Nat := (portOrder d line).find? s.portUp

/-- What keeps an access through a die from a line: a member holds it reserved (R434), or it is homed on a member that is ALIVE and
no port is up (R458; log entry 44). -/
def State.shut (s : State) (d line : Nat) : Option Stall :=
  if s.isReserved line then some (.reserved line)
  else match homeOf (128 * line) with
    | .member m => if s.member d m == .alive && (s.portOfLine d line).isNone then some (.member m) else none
    | _ => none

/-- Writes the dirty bytes of a line to DRAM (R111). -/
def State.cleanLine (s : State) (line : Nat) : State :=
  (keysFrom (128 * line) 128).foldl (fun s k =>
    match s.l2d.fetch k with
    | none => s
    | some b => { s.putDram k b with l2d := s.l2d.del k }) s

/-- The lines that a die's L2 holds and that are no clean copies of its own DRAM: dirty lines, and copies of members' lines. -/
def State.l2Lines (s : State) (d : Nat) : List Nat :=
  ((s.l2d.map fun (p : Nat × W8) => lineOf p.1).dedup.filter fun l => nearDie (stackOf (128 * l)) == d)
    ++ ((s.peerCopy.filter fun (p : Nat × W8) => p.1 % 2 == d).map fun p => p.1 / 2 / 128).dedup

/-- A line leaves a die's L2: a dirty one is written to DRAM (R21, R97). -/
def State.leaveL2 (s : State) (d line : Nat) : State :=
  match homeOf (128 * line) with
  | .here => s.cleanLine line
  | _ => { s with peerCopy := s.peerCopy.dropKeys fun c => c % 2 == d && c / 2 / 128 == line }

/-- Makes room for a line in a die's L2 of 2^20 lines (R21): which line leaves a full one is a free value (log entry 3). -/
def State.fitL2 (s : State) (d line : Nat) : State :=
  if s.l2d.length + s.peerCopy.length < 2 ^ 20 then s
  else
    let ls := s.l2Lines d
    if ls.length < 2 ^ 20 ∨ ls.contains line then s
    else s.tick.leaveL2 d (ls.getD (Config.victim s.free % ls.length) line)

/-- The distributors see a write of a line whose write they wait for (R394). -/
def State.noticed (s : State) (lines : List Nat) : FMap Bool := lines.foldl (fun m l => m.upd l fun _ => true) s.watch

/-- A write performed at a home on this device: every peer copy of the line goes first (R97). -/
def State.writeHere (s : State) (k : Nat) (bs : List W8) : State :=
  let ls := (keysFrom k bs.length).map lineOf
  let s := s.fitL2 (nearDie (stackOf k)) (lineOf k)
  { s with dirCopy := ls.foldl (fun m l => FMap.del m l) s.dirCopy, watch := s.noticed ls
           l2d := ((keysFrom k bs.length).zip bs).foldl (fun m p => FMap.ins m p.1 p.2) s.l2d }

/-- A write performed at any home that answers. -/
def State.writeHome (s : State) (k : Nat) (bs : List W8) : State :=
  match homeOf k with
  | .here => s.writeHere k bs
  | .member _ =>
    let s := (keysFrom k bs.length).foldl (fun s i => s.dropPeerCopies (lineOf i)) s
    { s with peerMem := ((keysFrom k bs.length).zip bs).foldl (fun m p => FMap.ins m p.1 p.2) s.peerMem }
  | .host => { s with hostMem := ((keysFrom k bs.length).zip bs).foldl (fun m p => FMap.ins m p.1 p.2) s.hostMem }

/-- Drops a line's dirty bytes without writing them (R34, R35). -/
def State.dropDirty (s : State) (line : Nat) : State := { s with l2d := s.l2d.dropKeys fun k => k / 128 == line }

/-- The home drops every copy of a line, in its L2 and in every peer's (R34, R35, R111). -/
def State.dropCopies (s : State) (line : Nat) : State := { s.dropDirty line with dirCopy := s.dirCopy.del line }

/-- DRAM as an array or a bank operation finds it: a dirty L2 line may have been written back before (R36, log entry 4). -/
def State.settleLine (s : State) (line : Nat) : State :=
  if (keysFrom (128 * line) 128).any fun k => (s.l2d.fetch k).isSome then
    let w := Config.l2WroteBack s.free
    let s := s.tick
    if w then s.cleanLine line else s
  else s

/-- A DRAM read of n bytes on the array's or the bank's path (R34, R35). -/
def State.readDram (s : State) (pa n : Nat) : State × Nat :=
  let s := ((keysFrom pa n).map lineOf).dedup.foldl State.settleLine s
  (s, ofBytes ((keysFrom pa n).map s.dramByte))

/-- A DRAM write on that path; the home then drops its copies of the lines (R34, R35), and the distributors see it (R394). A dirty
line goes unwritten, for a bank operation at each word's write (R36; DESIGN CHOICE, log entry 4: the spec leaves open whether it
had been written back before). -/
def State.writeDram (s : State) (pa : Nat) (bs : List W8) : State :=
  let ls := ((keysFrom pa bs.length).map lineOf).dedup
  let s := { ((keysFrom pa bs.length).zip bs).foldl (fun (s : State) p => s.putDram p.1 p.2) s with watch := s.noticed ls }
  ls.foldl State.dropCopies s

/-! ### Signatures -/

def hsigC : Nat → Nat
  | 0 => 0x13C6EF372FF
  | 1 => 0xA54FF53A5F
  | 2 => 0x1507E5A91B3
  | _ => 0xC3A5C85C97

/-- hsig(i, K) of R112. -/
def hsig (i K : Nat) : Nat := (K * hsigC i) % 2 ^ 41 / 2 ^ 31

/-- Key K of a line (R112). -/
def State.lineKey (s : State) (line : Nat) : Nat :=
  let m := match homeOf (128 * line) with | .member m => m | _ => s.myMember
  m * 2 ^ 33 + keyPa (128 * line) / 128 % 2 ^ 33

def sigInsert (g : Sig) (K : Nat) : Sig :=
  g ||| BitVec.ofNat 1024 (2 ^ hsig 0 K) ||| BitVec.ofNat 1024 (2 ^ hsig 1 K) ||| BitVec.ofNat 1024 (2 ^ hsig 2 K)
    ||| BitVec.ofNat 1024 (2 ^ hsig 3 K)

/-- A key hits a signature when its four bits are set (R112). -/
def sigHits (g : Sig) (K : Nat) : Bool := bit g (hsig 0 K) && bit g (hsig 1 K) && bit g (hsig 2 K) && bit g (hsig 3 K)

/-- 384 or more bits are set (R112). -/
def sigFull (g : Sig) : Bool := g != 0 && 384 ≤ popcount g

/-- Empties the L1 of a list of cores (R118). -/
def State.flushL1 (s : State) (gs : List Nat) : State :=
  { s with cores := s.cores.map fun p => if gs.contains p.1 then (p.1, { p.2 with l1 := [] }) else p }

/-- scope_flush of R118. An anchor on another member reaches this device at the domain scopes alone. -/
def State.scopeFlush (s : State) (scope member g : Nat) : State :=
  if 5 ≤ scope ∨ member = s.myMember then s.flushL1 (flushRegion scope g) else s

/-- Set of signature slots of a line of this device (R115). -/
def State.slotKey (s : State) (line : Nat) : Nat × Nat :=
  (nearDie (stackOf (128 * line)), 512 * sliceOf (128 * line) + hsig 0 (s.lineKey line) % 512)

def State.lineFloor (s : State) (line : Nat) : Nat := FMap.at' 6 s.lfl line

def State.slotOf (s : State) (line : Nat) : Option SigSlot :=
  let k := s.slotKey line
  (((s.die k.1).slots.fetch k.2).getD []).find? fun sl => sl.line == line

/-- Evicts a slot (R119). -/
def State.evictSlot (s : State) (sl : SigSlot) : State :=
  let s := s.scopeFlush sl.scope sl.member sl.core
  { s with lfl := FMap.put 6 s.lfl sl.line (min sl.floor sl.scope) }

/-- Puts a slot in place of the line's slot, or installs it; a full set of 16 ways gives up the way installed least recently
(R115, R119). -/
def State.putSlot (s : State) (sl : SigSlot) : State :=
  let k := s.slotKey sl.line
  let ways := ((s.die k.1).slots.fetch k.2).getD []
  if ways.any fun x => x.line == sl.line then
    s.updDie k.1 fun d => { d with slots := d.slots.ins k.2 (ways.map fun x => if x.line == sl.line then sl else x) }
  else
    let s := if ways.length < 16 then s else match ways with | [] => s | v :: _ => s.evictSlot v
    let ways := if ways.length < 16 then ways else ways.tail
    s.updDie k.1 fun d => { d with slots := d.slots.ins k.2 (ways ++ [sl]) }

/-- What a release makes of the slot of its line: an atomic adds to it, a store replaces it (R116). -/
def SigSlot.release (old : SigSlot) (rmw : Bool) (sig : Sig) (floor scope member core : Nat) : SigSlot :=
  if rmw then ⟨old.line, old.sig ||| sig, min old.floor floor, max old.scope scope, member, core⟩
  else ⟨old.line, sig, floor, scope, member, core⟩

/-- The slot part of the home step of a release (R116) at a line of this device. -/
def State.slotRelease (s : State) (line : Nat) (rmw : Bool) (sig : Sig) (floor scope member core : Nat) : State :=
  let old := (s.slotOf line).getD ⟨line, 0, s.lineFloor line, 0, member, core⟩
  let sl := old.release rmw sig floor scope member core
  if sigFull sl.sig then
    let s := s.scopeFlush sl.scope member core
    s.putSlot { sl with sig := 0, floor := min sl.floor sl.scope }
  else s.putSlot sl

/-- Signature and floor that an acquire takes from a line of this device (R117). -/
def State.slotAcquire (s : State) (line : Nat) : Sig × Nat :=
  match s.slotOf line with
  | some sl => (sl.sig, sl.floor)
  | none => (0, s.lineFloor line)

/-- Invalidates the L1 lines of a core that hit a signature (R117). -/
def State.invalidateHits (s : State) (g : Nat) (sig : Sig) : State :=
  if sig == 0 then s
  else { s with cores := s.cores.upd g fun c => { c with l1 := c.l1.dropKeys fun k => sigHits sig (s.lineKey (lineOf k)) } }

/-! ### L1 and write-combining buffer -/

/-- Performs the buffered stores of one entry at the home, with what becomes of them when the home does not answer (R255,
R436, R457). -/
def State.performStore (s : State) (wk : Nat) (k : Nat) (bs : List W8) : State :=
  let d := dieOf (wk / 64)
  match homeOf k with
  | .here => s.writeHere k bs
  | .host => if s.hostUp d then s.writeHome k bs else s.updWave wk fun w => { w with deadStore := some 0 }
  | .member m =>
    match s.member d m with
    | .alive => s.writeHome k bs
    | .recovering => s.updWave wk fun w => { w with heldStores := if w.heldStores.contains m then w.heldStores else m :: w.heldStores }
    | _ => s.updWave wk fun w => { w with deadStore := some ((s.die d).agent m).inc }

/-- Performs the bytes of an entry. -/
def State.performEntry (s : State) (g : Nat) (e : WcbEnt) : State :=
  e.bytes.foldl (fun s p => s.performStore (wkey g e.slot) p.1 [p.2]) s

/-- Drains the entries of a core's buffer that meet a test, in order of their allocation; an entry whose line is shut waits (R434,
R458). -/
def State.drainWcb (s : State) (g : Nat) (p : WcbEnt → Bool) : State :=
  let q := fun e => p e && (s.shut (dieOf g) e.line).isNone
  let es := (s.core g).wcb.filter q
  if es.isEmpty then s
  else
    let s := es.foldl (fun s e => s.performEntry g e) s
    s.updCore g fun c => { c with wcb := c.wcb.filter fun e => !q e }

/-- Drains the entries of one wave (R96). -/
def State.drainWave (s : State) (wk : Nat) : State := s.drainWcb (wk / 64) fun e => e.slot == wk % 64

/-- The byte that the buffer of a core holds, if any. -/
def Core.wcbByte (c : Core) (k : Nat) : Option W8 :=
  match c.wcb.find? fun e => e.line == lineOf k && (e.bytes.fetch k).isSome with
  | none => none
  | some e => e.bytes.fetch k

/-- An entry holds one of some bytes. -/
def WcbEnt.holds (e : WcbEnt) (ks : List Nat) : Bool := ks.any fun i => (e.bytes.fetch i).isSome

/-- The entries of a core that hold one of some bytes drain, so that an access at the home keeps the coherence of what its wave
has read (R99). -/
def State.drainOver (s : State) (g : Nat) (ks : List Nat) : State := s.drainWcb g fun e => e.holds ks

/-- A store updates the bytes of an L1 copy (R20). -/
def State.putL1 (s : State) (g k : Nat) (bs : List W8) : State :=
  s.updCore g fun c =>
    { c with l1 := ((keysFrom k bs.length).zip bs).foldl (fun m p => if (FMap.fetch m p.1).isSome then FMap.ins m p.1 p.2 else m) c.l1 }

/-- A store by a wave: entries of other waves that hold one of its bytes drain first, the L1 copy and the wave's own entry
take the bytes, and SIGACC takes the line (R20, R96, R113). -/
def State.bufferStore (s : State) (wk : Nat) (k : Nat) (bs : List W8) : State :=
  let g := wk / 64
  let slot := wk % 64
  let ks := keysFrom k bs.length
  let s := (s.drainWcb g fun e => e.slot != slot && e.holds ks).putL1 g k bs
  let s := s.updCore g fun c =>
    let wcb := (ks.zip bs).foldl (fun (es : List WcbEnt) p =>
      let l := lineOf p.1
      if es.any fun e => e.slot == slot && e.line == l then
        es.map fun e => if e.slot == slot && e.line == l then { e with bytes := e.bytes.ins p.1 p.2, last := s.cc } else e
      else es ++ [⟨slot, l, [(p.1, p.2)], s.cc⟩]) c.wcb
    { c with wcb := wcb }
  match homeOf k with
  | .host => s
  | _ => s.updWave wk fun w => { w with sigacc := ((ks.map lineOf).dedup).foldl (fun g l => sigInsert g (s.lineKey l)) w.sigacc }

/-- Another wave of the core holds one of some bytes in an entry that cannot drain: a store to them waits, so that the two reach the
home in their order (R96, R99, R434). -/
def State.storeHeld (s : State) (wk : Nat) (ks : List Nat) : Option Stall :=
  ((s.core (wk / 64)).wcb.filter fun e => e.slot != wk % 64 && e.holds ks).findSome? fun e => s.shut (dieOf (wk / 64)) e.line

/-- Drops the L1 copies of a line on a core. -/
def State.dropL1Line (s : State) (g line : Nat) : State :=
  { s with cores := s.cores.upd g fun c => { c with l1 := c.l1.dropKeys fun k => k / 128 == line } }

/-- The lines that an L1 holds. -/
def Core.l1Lines (c : Core) : List Nat := (c.l1.map fun p => lineOf p.1).dedup

/-- Makes room for a line in an L1 of 1024 lines (R20): which line leaves a full one is a free value (log entry 3). Below 2^15
bytes no L1 is full. -/
def State.fitL1 (s : State) (g line : Nat) : State :=
  if (s.core g).l1.length < 2 ^ 15 then s
  else
    let ls := (s.core g).l1Lines
    if ls.length < 1024 ∨ ls.contains line then s
    else s.tick.dropL1Line g (ls.getD (Config.victim s.free % ls.length) line)

/-- Sector of a byte (R20). -/
def sectorOf (k : Nat) : Nat := k / 32

/-- Fills one L1 sector with what the buffer and the home hold (R32, R96). -/
def State.fillSector (s : State) (g sec : Nat) : State :=
  (s.fitL1 g (sec / 4)).updCore g fun c =>
    { c with l1 := (keysFrom (32 * sec) 32).foldl (fun m k => FMap.ins m k ((c.wcbByte k).getD (s.homeByte k))) c.l1 }

/-- Makes a sector present: an L1 copy may be gone by replacement (R99, log entry 3). -/
def State.touchSector (s : State) (g sec : Nat) : State :=
  if ((s.core g).l1.fetch (32 * sec)).isSome then
    let gone := Config.l1Gone s.free
    let s := s.tick
    if gone then s.fillSector g sec else s
  else s.fillSector g sec

/-- A plain load of n bytes by a core, from its L1 or, for bytes that have left it again, from its buffer or the home (R95, R96, R249). One of a peer's line leaves no copy of it in the die's L2 (R97; DESIGN CHOICE,
log entry 29). -/
def State.plainLoad (s : State) (g k n : Nat) : State × Nat :=
  match homeOf k with
  | .here =>
    let s := ((keysFrom k n).map sectorOf).dedup.foldl (fun s sec => s.touchSector g sec) s
    (s, ofBytes ((keysFrom k n).map fun i => ((s.core g).l1.fetch i).getD (((s.core g).wcbByte i).getD (s.homeByte i))))
  | _ => (s, ofBytes ((keysFrom k n).map fun i => ((s.core g).wcbByte i).getD (s.farByte (dieOf g) i)))

/-! ### Release, acquire and fence steps of a wave -/

/-- Applies the updates that are on their way to every subscriber of every window (R130, R133), or those of one window. -/
def State.applyUpdates (s : State) (owner off : Nat) : State :=
  match s.teams.fetch owner with
  | none => s
  | some ow =>
    match ow.windows.fetch off with
    | none => s
    | some w =>
      let s := w.subs.foldl (fun s p =>
        s.updTeam p.1 fun t =>
          { t with replicas := t.replicas.map fun r =>
              if r.owner == owner && r.offset == off && r.installed then
                p.2.foldl (fun r u => { r with seq := u.seq, bytes := u.bytes.foldl (fun m b => FMap.ins m b.1 b.2) r.bytes
                                               pair := match u.pair with | some q => some q | none => r.pair }) r
              else r }) s
      s.updTeam owner fun t =>
        { t with windows := t.windows.upd off fun w => { w with subs := w.subs.map fun p =>
            let inst := match s.teams.fetch p.1 with
              | some st => st.replicas.any fun r => r.owner == owner && r.offset == off && r.installed
              | none => true
            if inst then (p.1, []) else p } }

/-- Applies every update of every window that a core's wave has stored (R116, R133). -/
def State.applyWaveUpdates (s : State) (wk : Nat) : State :=
  let ps := s.teams.flatMap fun t => (t.2.windows.filter fun w =>
    w.2.subs.any fun u => u.2.any fun x => wkey x.core x.slot == wk).map fun w => (t.1, w.1)
  ps.foldl (fun s p => s.applyUpdates p.1 p.2) s

/-- What a release or a fence of a wave still waits for, after its buffer has drained and its window stores are applied: an
entry for a line that is shut, or a member that is RECOVERING (R116, R434, R436, R458). -/
def State.waitsFor (s : State) (wk : Nat) : Option Stall :=
  match s.waves.fetch wk with
  | none => none
  | some w =>
    match w.heldStores with
    | m :: _ => some (.member m)
    | [] => ((s.core (wk / 64)).wcb.filter fun e => e.slot == wk % 64).findSome? fun e => s.shut (dieOf (wk / 64)) e.line

/-- The wait of R116 and R110 at a scope: the wave's stores are performed, and from scope 2 its window stores are applied. -/
def State.relDrain (s : State) (wk scope : Nat) : State :=
  let s := s.drainWave wk
  if 2 ≤ scope then s.applyWaveUpdates wk else s

/-- The saturation test and flush that begin a release from scope 2 (R116). -/
def State.relFlush (s : State) (wk scope : Nat) : State :=
  match s.waves.fetch wk with
  | none => s
  | some w =>
    if 2 ≤ scope && (sigFull w.sigacc || w.sigfl < scope) then
      (s.scopeFlush scope s.myMember (wk / 64)).updWave wk fun w => { w with sigacc := 0, sigfl := scope }
    else s

/-- The team part of a release at scope 1 that carries a signature and a floor (R116). -/
def State.teamRelease (s : State) (wk : Nat) (sig : Sig) (floor : Nat) : State :=
  match s.waves.fetch wk with
  | none => s
  | some w =>
    s.updTeam w.team fun t =>
      let g := t.tsig ||| sig
      if sigFull g then { t with tsig := 0, tsigfl := 1 } else { t with tsig := g, tsigfl := min t.tsigfl floor }

/-- The team part of a release at scope 1 by a wave as it stands (R116). -/
def State.relTeam (s : State) (wk : Nat) : State :=
  match s.waves.fetch wk with
  | none => s
  | some w => s.teamRelease wk w.sigacc w.sigfl

/-- What this device's releases have left at the slot of a member's line; nothing for a line that none has reached. -/
def State.peerSlot (s : State) (line : Nat) : SigSlot := (s.peerSlots.fetch line).getD ⟨line, 0, 6, 0, s.myMember, 0⟩

/-- The slot part of a release at a member's line (R105, R116, R460). At a domain scope the member may fill the slot, and then flushes
every L1 of the domain (R118): whether it does is a free value. Below, no message carries a signature (R459), and the slot holds the
releases of this device alone (DESIGN CHOICE, log entry 6). -/
def State.peerRelease (s : State) (line : Nat) (rmw : Bool) (sig : Sig) (floor scope g : Nat) : State :=
  let sl := (s.peerSlot line).release rmw sig floor scope s.myMember g
  let full := sigFull sl.sig || (decide (5 ≤ scope) && Config.peerFlush s.free)
  let s := if 5 ≤ scope then s.tick else s
  if full then { (s.flushL1 (flushRegion sl.scope g)) with peerSlots := s.peerSlots.ins line { sl with sig := 0, floor := min sl.floor sl.scope } }
  else { s with peerSlots := s.peerSlots.ins line sl }

/-- The home step's slot part of a release by a wave that carries a given signature and floor (R116, R252, R460). The write is
performed by the caller in the same step. -/
def State.relSlot (s : State) (wk scope : Nat) (sig : Sig) (floor : Nat) (line : Nat) (rmw : Bool) : State :=
  if scope < 2 then s
  else match homeOf (128 * line) with
    | .here => s.slotRelease line rmw sig floor scope s.myMember (wk / 64)
    | .member _ => s.peerRelease line rmw sig floor scope (wk / 64)
    | .host => s

/-- Signature and floor that an acquire takes from a member's line: what this device's releases have left there, and at a domain
scope the answer's, which this device does not know beforehand (R105, R117, R460; log entry 6). -/
def State.peerAcquire (s : State) (scope line : Nat) : Sig × Nat :=
  let mine := s.peerSlot line
  if scope < 5 then (mine.sig, mine.floor)
  else (mine.sig ||| Config.peerSig s.free, min mine.floor (Config.peerFloor s.free).toNat)

/-- The acquire part at a line of a wave (R117, R252, R460), after its read at the home. -/
def State.acqStep (s : State) (wk scope line : Nat) : State :=
  match scope with
  | 0 => s
  | 1 =>
    match s.waves.fetch wk with
    | none => s
    | some w =>
      match s.teams.fetch w.team with
      | none => s
      | some t => s.updWave wk fun w => { w with sigacc := w.sigacc ||| t.tsig, sigfl := min w.sigfl t.tsigfl }
  | _ =>
    match homeOf (128 * line) with
    | .here =>
      let q := s.slotAcquire line
      (s.invalidateHits (wk / 64) q.1).updWave wk fun w => { w with sigacc := w.sigacc ||| q.1, sigfl := min w.sigfl q.2 }
    | .member _ =>
      let q := s.peerAcquire scope line
      let s := if scope < 5 then s else s.tick
      (s.invalidateHits (wk / 64) q.1).updWave wk fun w => { w with sigacc := w.sigacc ||| q.1, sigfl := min w.sigfl q.2 }
    | .host => (s.flushL1 [wk / 64]).updWave wk fun w => { w with sigfl := min w.sigfl 1 }

/-- Inserts a line into SIGACC, when its home is a device (R113). -/
def State.sigAdd (s : State) (wk line : Nat) : State :=
  match homeOf (128 * line) with
  | .host => s
  | _ => s.updWave wk fun w => { w with sigacc := sigInsert w.sigacc (s.lineKey line) }

end Sys2Proof.Machine
end

