-- ==== Sys2Proof/Machine/Translate.lean ====
section
/-! DEFINITION. Translation (R411, R416 to R420): the walk, the cached translations, and the rows of the address map (R28). -/
namespace Sys2Proof.Machine

/-- Access kinds of a trap frame (R409). -/
inductive Kind where | none | load | store | atomic | fetch | desc
  deriving DecidableEq, Repr

/-- INFO[2:0] of R409. -/
def Kind.code : Kind → Nat
  | .none => 0 | .load => 1 | .store => 2 | .atomic => 3 | .fetch => 4 | .desc => 5

/-- Rows of the address map (R28). -/
inductive Row where | global | team | window | supervisor | nowhere
  deriving DecidableEq, Repr

/-- The row of an address (R28). -/
def rowOf (a : W64) : Row :=
  let n := a.toNat
  if n < 0x0100000000000000 then .global
  else if n < 0x0101000000000000 then .team
  else if n < 0x0101000100000000 then .window
  else if 0x01FFF00000000000 ≤ n ∧ n < 0x0200000000000000 then .supervisor
  else .nowhere

/-- Bit position of a level's index (R416). -/
def levelShift : Nat → Nat
  | 0 => 16 | 1 => 21 | 2 => 30 | 3 => 39 | _ => 48

/-- Entries of a level's table (R416). -/
def levelSize : Nat → Nat
  | 0 => 32 | 4 => 256 | _ => 512

/-- Alignment of a level's table (R416). -/
def tableAlign : Nat → Nat
  | 0 => 256 | _ => 4096

/-- What a walk finds (R419). -/
inductive Walk where
  | leaf (e : TlbEnt)
  /-- A missing or malformed entry: its address, the level, and whether it is malformed. -/
  | page (pa level : Nat) (malformed : Bool)
  | denied
  /-- The line of an entry is reserved by a member: its home holds the read (R434). -/
  | hold (line : Nat)
  deriving DecidableEq, Repr

/-- Key of the first byte of a page that a leaf maps (R418, R458). A leaf that names this device as a member maps its own
memory. -/
def State.leafBase (s : State) (tgt member addr : Nat) : Nat :=
  match tgt with
  | 0 => addr
  | 1 => if s.inDomain ∧ member = s.myMember ∧ addr < memTop then addr else memberKey member addr
  | _ => hostKey addr

/-- What one table entry says (R418, R419). -/
inductive Entry where
  | missing
  | malformed
  | leaf (e : TlbEnt)
  | table (addr : Nat)
  | hold (line : Nat)
  deriving DecidableEq, Repr

/-- Address of the entry of a level's table that serves an address (R416). -/
def entryPa (va level table : Nat) : Nat := table + 8 * (va / 2 ^ levelShift level % levelSize level)

/-- The entry of a level's table that serves an address (R416, R418, R419, R434). -/
def State.entry (s : State) (d tag va level table : Nat) : Entry :=
  let e := BitVec.ofNat 64 (s.homeNat (entryPa va level table) 8)
  let addr := bits e 8 44 * 256
  let tgt := bits e 54 2
  if s.isReserved (lineOf (entryPa va level table)) then .hold (lineOf (entryPa va level table))
  else if !bit e 0 then .missing
  else if bits e 52 2 ≠ 0 ∨ bits e 6 2 ≠ 0 ∨ tgt = 3 then .malformed
  else if bit e 1 then
    if 3 ≤ level ∨ addr % 2 ^ levelShift level ≠ 0 ∨ (tgt = 0 ∧ memTop ≤ addr) then .malformed
    else .leaf ⟨tag, d, va / 2 ^ levelShift level, levelShift level, s.leafBase tgt (bits e 56 8) addr, bit e 5, bit e 4,
      bit e 3, bit e 2⟩
  else if level = 0 ∨ tgt ≠ 0 ∨ bits e 56 8 ≠ 0 ∨ bits e 2 4 ≠ 0 ∨ addr % tableAlign (level - 1) ≠ 0 ∨ memTop ≤ addr then .malformed
  else .table addr

/-- The walk from a level's table down (R416, R419). -/
def State.walkFrom (s : State) (d tag va : Nat) : Nat → Nat → Walk
  | level, table =>
    match s.entry d tag va level table with
    | .missing => .page (entryPa va level table) level false
    | .malformed => .page (entryPa va level table) level true
    | .leaf e => .leaf e
    | .hold l => .hold l
    | .table addr =>
      match level with
      | 0 => .page (entryPa va 0 table) 0 true
      | l + 1 => State.walkFrom s d tag va l addr

/-- The root table of a context tag, or of SYSROOT for tag 0; else how the walk ends (R416, R417, R465). -/
def State.root (s : State) (d tag : Nat) : Walk ⊕ Nat :=
  if tag = 0 then
    let r := (s.die d).sysroot
    let addr := bits r 12 52 * 4096
    if !bit r 0 then .inl .denied
    else if memTop ≤ addr then .inl (.page 0 7 true)
    else .inr addr
  else
    let t := bits (s.die d).ctxt 12 52 * 4096
    let pa := t + 64 * tag
    if memTop ≤ t then .inl (.page pa 7 true)
    else if s.isReserved (lineOf pa) then .inl (.hold (lineOf pa))
    else
      let r := BitVec.ofNat 64 (s.homeNat pa 8)
      let addr := bits r 12 52 * 4096
      if !bit r 0 then .inl .denied
      else if bits r 1 11 ≠ 0 ∨ s.homeNat (pa + 8) 56 ≠ 0 ∨ memTop ≤ addr then .inl (.page pa 7 true)
      else .inr addr

/-- A walk (R416 to R419). -/
def State.walk (s : State) (d tag va : Nat) : Walk :=
  match s.root d tag with
  | .inl w => w
  | .inr addr => s.walkFrom d tag va 4 addr

/-- The leaves below a table that map some byte from lo to hi - 1; `va` is the first address that the table serves. -/
def State.leavesFrom (s : State) (d tag lo hi : Nat) : Nat → Nat → Nat → List TlbEnt
  | level, table, va =>
    (List.range (levelSize level)).flatMap fun i =>
      let a := va + i * 2 ^ levelShift level
      if a + 2 ^ levelShift level ≤ lo ∨ hi ≤ a then []
      else match s.entry d tag a level table with
        | .leaf e => [e]
        | .table addr => match level with
          | 0 => []
          | l + 1 => State.leavesFrom s d tag lo hi l addr a
        | _ => []

/-- The result of a translation. -/
inductive TRes where
  | ok (k : Nat)
  /-- No valid translation: the entry that is missing or malformed, and bits [6:3] of ACC (R412). -/
  | page (entry acc : Nat)
  | prot
  /-- The home of an entry holds the walk's read for the member that has reserved its line (R434). -/
  | hold (line : Nat)
  deriving DecidableEq, Repr

/-- A leaf gives the right (R419). -/
def TlbEnt.allows (e : TlbEnt) (sup : Bool) (k : Kind) : Bool :=
  (sup || e.u) && (match k with
    | .none => true | .load | .desc => e.r | .store => e.w | .atomic => e.r && e.w | .fetch => e.x)

def TlbEnt.covers (e : TlbEnt) (d tag va : Nat) : Bool := e.die == d && e.tag == tag && e.page == va / 2 ^ e.log

/-- Key of a byte of a page that a translation maps. -/
def TlbEnt.key (e : TlbEnt) (va : Nat) : Nat := e.base + va % 2 ^ e.log

/-- Uses a translation that a TLB holds or walks (R32, R419, R420). A failed translation is cached nowhere. `unit` is the core,
or nothing for the agents of the die, which use the translation service alone. -/
def State.translate (s : State) (d : Nat) (unit : Option Nat) (tag : Nat) (sup : Bool) (kind : Kind) (va : W64) : State × TRes :=
  let a := va.toNat
  let cached := match unit with
    | some g => (s.core g).tlb.find? fun (e : TlbEnt) => e.covers d tag a
    | none => none
  let cached := match cached with | some e => some e | none => (s.die d).stlb.find? fun (e : TlbEnt) => e.covers d tag a
  let keep := fun (s : State) (e : TlbEnt) =>
    let s := if (s.die d).stlb.contains e then s else s.updDie d fun x => { x with stlb := e :: x.stlb }
    match unit with
    | some g => if (s.core g).tlb.contains e then s else s.updCore g fun c => { c with tlb := e :: c.tlb }
    | none => s
  if 0x0100000000000000 ≤ a then (s, .prot)
  else match cached with
    | some e => if e.allows sup kind then (keep s e, .ok (e.key a)) else (s, .prot)
    | none =>
      match s.walk d tag a with
      | .denied => (s, .prot)
      | .hold l => (s, .hold l)
      | .page pa l m => (s, .page pa (16 * l + if m then 8 else 0))
      | .leaf e => if e.allows sup kind then (keep s e, .ok (e.key a)) else (s, .prot)

/-- The pieces of n bytes from an address that lie in one smallest page each. -/
def pagePieces (va : Nat) : Nat → Nat → List (Nat × Nat)
  | 0, _ => []
  | q + 1, n =>
    if n = 0 then []
    else
      let m := min n (65536 - va % 65536)
      (va, m) :: pagePieces (va + m) q (n - m)

/-- A failure that goes before another one of the same access (R75, R288): PROT, then what waits, then PAGE. -/
def TRes.before : TRes → TRes → Bool
  | .prot, .prot => false
  | .prot, _ => true
  | .hold _, .page _ _ => true
  | _, _ => false

/-- Translates the bytes of an access page by page (R29): the keys of its bytes, ascending, or the failure that is raised, with the
address of the first byte of its page. -/
def State.translateBytes (s : State) (d : Nat) (unit : Option Nat) (tag : Nat) (sup : Bool) (kind : Kind) (va : W64) (n : Nat) :
    State × (List Nat ⊕ (TRes × W64)) :=
  (pagePieces va.toNat (n / 65536 + 2) n).foldl (fun (q : State × (List Nat ⊕ (TRes × W64))) p =>
    let r := q.1.translate d unit tag sup kind (BitVec.ofNat 64 p.1)
    match q.2, r.2 with
    | .inl ks, .ok k => (r.1, .inl (ks ++ keysFrom k p.2))
    | .inl _, e => (r.1, .inr (e, BitVec.ofNat 64 p.1))
    | .inr e, .ok _ => (r.1, .inr e)
    | .inr e, f => (r.1, .inr (if f.before e.1 then (f, BitVec.ofNat 64 p.1) else e))) (s, .inl [])

/-- The keys, as intervals, that the valid translations of a core give for the addresses from lo to hi - 1: what its TLBs hold
and what a walk finds (R111, R261, R263; log entry 5). -/
def State.span (s : State) (g tag lo hi : Nat) : List (Nat × Nat) :=
  let d := dieOf g
  let held := ((s.core g).tlb ++ (s.die d).stlb).filter fun (e : TlbEnt) => e.die == d && e.tag == tag
  let walked := match s.root d tag with | .inl _ => [] | .inr addr => s.leavesFrom d tag lo hi 4 addr 0
  (held ++ walked).filterMap fun (e : TlbEnt) =>
    let a := max lo (e.page * 2 ^ e.log)
    let b := min hi ((e.page + 1) * 2 ^ e.log)
    if a < b then some (e.base + (a - e.page * 2 ^ e.log), e.base + (b - e.page * 2 ^ e.log)) else none

/-- A line holds a byte of one of some intervals. -/
def inSpan (sp : List (Nat × Nat)) (line : Nat) : Bool := sp.any fun p => p.1 / 128 ≤ line && 128 * line < p.2

end Sys2Proof.Machine
end

