-- ==== Sys2Proof/Machine/Splits.lean ====
section
/-! DEFINITION. Split tables, parking and rendezvous records as operations on one execution state (R45 to R48, R54 to R57). -/
namespace Sys2Proof.Machine

namespace ExecSt

/-- The lowest-numbered free entry (R46). -/
def freeEntry (x : ExecSt) : Option Nat := (List.range 4).find? fun e => (x.splits.fetch e).isNone

/-- The per-lane PC of a lane that stands in no split; a running lane stands at its entry's PC (R45). -/
def lanePc (x : ExecSt) (l : Nat) : W64 := FMap.at' 0 x.pcf l

/-- Gives the lanes of a mask a PC in the per-lane PC file. -/
def setPcs (x : ExecSt) (m : W32) (pc : W64) : ExecSt :=
  { x with pcf := (lanesOf m).foldl (fun f l => FMap.put 0 f l pc) x.pcf }

/-- Parks a group, last in the order (R46, R47). -/
def park (x : ExecSt) (pc : W64) (m : W32) : ExecSt :=
  if m = 0 then x else { x.setPcs m pc with parked := x.parked ++ [m] }

/-- The parked lanes that stand at a PC. -/
def parkedAt (x : ExecSt) (pc : W64) : W32 :=
  maskOf ((x.parked.flatMap lanesOf).filter fun l => x.lanePc l == pc)

/-- Takes lanes out of the parked order. -/
def unpark (x : ExecSt) (m : W32) : ExecSt :=
  { x with parked := (x.parked.map fun g => g &&& ~~~m).filter fun g => g != 0 }

/-- Puts a group into an entry. -/
def setEntry (x : ExecSt) (e : Nat) (pc : W64) (m : W32) : ExecSt :=
  { x with splits := x.splits.ins e { pc := pc, mask := m } }

/-- A group takes the lowest-numbered free entry, or parks (R46, R56). -/
def place (x : ExecSt) (pc : W64) (m : W32) : ExecSt :=
  if m = 0 then x
  else match x.freeEntry with
    | some e => x.setEntry e pc m
    | none => x.park pc m

/-- The oldest parked group, with every parked lane at its PC, takes a free entry (R47). Of lanes that stand in waits of different
length the split keeps the largest remainder (R205; DESIGN CHOICE, log entry 45: the spec does not say which). -/
def takeOne (x : ExecSt) : ExecSt :=
  match x.freeEntry, x.parked with
  | some e, g :: _ =>
    let pc := x.lanePc (lowLane g)
    let m := x.parkedAt pc
    let till := (lanesOf m).foldl (fun n l => max n (FMap.at' 0 x.pwait l)) 0
    let x := (x.unpark m).setEntry e pc m
    { x with splits := x.splits.upd e fun p => { p with waitTo := till }
             pwait := x.pwait.dropKeys fun l => bit m l }
  | _, _ => x

/-- Parked groups take the free entries (R47). -/
def takeParked (x : ExecSt) : ExecSt := x.takeOne.takeOne.takeOne.takeOne

/-- The lanes of a mask grouped by next PC, ascending (R46). -/
def groups (m : W32) (next : Nat → W64) : FMap W32 :=
  (lanesOf m).foldl (fun gs l => gs.ins (next l).toNat (FMap.at' 0 gs (next l).toNat ||| laneBit l)) []

/-- A branch of the split in an entry (R46). -/
def branch (x : ExecSt) (e : Nat) (m : W32) (next : Nat → W64) : ExecSt :=
  match groups m next with
  | [] => x
  | [(pc, g)] => x.setEntry e (BitVec.ofNat 64 pc) g
  | (pc, g) :: rest =>
    rest.foldl (fun x p => x.place (BitVec.ofNat 64 p.1) p.2) { x.setEntry e (BitVec.ofNat 64 pc) g with conv := false }

/-- Takes lanes out of splits, the parked order and the records; an emptied entry falls free, a record with an empty mask is
freed (R57). Completion of records comes after. -/
def dropLanes (x : ExecSt) (m : W32) : ExecSt :=
  { (x.unpark m) with
    splits := ((x.splits.map fun p => (p.1, { p.2 with mask := p.2.mask &&& ~~~m })).filter fun p => p.2.mask != 0)
    rdv := (x.rdv.map fun r => { r with mask := r.mask &&& ~~~m, waiting := r.waiting &&& ~~~m }).filter fun r => r.mask != 0 }

/-- The record that is complete and has the lowest PC (R57). -/
def fullRecord (x : ExecSt) : Option Rdv :=
  (x.rdv.filter fun r => r.waiting == r.mask).foldl (fun best r =>
    match best with
    | none => some r
    | some b => if r.pc.toNat < b.pc.toNat then some r else some b) none

def dropRecord (x : ExecSt) (r : Rdv) : ExecSt := { x with rdv := x.rdv.filter fun q => q != r }

/-- Every lane that a state holds (R45). -/
def lanes (x : ExecSt) : W32 :=
  x.splits.foldl (fun m p => m ||| p.2.mask) (x.parked.foldl (fun m g => m ||| g) (x.rdv.foldl (fun m r => m ||| r.waiting) 0))

/-- No lane is held twice, every waiting set lies in its mask, and exactly the given lanes are held (R45). -/
def wellFormed (x : ExecSt) (live : W32) : Bool :=
  let ms := x.splits.map (fun p => p.2.mask) ++ x.parked ++ x.rdv.map fun r => r.waiting
  (ms.foldl (fun (acc : Bool × W32) m => (acc.1 && (acc.2 &&& m) == 0, acc.2 ||| m)) (true, 0)) == (true, live)
    && x.rdv.all fun r => (r.waiting &&& ~~~r.mask) == 0

/-- One rotation (R48): the valid split with the highest PC, and of equal PCs the one with the highest lane, parks; the oldest
parked group takes the entry; the timer returns to 0. The split that parks stays parked, though it stands at the PC of that group
(DESIGN CHOICE, log entry 45: R47 and R48 leave it open). -/
def rotate (x : ExecSt) : ExecSt :=
  match x.parked with
  | [] => x
  | _ =>
    let best := x.splits.foldl (fun (b : Option (Nat × Split)) p =>
      match b with
      | none => some p
      | some q =>
        if q.2.pc.toNat < p.2.pc.toNat ∨ (q.2.pc = p.2.pc ∧ highLane q.2.mask < highLane p.2.mask) then some p else some q) none
    match best with
    | none => x
    | some (e, sp) =>
      let x := { x with splits := x.splits.del e }.takeOne
      let x := x.park sp.pc sp.mask
      { x with ptimer := 0, pwait := (lanesOf sp.mask).foldl (fun f l => FMap.put 0 f l sp.waitTo) x.pwait }

end ExecSt

/-- The execution state of a wave at its start (R45, R53, R74). -/
def ExecSt.start (pc : W64) : ExecSt :=
  { splits := [(0, { pc := pc, mask := 0xFFFFFFFF })], parked := [], ptimer := 0, rdv := [], conv := true
    pcf := [] }

/-- k0 of a wave: its live lanes (R78). -/
def Wave.live (w : Wave) : W32 := FMap.at' 0 w.k 0

/-- The live lanes that run: those of the handler while a handler runs (R203). -/
def Wave.liveHere (w : Wave) : W32 := if w.hnd.isSome then w.live &&& w.frame.lanes else w.live

/-- The wave runs nothing (R407). -/
def Wave.halted (w : Wave) : Bool := w.suspended || w.stopped || w.frozen

end Sys2Proof.Machine
end

