-- ==== Sys2Proof/Machine/Ops.lean ====
section
/-! DEFINITION. Named operations that the meanings share: the issuing split, taking an exception and returning from one (R66,
R407 to R411), fault records (R412 to R414), and the arrivals that the device makes of its own (R278, R473). -/
namespace Sys2Proof.Machine

/-- Fault code (R407). -/
def Code.num : Code → Nat
  | .trap => 0 | .illop => 1 | .unconv => 2 | .afovf => 3 | .misalign => 4 | .page => 5 | .prot => 6 | .poison => 7
  | .remdead => 8 | .accfirst => 9 | .bkpt => 10 | .wdog => 11 | .nestdepth => 12 | .eccu => 13 | .splitx => 14

/-- The fault of a code, 0x01 to 0x0E. -/
def Code.ofNum (n : Nat) : Option Code :=
  [Code.illop, .unconv, .afovf, .misalign, .page, .prot, .poison, .remdead, .accfirst, .bkpt, .wdog, .nestdepth, .eccu,
   .splitx].find? fun c => c.num == n

/-- Faults that always go to the fault service (R407). -/
def Code.toService : Code → Bool
  | .page | .wdog | .eccu | .splitx => true
  | _ => false

/-- What a fault brings to the trap frame and to its records. -/
structure Fi where
  code : Code
  /-- Trap number, breakpoint code or slots (R409). -/
  sub : Nat := 0
  /-- The marked lanes; nothing when the fault is not per lane. -/
  marked : Option W32 := none
  addr : W64 := 0
  kind : Kind := .none
  pa : Nat := 0
  inc : Nat := 0
  /-- For PAGE: lanes, address and ACC[6:3] of each missing or malformed entry, in order (R421). -/
  pages : List (W32 × W64 × Nat) := []
  deriving DecidableEq, Repr

/-! ### Fault records -/

/-- Record writing is on (R410, R411). -/
def Die.ringOn (d : Die) : Bool :=
  let n := bits d.fqlog2n 0 5
  6 ≤ n && n ≤ 16 && d.fqbase.toNat < memTop

/-- Records for which the ring has room (R414). -/
def Die.ringSpace (d : Die) : Nat := if d.ringOn then 2 ^ bits d.fqlog2n 0 5 - (d.fqtail - d.fqhead).toNat else 0

/-- There is room for a record (R414). -/
def Die.ringRoom (d : Die) : Bool := decide (0 < d.ringSpace)

/-- The 64 bytes of a record (R412). -/
def Rec.bytes (r : Rec) : List W8 :=
  let b := fun (x : Bool) (i : Nat) => if x then 2 ^ i else 0
  toBytes 4 (r.code + 2 ^ 8 * r.source + b r.replay 12 + b r.last 13 + b r.nested 14 + b r.restored 15 + 2 ^ 16 * (r.seq % 65536))
    ++ toBytes 4 r.srcid.toNat ++ toBytes 4 (r.tag + 256 * r.cause) ++ toBytes 4 r.lanes.toNat ++ toBytes 8 r.pc.toNat
    ++ toBytes 8 r.va.toNat ++ toBytes 8 r.pa ++ toBytes 4 r.acc.toNat ++ toBytes 4 r.inc ++ toBytes 8 r.time ++ toBytes 8 0

/-- Where the next record of a ring stands (R414). -/
def Die.ringAt (d : Die) : Nat := d.fqbase.toNat + 64 * (d.fqtail.toNat % 2 ^ bits d.fqlog2n 0 5)

/-- Writes a record at the tail of a die's ring and advances FQTAIL (R414). -/
def State.ringWrite (s : State) (d : Nat) (r : Rec) : State :=
  (s.writeHere (s.die d).ringAt r.bytes).updDie d fun x => { x with fqtail := x.fqtail + 1 }

/-- The home holds the write of the next record: its line is reserved (R434). -/
def State.ringHeld (s : State) (d : Nat) : Bool := s.isReserved (lineOf (s.die d).ringAt)

/-- How a producer acts on a full ring (R414). -/
inductive Full where | hold | overflow | drop
  deriving DecidableEq, Repr

/-- A record that the overflow queue holds while the ring is full: SCRUB_DONE or POISON_READ (R413, R414). -/
def Rec.spills (r : Rec) : Bool := r.code == 0x34 || r.code == 0x35

/-- A producer of a die makes a record (R414). Records enter the ring in the order in which they are made. -/
def State.record (s : State) (d : Nat) (how : Full) (r : Rec) : State :=
  let r := { r with time := s.cc }
  let x := s.die d
  let lost := fun (x : Die) => { x with fqlost := if x.fqlost == 0xFFFFFFFF then x.fqlost else x.fqlost + 1 }
  let queue := fun (x : Die) => { x with held := x.held ++ [r] }
  let fits := x.held.length < x.ringSpace
  match how with
  | .hold => s.updDie d queue
  | .overflow => if fits ∨ (x.held.filter fun q => q.spills).length < 256 then s.updDie d queue else s.updDie d lost
  | .drop =>
    if !fits then s.updDie d lost else if x.held.isEmpty && !s.ringHeld d then s.ringWrite d r else s.updDie d queue

/-! ### Taking an exception and returning from one -/

/-- SRCID of a wave (R412). -/
def waveSrc (wk : Nat) : W32 := BitVec.ofNat 32 (wk / 64 + 512 * (wk % 64))

/-- A split that is saved forgets that it stalls: it issues its form again on return (R286). -/
def ExecSt.settled (x : ExecSt) : ExecSt :=
  { x with splits := x.splits.map fun (p : Nat × Split) => (p.1, { p.2 with stall := .none, form := none, born := 0, ask := none }) }

/-- Handler entry (R408): the state is saved, the frame written, s63 set to the frame's address, and the handler split formed
at TRAPVEC + 64 c with CONV = 1 in supervisor mode. -/
def Wave.enterHandler (w : Wave) (lanes : W32) (pc rpc : W64) (fi : Fi) : Wave :=
  { w with
    hnd := some w.ex.settled
    frame := { w.frame with
      code := BitVec.ofNat 32 (fi.code.num + 256 * fi.sub)
      lanes := lanes, fpc := pc, rpc := rpc &&& ~~~7, addr := fi.addr, marked := fi.marked.getD lanes
      info := BitVec.ofNat 32 fi.kind.code
      sconv := if w.ex.conv then 1 else 0
      mode := if w.supervisor then 1 else 0
      save := (List.range 4).foldl (fun m i => FMap.put 0 m i (FMap.at' 0 w.s (60 + i))) []
      errs := w.spois.filter fun p => decide (60 ≤ p.1) }
    s := w.s.ins 63 0x01FFF00100000000
    spois := w.spois.del 63
    ex := { ExecSt.start (w.trapvec + BitVec.ofNat 64 (64 * fi.code.num)) with
      splits := [(0, { pc := w.trapvec + BitVec.ofNat 64 (64 * fi.code.num), mask := lanes })] }
    supervisor := true
    pcode := none
    suspended := false
    stopped := false
    nested := false }

/-- Return from a handler (R66, R210, R408): the saved state, s60 to s63 and the mode come back, and the lanes of the split
that faulted stand at RPC. The trap frame moves s60 to s63 with their check bits (R92). Records that have become complete are completed by the caller (R207). -/
def Wave.leaveHandler (w : Wave) : Wave :=
  match w.hnd with
  | none => w
  | some x =>
    let m := w.frame.lanes
    let x := { x with splits := x.splits.map fun (p : Nat × Split) => if p.2.mask &&& m = 0 then p else (p.1, { p.2 with pc := w.frame.rpc }) }
    let parked := maskOf ((x.parked.flatMap lanesOf).filter fun l => bit m l)
    { w with
      ex := x.setPcs parked w.frame.rpc
      hnd := none
      s := (List.range 4).foldl (fun r i => FMap.put 0 r (60 + i) (FMap.at' 0 w.frame.save i)) w.s
      spois := (w.spois.dropKeys fun n => decide (60 ≤ n)) ++ w.frame.errs
      supervisor := bit w.frame.mode 0 }

/-- A wave's fault goes to the service: the wave stops or is suspended, SEQ rises, and the records are queued (R407, R411,
R415, R421). -/
def State.toService (s : State) (wk : Nat) (w : Wave) (lanes : W32) (pc : W64) (fi : Fi) : State :=
  let nested := w.hnd.isSome
  let seq := (w.seq + 1) % 65536
  let susp := fi.code == .page && !nested
  let w' := { w with seq := seq, suspended := susp, stopped := !susp, nested := nested, pcode := some fi.code
                     plane := lanes, ppc := pc, pmark := fi.marked.getD lanes, paddr := fi.addr, pkind := fi.kind.code }
  let base : Rec := { code := fi.code.num, source := 0, replay := true, last := true, nested := nested, seq := seq
                      srcid := waveSrc wk, tag := w.tag, pc := pc, acc := BitVec.ofNat 32 fi.kind.code, inc := fi.inc, pa := fi.pa
                      lanes := if fi.code = .wdog then w.live else fi.marked.getD 0, va := fi.addr }
  let recs : List Rec := match fi.pages with
    | [] => [base]
    | ps => ((List.range ps.length).zip ps).map fun (p : Nat × W32 × W64 × Nat) =>
        { base with lanes := p.2.1, va := p.2.2.1, acc := BitVec.ofNat 32 (fi.kind.code + p.2.2.2), last := p.1 + 1 == ps.length }
  recs.foldl (fun s r => s.record (dieOf (wk / 64)) .hold r) (s.setWave wk w')

/-- Takes an exception in a wave, for the lanes of one split or group that stands at a PC (R407). An ECCU is the finding of an
uncorrectable error, which is counted (R93). -/
def State.raiseAt (s : State) (wk : Nat) (lanes : W32) (pc rpc : W64) (fi : Fi) : State :=
  let s := if fi.code = .eccu then s.countUe (wk / 64) 1 else s
  match s.waves.fetch wk with
  | none => s
  | some w =>
    if fi.code.toService || w.hnd.isSome || w.trapvec == 0 then s.toService wk w lanes pc fi
    else s.setWave wk (w.enterHandler lanes pc rpc fi)

/-! ### The issuing split -/

/-- The wave and split that issue, with the fields of the instruction. -/
structure Ctx where
  core : Nat
  slot : Nat
  entry : Nat
  w : Wave
  sp : Split
  f : F
  /-- The wave's team; none on a system core (R39). -/
  tm : Option Team
  cc : Nat
  deriving DecidableEq, Repr

/-- The issuing split that `cur` names. -/
def State.here (s : State) (f : F) : Option Ctx :=
  match s.waves.fetch (wkey s.cur.core s.cur.slot) with
  | none => none
  | some w =>
    match w.ex.splits.fetch s.cur.entry with
    | none => none
    | some sp => some ⟨s.cur.core, s.cur.slot, s.cur.entry, w, sp, f, s.teams.fetch w.team, s.cc⟩

namespace Ctx

def key (x : Ctx) : Nat := wkey x.core x.slot
def die (x : Ctx) : Nat := dieOf x.core
/-- Bytes of the instruction (R163). -/
def len (x : Ctx) : W64 := if x.f.x then 16 else 8
/-- PC of the next sequential instruction. -/
def next (x : Ctx) : W64 := x.sp.pc + x.len
def conv (x : Ctx) : Bool := x.w.ex.conv
/-- The register k of a number; k0 is the live lanes, of the handler in a handler (R78, R203). -/
def k (x : Ctx) (n : Nat) : W32 := FMap.at' 0 x.w.k n
/-- The active lanes: those of the split and of the guard (R79). -/
def act (x : Ctx) : W32 :=
  if x.f.g = 0 then x.sp.mask else x.sp.mask &&& (if x.f.gn then ~~~(x.k x.f.g.toNat) else x.k x.f.g.toNat)
/-- The lanes for which a single operation is performed: once with CONV = 1, else once for each active lane (R51). -/
def performs (x : Ctx) : List Nat := if x.conv then [lowLane x.act] else lanesOf x.act

end Ctx

/-- Takes an exception in the issuing split, which stands at its instruction (R407). -/
def State.raise (s : State) (x : Ctx) (fi : Fi) : State := s.raiseAt x.key x.sp.mask x.sp.pc x.sp.pc fi

/-- Moves the issuing split to the next sequential instruction. -/
def State.advance (s : State) (x : Ctx) : State :=
  s.updWave x.key fun w =>
    { w with ex := { w.ex with splits := w.ex.splits.upd x.entry fun p =>
      { p with pc := x.next, stall := .none, form := none, born := 0, ask := none } } }

/-- When the issuing split's form came to be performed: the cc, plus one, in which it first stalled, or this one. -/
def Ctx.since (x : Ctx) : Nat := if x.sp.born = 0 then x.cc + 1 else x.sp.born

/-- Holds the issuing split at a form that waits (R55, R274, R279). -/
def State.stallAt (s : State) (x : Ctx) (why : Stall) (i : Instr) : State :=
  s.updWave x.key fun w =>
    { w with ex := { w.ex with splits := w.ex.splits.upd x.entry fun p =>
      { p with stall := why, form := some i, born := x.since } } }

/-- The split is part of the way through an access: some of it is not performed yet. -/
def Split.unfinished (p : Split) : Bool :=
  p.born != 0 && match p.stall with
    | .member _ | .reserved _ | .replica _ _ | .owner _ | .fullEmpty | .earlier | .word (some _) => true
    | _ => false

/-- Another split of the wave has an unfinished access that it issued before a cc (R110, R116, R266, R288). -/
def Wave.older (w : Wave) (since : Nat) : Bool := w.ex.splits.any fun p => p.2.unfinished && decide (p.2.born < since)

/-- What a form that is performed after every earlier access of its wave still waits for, once the buffer has drained: an access of
another split (R110, R116, R123, R266, R288), then what the wave's stores wait for. -/
def State.awaits (s : State) (x : Ctx) : Option Stall :=
  if (s.waves.fetch x.key).any fun w => w.older x.since then some .earlier else s.waitsFor x.key

/-! ### Arrivals and child counts -/

/-- The saturation test of a release flushes (R116). -/
def releaseFlushes (sig : Sig) (floor scope : Nat) : Bool := sigFull sig || floor < scope

/-- Signature and floor after the saturation test of a release (R116). -/
def releasePair (sig : Sig) (floor scope : Nat) : Sig × Nat := if releaseFlushes sig floor scope then (0, scope) else (sig, floor)

/-- A release that the device makes of its own: the saturation test, then the slot step at the line (R116, R121, R122). -/
def State.deviceRelease (s : State) (line : Nat) (rmw : Bool) (sig : Sig) (floor scope anchor : Nat) : State :=
  if scope < 2 then s
  else
    let q := releasePair sig floor scope
    let s := if releaseFlushes sig floor scope then s.scopeFlush scope s.myMember anchor else s
    match homeOf (128 * line) with
    | .here => s.slotRelease line rmw q.1 q.2 scope s.myMember anchor
    | .member _ => s.peerRelease line rmw q.1 q.2 scope anchor
    | .host => s

/-- The home step of an arrival at a join barrier (R277, R278). -/
def State.barrierStep (s : State) (k : Nat) (p : Bool) : State :=
  let arrived := s.homeNat (k + 4) 4
  let status := s.homeNat (k + 0x10) 4
  let put := fun (s : State) (off n v : Nat) => s.writeHome (k + off) (toBytes n v)
  if status % 4 = 3 ∨ s.homeNat (k + 0x18) 40 ≠ 0 ∨ status % 4 ≠ 0 then put s 0x10 4 (status ||| 4)
  else
    let poison := s.homeNat (k + 8) 8 ||| (if p then 2 ^ (arrived % 64) else 0)
    let pcount := s.homeNat (k + 0x14) 4
    let arr := min (arrived + 1) 0xFFFFFFFF
    let s := put (put s 4 4 arr) 8 8 poison
    let s := if p then put s 0x14 4 (min (pcount + 1) 0xFFFFFFFF) else s
    if arr = s.homeNat k 4 then put s 0x10 4 (status + (if poison = 0 then 1 else 2)) else s

/-- Puts a turn at the head of the agenda (log entry 1). -/
def State.soon (s : State) (i : Instr) : State := { s with agenda := .event i :: s.agenda }

/-- The child count of a team falls; a draining team whose count reaches 0 retires (R43, R427). -/
def State.childDone (s : State) (team : Nat) : State :=
  match s.teams.fetch team with
  | some t =>
    let s := s.setTeam team { t with children := t.children - 1 }
    if t.draining && t.children == 1 then s.soon (.teamRetire team) else s
  | none => { s with kept := s.kept.upd team fun k => { k with children := k.children - 1 } }

def State.childAdd (s : State) (team : Nat) : State := s.updTeam team fun t => { t with children := t.children + 1 }

/-- What holds an arrival back (R473), or the key of its barrier. -/
def State.arrivalTarget (s : State) (d tag : Nat) (join : W64) : State × (Nat ⊕ (Option Code × Nat)) :=
  let r := s.translate d none tag false .store join
  match r.2 with
  | .prot => (r.1, .inr (some .prot, 0))
  | .page _ acc => (r.1, .inr (some .page, acc))
  | .hold _ => (r.1, .inr (none, 0))
  | .ok k =>
    if s.poisoned (lineOf k) then (r.1, .inr (some .poison, 0))
    else if (s.shut d (lineOf k)).isSome then (r.1, .inr (none, 0))
    else match homeOf k with
      | .here => (r.1, .inl k)
      | .host => (r.1, if s.hostUp d then .inl k else .inr (some .remdead, 0))
      | .member m =>
        match s.member d m with
        | .alive => (r.1, .inl k)
        | .recovering => (r.1, .inr (none, 0))
        | _ => (r.1, .inr (some .remdead, 0))

/-- Makes an arrival, or tries a held one again (R43, R302, R310, R312, R337, R473). An arrival whose home is RECOVERING waits
without a record (R436): its code is then TRAP. -/
def State.tryArrival (s : State) (d : Nat) (h : HeldArr) : State :=
  let r := s.arrivalTarget d h.tag h.join
  match r.2 with
  | .inl k =>
    let s := r.1.barrierStep k h.poison
    let s := s.deviceRelease (lineOf k) true h.sig h.floor h.scope h.anchor
    if h.parent = 0 then s else s.childDone h.parent
  | .inr (none, _) => r.1.updDie d fun x => { x with arrivals := x.arrivals ++ [{ h with code := .trap }] }
  | .inr (some c, acc) =>
    let seq := (FMap.at' 0 (s.die d).arrSeq h.kind + 1) % 65536
    let s := r.1.updDie d fun x => { x with arrivals := x.arrivals ++ [{ h with code := c, seq := seq }], arrSeq := x.arrSeq.ins h.kind seq }
    let at' := fun (f : Nat → Nat) => match (r.1.translate d none h.tag false .store h.join).2 with | .ok k => f k | _ => 0
    let pa := if c = .poison then at' fun k => keyPa k / 128 * 128 else 0
    let inc := if c = .remdead then at' (r.1.incAt d) else 0
    s.record d .hold { code := c.num, source := 9, replay := true, seq := seq, srcid := BitVec.ofNat 32 (d + 2 * h.kind)
                       tag := h.tag, va := h.join, pa := pa, inc := inc, acc := BitVec.ofNat 32 (2 + acc) }

/-- An arrival that the device makes of its own (R473). Kinds: 0 retirement, 1 task, 2 copy, 3 array, 4 bank, 5 combine unit. -/
def State.arrive (s : State) (d kind tag : Nat) (join : W64) (scope : Nat) (poison : Bool) (sig : Sig) (floor parent anchor : Nat) :
    State :=
  s.tryArrival d ⟨kind, tag, join, scope, poison, sig, floor, .page, parent, anchor, 0⟩

end Sys2Proof.Machine
end

