-- ==== Sys2Proof/Machine/Operands.lean ====
section
/-! DEFINITION. Operand forms: reading sources (R70 to R72, R169), writing destinations (R72, R78, R81, R90), and the checks that
every encoded instruction passes before it acts (R18, R72, R75, R92). -/
namespace Sys2Proof.Machine

/-- Lane l of varying register n (R72). -/
def Wave.vreg (w : Wave) (n l : Nat) : W32 := FMap.at' 0 w.v (32 * n + l)
/-- Lane l of the pair whose even register is n (R72). -/
def Wave.vpair (w : Wave) (n l : Nat) : W64 := (w.vreg (n + 1) l ++ w.vreg n l : BitVec 64)
def Wave.sreg (w : Wave) (n : Nat) : W64 := FMap.at' 0 w.s n
def Wave.areg (w : Wave) (n : Nat) : Aff := FMap.at' ⟨0, 0⟩ w.a n

/-- Value of an affine register at a lane (R71). -/
def Aff.lane (r : Aff) (l : Nat) : W64 := r.base + BitVec.ofNat 64 l * sext64 r.stride

/-- A team register as an issue of this cc reads it (R81). -/
def Team.treg (t : Team) (cc n : Nat) : W64 := if t.tcc = cc + 1 then FMap.at' 0 t.told n else FMap.at' 0 t.t n

/-- A write of a team register, seen from the next cc (R81). -/
def Team.setT (t : Team) (cc n : Nat) (v : W64) : Team :=
  { t with told := if t.tcc = cc + 1 then t.told else t.t, tpold := if t.tcc = cc + 1 then t.tpold else t.tpois, tcc := cc + 1
           t := FMap.put 0 t.t n v, tpois := t.tpois.del n }

/-- A correctable error of a team register is corrected and written back: its mark goes for the reads of this cc and of the next
(R81, R91). -/
def Team.fixT (t : Team) (n : Nat) : Team :=
  { t with tpold := t.tpold.del n, tpois := if t.tpois.fetch n = some false then t.tpois.del n else t.tpois }

/-- The errors of the team registers as an issue of this cc finds them (R81, R92). -/
def Team.errors (t : Team) (cc : Nat) : FMap Bool := if t.tcc = cc + 1 then t.tpold else t.tpois

/-- A team whose register n reads as it was last written, as the next performance of one issue finds it (R51, R81). -/
def Team.latest (t : Team) (n : Nat) : Team := { t with told := t.told.ins n (FMap.at' 0 t.t n) }

/-- A register of the wave's team, 0 where there is no team. -/
def Ctx.treg (x : Ctx) (n : Nat) : W64 := match x.tm with | some t => t.treg x.cc n | none => 0

/-- A source at a lane, as 64 bits (R71). `own` says that IMM32 serves the form itself, `pair` that a v operand is a pair. -/
def Ctx.src (x : Ctx) (own pair : Bool) (o : Src) (l : Nat) : W64 :=
  match o.file with
  | .s => x.w.sreg o.num.toNat
  | .a => (x.w.areg o.num.toNat).lane l
  | .v => if pair then x.w.vpair o.num.toNat l else (x.w.vreg o.num.toNat l).zeroExtend 64
  | .k => (x.k o.num.toNat).zeroExtend 64
  | .t => x.treg o.num.toNat
  | .imm => Forms.immValue own x.f o
  | .acc | .sys => 0

/-- A source as an affine value (R71). -/
def Ctx.affSrc (x : Ctx) (own : Bool) (o : Src) : Aff :=
  match o.file with
  | .a => x.w.areg o.num.toNat
  | _ => ⟨x.src own false o 0, 0⟩

/-! ### Destinations -/

/-- Writes the lanes of a mask of a varying register; `full` says that the instruction's active lanes are all 32, so that its
write ends a stored error (R90, R92). -/
def Wave.setV (w : Wave) (n : Nat) (full : Bool) (m : W32) (val : Nat → W32) : Wave :=
  { w with v := (lanesOf m).foldl (fun r l => FMap.put 0 r (32 * n + l) (val l)) w.v
           vpois := if full then w.vpois.del n else w.vpois }

/-- Writes the lanes of a mask of a pair (R72). -/
def Wave.setPair (w : Wave) (n : Nat) (full : Bool) (m : W32) (val : Nat → W64) : Wave :=
  (w.setV n full m fun l => (val l).truncate 32).setV (n + 1) full m fun l => ((val l) >>> 32).truncate 32

/-- The active lanes are all 32 (R90). -/
def Ctx.full (x : Ctx) : Bool := x.act == 0xFFFFFFFF

def Wave.setS (w : Wave) (n : Nat) (v : W64) : Wave := { w with s := FMap.put 0 w.s n v, spois := w.spois.del n }
def Wave.setA (w : Wave) (n : Nat) (r : Aff) : Wave := { w with a := FMap.put ⟨0, 0⟩ w.a n r, apois := w.apois.del n }

/-- Writes the bits of some lanes of a mask register (R78). -/
def Wave.setK (w : Wave) (n : Nat) (m bits : W32) : Wave :=
  { w with k := FMap.put 0 w.k n ((FMap.at' 0 w.k n &&& ~~~m) ||| (bits &&& m)) }

def State.writeV (s : State) (x : Ctx) (pair : Bool) (m : W32) (val : Nat → W64) : State :=
  s.updWave x.key fun w =>
    if pair then w.setPair x.f.d.num.toNat x.full m val else w.setV x.f.d.num.toNat x.full m fun l => (val l).truncate 32

def State.writeS (s : State) (x : Ctx) (v : W64) : State := s.updWave x.key fun w => w.setS x.f.d.num.toNat v
def State.writeA (s : State) (x : Ctx) (r : Aff) : State := s.updWave x.key fun w => w.setA x.f.d.num.toNat r
def State.writeK (s : State) (x : Ctx) (m bits : W32) : State := s.updWave x.key fun w => w.setK x.f.d.num.toNat m bits

/-- A plain write of a team register by number (R80, R81). A wave without a team, on a system core, writes nothing (DESIGN CHOICE, log
entry 45: the spec gives it no team register). -/
def State.writeT (s : State) (x : Ctx) (n : Nat) (v : W64) : State := s.updTeam x.w.team fun t => t.setT s.cc n v

/-- The issuing split as the next performance of a single operation finds it: it reads team register n as the last one left it,
and every other team register as this cc found it (R51, R81). -/
def Ctx.again (x : Ctx) (s : State) (n : Nat) : Ctx :=
  { x with tm := (s.teams.fetch x.w.team).map fun t => t.latest n }

/-! ### Checks before an instruction acts -/

/-- A varying register lies within the wave's block (R18, R72). -/
def Wave.inBlock (w : Wave) (n : Nat) (pair : Bool) : Bool := (if pair then n + 1 else n) < 2 ^ w.lregs

def Ctx.srcFits (x : Ctx) (pair : Bool) (o : Src) : Bool := o.file != .v || x.w.inBlock o.num.toNat pair

/-- Some varying operand lies outside the block (R18). -/
def Ctx.outOfBlock (x : Ctx) (p : Forms.Spec) : Bool :=
  !(x.srcFits p.aPair x.f.a && x.srcFits p.bPair x.f.b && x.srcFits p.cPair x.f.c
    && (x.f.d.file != .v || x.w.inBlock x.f.d.num.toNat p.dPair)
    && (p.rnd != some .v || x.w.inBlock x.f.rnd.toNat false))

/-- The registers that a source names: a pair is two words of the file (R72, R89). -/
def srcWords (pair : Bool) (o : Src) : List Src :=
  match o.file with
  | .v => if pair then [o, ⟨.v, o.num + 1⟩] else [o]
  | .s | .a | .t => [o]
  | _ => []

/-- The error that a read of a register finds: true for an uncorrectable one, false for one that is corrected (R91, R92). -/
def Ctx.errorOf (x : Ctx) (o : Src) : Option Bool :=
  match o.file with
  | .s => x.w.spois.fetch o.num.toNat
  | .a => x.w.apois.fetch o.num.toNat
  | .v => x.w.vpois.fetch o.num.toNat
  | .t => x.tm.bind fun t => (t.errors x.cc).fetch o.num.toNat
  | _ => none

/-- A source register holds an uncorrectable error (R92). -/
def Ctx.srcBad (x : Ctx) (pair : Bool) (o : Src) : Bool := (srcWords pair o).any fun r => x.errorOf r == some true

/-- The registers that an instruction reads: its sources, its random operand, and the old words of a partial write of a varying
destination (R90, R92, R219, R231). A write with no active lane is a partial write too: the model reads its old word (log entry
37). -/
def Ctx.reads (x : Ctx) (p : Forms.Spec) : List Src :=
  (if p.a.isEmpty then [] else srcWords p.aPair x.f.a) ++ (if p.b.isEmpty then [] else srcWords p.bPair x.f.b)
    ++ (if p.c.isEmpty then [] else srcWords p.cPair x.f.c)
    ++ (match p.rnd with | some r => srcWords false ⟨r, x.f.rnd⟩ | none => [])
    ++ (if x.f.d.file == .v && !x.full then srcWords p.dPair ⟨.v, x.f.d.num⟩ else [])

/-- The instruction reads an uncorrectable error (R92). -/
def Ctx.eccBad (x : Ctx) (p : Forms.Spec) : Bool := (x.reads p).any fun r => x.errorOf r == some true

/-- Every register that the instruction reads is free of correctable errors too. -/
def Ctx.clean (x : Ctx) (p : Forms.Spec) : Bool := (x.reads p).all fun r => x.errorOf r != some false

/-! ### Register errors (R89 to R93) -/

/-- The corrected word of a register is written back (R91). -/
def State.writeBack (s : State) (x : Ctx) (o : Src) : State :=
  let n := o.num.toNat
  match o.file with
  | .s => s.updWave x.key fun w => { w with spois := w.spois.del n }
  | .a => s.updWave x.key fun w => { w with apois := w.apois.del n }
  | .v => s.updWave x.key fun w => { w with vpois := w.vpois.del n }
  | .t => s.updTeam x.w.team fun t => t.fixT n
  | _ => s

/-- Reads of some registers: each correctable error that they find is corrected, written back and counted (R91, R93). -/
def State.correct (s : State) (x : Ctx) (rs : List Src) : State :=
  (rs.dedup.filter fun r => x.errorOf r == some false).foldl (fun (s : State) r => (s.writeBack x r).countCe x.core 1) s

/-- The first fault of an instruction before it acts, in the order of R75: ILLOP for a register outside the block or a check
of the form's own, UNCONV for a uniform or affine destination, ECCU. A form that reads its registers later passes `ecc` false. -/
def Ctx.fault (x : Ctx) (p : Forms.Spec) (ill unc ecc : Bool) : Option Fi :=
  if x.outOfBlock p || ill then some { code := .illop }
  else if !x.conv && (x.f.d.file == .s || x.f.d.file == .a || unc) then some { code := .unconv }
  else if ecc && x.eccBad p then some { code := .eccu }
  else none

/-- The registers that an instruction has read when its checks end in a fault, or in none. -/
def Ctx.readBy (x : Ctx) (p : Forms.Spec) (ecc : Bool) (r : Option Fi) : List Src :=
  match r with
  | some fi => if fi.code = .eccu then x.reads p else []
  | none => if ecc then x.reads p else []

/-- What every encoded instruction does at issue: its checks, then its own effect. `ill` and `unc` are checks of the form's own
(R75); `ecc` is false for a form that checks its registers later (R269, R288, R290). With no issuing split the instruction
cannot issue. -/
def issueFull (ill unc : Ctx → Bool) (ecc : Bool) (i : Instr) (s : State) (body : Ctx → State → State) :
    Host.Outcome State Fault Refusal :=
  match Forms.spec i with
  | none => .next s
  | some (p, f) =>
    match s.here f with
    | none => .fault .noIssuer
    | some x =>
      let r := x.fault p (ill x) (unc x) ecc
      let s := s.correct x (x.readBy p ecc r)
      match r with
      | some fi => .next (s.raise x fi)
      | none => .next (body x s)

/-- `issueFull` for a form that reads its registers at issue. -/
def issueWith (ill unc : Ctx → Bool) (i : Instr) (s : State) (body : Ctx → State → State) :
    Host.Outcome State Fault Refusal := issueFull ill unc true i s body

/-- `issueWith` for a form without checks of its own. -/
def issue (i : Instr) (s : State) (body : Ctx → State → State) : Host.Outcome State Fault Refusal :=
  issueFull (fun _ => false) (fun _ => false) true i s body

/-- `issue` for a form that reads its registers when it completes. -/
def issueLate (i : Instr) (s : State) (body : Ctx → State → State) : Host.Outcome State Fault Refusal :=
  issueFull (fun _ => false) (fun _ => false) false i s body

end Sys2Proof.Machine
end

