-- ==== Sys2Proof/Machine/Flags.lean ====
section
/-! DEFINITION. The sticky FLAGS of a wave (R86) and the system registers that hold them (R85, R87). -/
namespace Sys2Proof.Machine

/-- Bits of FLAGS (R86). -/
inductive Flag where | diff | naff | fpx | dz | satf | npz
  deriving DecidableEq, Repr

def Flag.bit : Flag → W32
  | .diff => 1 | .naff => 2 | .fpx => 4 | .dz => 8 | .satf => 16 | .npz => 32

/-- Sets a flag; hardware never clears one (R86). -/
def Wave.flag (w : Wave) (f : Flag) (set : Bool) : Wave := if set then { w with flags := w.flags ||| f.bit } else w

def State.flag (s : State) (x : Ctx) (f : Flag) (set : Bool) : State := if set then s.updWave x.key fun w => w.flag f true else s

/-- What a form computes: its value, and the flag that it raises (R86). -/
abbrev Val := W64 × Option Flag

def State.flagOf (s : State) (x : Ctx) : Option Flag → State
  | none => s
  | some f => s.flag x f true

/-- A typed s form: its value goes to an s register, or to a team register, there once for each performance (R51, R70, R80,
R224). -/
def State.uniform (s : State) (x : Ctx) (val : Ctx → Val) : State :=
  match x.f.d.file with
  | .t => (x.performs.foldl (fun (q : State × Ctx) _ =>
      let r := val q.2
      let s := (q.1.writeT q.2 q.2.f.d.num.toNat r.1).flagOf x r.2
      (s, q.2.again s x.f.d.num.toNat)) (s, x)).1
  | _ => let r := val x; (s.writeS x r.1).flagOf x r.2

/-- A typed v form: its value at each active lane goes to a varying register or pair, or its lowest bit to a mask register
(R78, R219, R232). -/
def State.varying (s : State) (x : Ctx) (pair : Bool) (val : Ctx → Nat → Val) : State :=
  let s := match x.f.d.file with
    | .k => s.writeK x x.act (maskWhere fun l => bit (val x l).1 0)
    | _ => s.writeV x pair x.act fun l => (val x l).1
  (lanesOf x.act).foldl (fun s l => s.flagOf x (val x l).2) s

/-- A typed form of either class; `val` takes the lane, 0 in the s class, then the split moves on. -/
def State.typed (s : State) (x : Ctx) (c : Cls) (pair : Bool) (val : Ctx → Nat → Val) : State :=
  match c with
  | .s => (s.uniform x fun x => val x 0).advance x
  | .v => (s.varying x pair val).advance x

/-- The bits of FLAGS that exist (R12, R86). -/
def flagsMask : W32 := 0x3F
/-- The bits of FPCTL that exist (R12, R87). -/
def fpctlMask : W32 := 0x7

/-- FPCTL.FTZ (R87). -/
def Wave.ftz (w : Wave) : Bool := bit w.fpctl 2
/-- FPCTL.RM (R87). -/
def Wave.rm (w : Wave) : Nat := bits w.fpctl 0 2

/-- Signed values of an integer result fit its width (R138). -/
def fitsSigned (n : Nat) (v : Int) : Bool := -(2 ^ (n - 1) : Int) ≤ v && v < 2 ^ (n - 1)
/-- Unsigned values of an integer result fit its width (R138). -/
def fitsUnsigned (n : Nat) (v : Int) : Bool := 0 ≤ v && v < 2 ^ n

/-- sat of R138: the nearest value of the type, and whether it differs. -/
def saturate (signed : Bool) (n : Nat) (v : Int) : Int × Bool :=
  let lo : Int := if signed then -(2 ^ (n - 1)) else 0
  let hi : Int := if signed then 2 ^ (n - 1) - 1 else 2 ^ n - 1
  if v < lo then (lo, true) else if hi < v then (hi, true) else (v, false)

end Sys2Proof.Machine
end

