-- ==== Sys2Proof/Machine/Reach.lean ====
section
/-! DEFINITION. Whether the home of a line answers (R253, R255, R434, R436, R457), and the reads of descriptors and records by
wave-issued forms and by the units of a die (R288). -/
namespace Sys2Proof.Machine

/-- What an access that needs an answer finds at a line. -/
inductive Reach where
  | ok
  | poison
  | dead
  /-- The line is shut, or its member is RECOVERING: the access waits. -/
  | hold (why : Stall)
  deriving DecidableEq, Repr

/-- What an access through a die finds at a line that it needs an answer from. -/
def State.reach (s : State) (d line : Nat) : Reach :=
  match s.shut d line with
  | some why => .hold why
  | none =>
    let here : Reach := if s.poisoned line then .poison else .ok
    match homeOf (128 * line) with
    | .here => here
    | .host => if s.hostUp d then here else .dead
    | .member m =>
      match s.member d m with
      | .alive => here
      | .recovering => .hold (.member m)
      | _ => .dead

/-- The first line of some bytes that does not answer cleanly, in the order hold, poison, dead, with its key. -/
def State.reachAll (s : State) (d : Nat) (ks : List Nat) : Reach × Nat :=
  let rs := ((ks.map lineOf).dedup).map fun l => (s.reach d l, 128 * l)
  match rs.find? fun r => match r.1 with | .hold _ => true | _ => false with
  | some r => r
  | none =>
    match rs.find? fun r => r.1 == .poison with
    | some r => r
    | none =>
      match rs.find? fun r => r.1 == .dead with
      | some r => r
      | none => (.ok, 0)

/-- Memory as a form reads it, once it is its turn. -/
inductive Read where
  | bytes (bs : List W8)
  | fault (fi : Fi)
  | wait (why : Stall)
  deriving DecidableEq, Repr

/-- The bytes of a wave's access, what it waits for, or the fault that it takes. -/
inductive Keys where
  | keys (ks : List Nat)
  | fault (fi : Fi)
  | wait (why : Stall)
  deriving DecidableEq, Repr

/-- What the home of each byte holds. -/
def State.homeBytes (s : State) (ks : List Nat) : List W8 := ks.map s.homeByte

/-- Translates bytes for a wave; a failure as the fault that the wave takes. -/
def State.waveKeys (s : State) (x : Ctx) (kind : Kind) (va : W64) (n : Nat) : State × Keys :=
  let r := s.translateBytes x.die (some x.core) x.w.tag x.w.supervisor kind va n
  match r.2 with
  | .inl ks => (r.1, .keys ks)
  | .inr (.page _ acc, a) => (r.1, .fault { code := .page, addr := va, kind := kind, pages := [(0, a, acc)] })
  | .inr (.hold l, _) => (r.1, .wait (.reserved l))
  | .inr (_, _) => (r.1, .fault { code := .prot, addr := va, kind := kind })

/-- A read of a descriptor or record by a wave's form, at the home, after the wave's earlier accesses (R288). -/
def State.readDesc (s : State) (x : Ctx) (kind : Kind) (va : W64) (n : Nat) : State × Read :=
  if 0x0100000000000000 < va.toNat + n then (s, .fault { code := .prot, addr := va, kind := kind })
  else
    let s := s.drainWave x.key
    match s.awaits x with
    | some why => (s, .wait why)
    | none =>
      let r := s.waveKeys x kind va n
      match r.2 with
      | .fault fi => (r.1, .fault fi)
      | .wait why => (r.1, .wait why)
      | .keys ks =>
        match r.1.reachAll x.die ks with
        | (.ok, _) => (r.1, .bytes (r.1.homeBytes ks))
        | (.poison, k) => (r.1, .fault { code := .poison, addr := va, kind := kind, pa := keyPa k })
        | (.dead, k) => (r.1, .fault { code := .remdead, addr := va, kind := kind, inc := r.1.incAt x.die k })
        | (.hold why, _) => (r.1, .wait why)

/-- A write by a unit at the home that a wave then sees: the issuing core's L1 copy of the line goes (R288). -/
def State.unitWrite (s : State) (g k : Nat) (bs : List W8) : State :=
  ((keysFrom k bs.length).map lineOf).dedup.foldl (fun s l => s.dropL1Line g l) (s.writeHome k bs)

/-- A read by a unit of a die under a context tag with user rights, or the code that a record reports (R390, R394). -/
inductive UnitRead where
  | bytes (bs : List W8)
  | poison (line : Nat)
  | bad
  /-- The line's home is RECOVERING, or the line is reserved: the unit tries again (R434, R436). -/
  | wait
  deriving DecidableEq, Repr

/-- A unit's read. -/
def State.unitRead (s : State) (d tag : Nat) (va : W64) (n : Nat) : State × UnitRead :=
  let r := s.translateBytes d none tag false .load va n
  match r.2 with
  | .inr (.hold _, _) => (r.1, .wait)
  | .inr _ => (r.1, .bad)
  | .inl ks =>
    match r.1.reachAll d ks with
    | (.ok, _) => (r.1, .bytes (r.1.homeBytes ks))
    | (.poison, k) => (r.1, .poison (lineOf k))
    | (.hold _, _) => (r.1, .wait)
    | (.dead, _) => (r.1, .bad)

/-- Little-endian field of a list of bytes (R6). -/
def field (bs : List W8) (off n : Nat) : Nat := ofBytes ((bs.drop off).take n)

/-- Every byte of a range is zero. -/
def zeros (bs : List W8) (off n : Nat) : Bool := ((bs.drop off).take n).all fun b => b == 0

/-- Die whose ring takes a POISON_READ of a line: the near die of the line's stack, or for a line of another device the die that
reads it (R437; log entry 41). -/
def poisonDie (d line : Nat) : Nat := match homeOf (128 * line) with | .here => nearDie (stackOf (128 * line)) | _ => d

/-- POISON_READ (R413, R414, R437): a record with the line that a unit of die d has read. Its cause is 0 where the read finds an
uncorrectable error of DRAM, in a failed row too, and 1 where it finds the mark. -/
def State.poisonRead (s : State) (d src : Nat) (srcid : W32) (tag line : Nat) : State :=
  let cause := if FMap.at' false s.hard line || s.failedLine line then 0 else 1
  ({ s with hard := s.hard.del line }).record (poisonDie d line) .overflow
    { code := 0x35, source := src, srcid := srcid, tag := tag, cause := cause, pa := keyPa (128 * line) }

/-- The wave's own team memory: offset of an address in it, when it lies in the team's allocation (R28, R398). -/
def Ctx.teamOff (x : Ctx) (va : W64) (n : Nat) : Option Nat :=
  match x.tm with
  | none => none
  | some t =>
    let o := va.toNat - 0x0100000000000000
    if rowOf va = .team ∧ o + n ≤ t.teammem then some o else none

/-- Bytes of a team's memory (R124). -/
def Team.bytes (t : Team) (o n : Nat) : List W8 := (keysFrom o n).map fun i => FMap.at' 0 t.mem i
def Team.putBytes (t : Team) (o : Nat) (bs : List W8) : Team :=
  { t with mem := ((keysFrom o bs.length).zip bs).foldl (fun m p => FMap.put 0 m p.1 p.2) t.mem }

end Sys2Proof.Machine
end

