-- ==== Sys2Proof/Machine/ArrayCfg.lean ====
section
/-! DEFINITION. The configuration of an array (R348 to R363, R371, R372): fields, the partition table, attachments, and the checks
of an image. -/
namespace Sys2Proof.Machine

/-- Key of a field of a plane. -/
def cfgKey (c e f : Nat) : Nat := 65536 * c + 64 * e + f
/-- Key of a partition's copy of a field of elements 1008 and 1009 (R358). -/
def partKey (k c e f : Nat) : Nat := 65536 * (4 + 4 * k + c) + 64 * e + f

/-- Where partition k keeps a field of plane c; elements 1010 and 1011 have no planes (R358, R359, R361). -/
def fieldKey (k c e f : Nat) : Nat :=
  if e = 1008 ∨ e = 1009 then partKey k c e f else if 1010 ≤ e then cfgKey 0 e f else cfgKey c e f

def Stack.field (x : Stack) (k c e f : Nat) : Nat := (FMap.at' 0 x.cfg (fieldKey k c e f)).toNat
def Stack.setField (x : Stack) (k c e f v : Nat) : Stack :=
  { x with cfg := FMap.put 0 x.cfg (fieldKey k c e f) (BitVec.ofNat 16 v) }

/-- The fields of one plane as a partition sees them: element, field. -/
abbrev Plane := Nat → Nat → Nat

/-- Bit i of a number. -/
def nbit (n i : Nat) : Bool := n / 2 ^ i % 2 == 1
/-- n bits of a number from bit lo. -/
def nbits (v lo n : Nat) : Nat := v / 2 ^ lo % 2 ^ n

/-! ### The partition table (R359) -/

/-- Field i of partition k in a table. -/
abbrev PTab := Nat → Nat → Nat
def Stack.ptab (x : Stack) : PTab := fun k i => x.field 0 0 1010 (16 * k + i)

def PTab.valid (t : PTab) (k : Nat) : Bool := nbit (t k 0) 15
/-- The partition owns a column. -/
def PTab.col (t : PTab) (k c : Nat) : Bool := t.valid k && nbits (t k 0) 0 5 ≤ c && c ≤ nbits (t k 0) 5 5
def PTab.port (t : PTab) (k p : Nat) : Bool := t.valid k && nbit (t k (1 + p / 16)) (p % 16)
def PTab.node (t : PTab) (k n : Nat) : Bool := t.valid k && nbit (t k (5 + n / 16)) (n % 16)
def PTab.gate (t : PTab) (k g : Nat) : Bool := t.valid k && nbit (t k (7 + g / 16)) (g % 16)

/-- The partition owns an element (R344, R359). -/
def PTab.owns (t : PTab) (k e : Nat) : Bool :=
  if e < 768 then t.col k (e % 32)
  else if e < 832 then t.port k (e - 768)
  else if e < 864 then t.node k (e - 832)
  else if e < 928 then t.gate k (e - 864)
  else false

/-- The partition that owns an element. -/
def PTab.owner (t : PTab) (e : Nat) : Option Nat := (List.range 4).find? fun k => t.owns k e

/-- One partition's entry is sound on its own: columns in order, attachments in its columns, a share for its ports (R359). -/
def PTab.soundOne (t : PTab) (k : Nat) : Bool :=
  !t.valid k ||
    (nbits (t k 0) 0 5 ≤ nbits (t k 0) 5 5
      && (List.range 64).all (fun p => !t.port k p || t.col k (p % 32))
      && (List.range 64).all (fun g => !t.gate k g || t.col k (g % 32))
      && (List.range 32).all (fun n => !t.node k n || t.col k n)
      && t k 11 ≤ 16
      && (!(List.range 64).any (t.port k) || 1 ≤ t k 11))

/-- Two partitions share nothing (R359). -/
def PTab.apart (t : PTab) (j k : Nat) : Bool :=
  (List.range 32).all (fun c => !(t.col j c && t.col k c))
    && (List.range 64).all (fun p => !(t.port j p && t.port k p))
    && (List.range 32).all (fun n => !(t.node j n && t.node k n))
    && (List.range 64).all (fun g => !(t.gate j g && t.gate k g))

/-- The table is sound (R359). -/
def PTab.sound (t : PTab) : Bool :=
  (List.range 4).all t.soundOne
    && (List.range 4).all (fun k => (List.range k).all fun j => t.apart j k)
    && ((List.range 4).map fun k => if t.valid k then t k 11 else 0).sum ≤ 16

/-! ### Fields (R352 to R358) -/

/-- The bits that a field defines; nothing for a reserved field (R352, R356 to R358). -/
def fieldBits (e f : Nat) : Option Nat :=
  if e < 768 then
    if f = 0 then some 0x00BF
    else if f = 1 ∨ f = 3 then some 0x3FFF
    else if f = 2 ∨ f = 4 then some 0x01FF
    else if f ≤ 0x0A then some 0xFFFF
    else if f = 0x0B then some 0x0007
    else if 0x10 ≤ f ∧ f ≤ 0x26 then some 0xFFFF
    else if 0x28 ≤ f ∧ f ≤ 0x2B then some 0xFFFF
    else none
  else if e < 832 then
    [0x01FF, 0x07FF, 0xFFFF, 0xFFFF, 0x1FFF, 0x013F, 0xFFFF, 0x0003, 0xFFFF, 0x00FF][f]?
  else if e < 864 then [0x003F, 0x07FF][f]?
  else if e < 928 then [0x07FF][f]?
  else if e = 1008 then [0x0003, 0xFFFF, 0xFFFF, 0xFFFF][f]?
  else if e = 1009 then (if f < 16 then some 0x07FF else none)
  else none

/-- What R354 says of an operation in a format: which selects it uses, and whether it rounds; nothing for a cell marked with a
dash. Formats: 0 i32, 1 u32, 2 f32, 3 i64, 4 bf16x4, 5 i8x8. -/
structure OpRow where
  ints : Option Bool
  f32 : Option Bool
  bf16 : Option Bool
  i8 : Option Bool
  uses : Nat
  deriving DecidableEq, Repr

/-- The operations of R354. -/
def opRow (opc : Nat) : Option OpRow :=
  let n := some false
  let r := some true
  if opc = 0x00 then some ⟨n, n, n, n, 1⟩
  else if 0x01 ≤ opc ∧ opc ≤ 0x03 then some ⟨n, r, r, none, 2⟩
  else if opc = 0x04 then some ⟨n, r, r, none, 3⟩
  else if opc = 0x05 ∨ opc = 0x06 then some ⟨n, n, n, none, 2⟩
  else if opc = 0x07 ∨ opc = 0x08 then some ⟨n, n, n, none, 1⟩
  else if 0x09 ≤ opc ∧ opc ≤ 0x0B then some ⟨n, n, none, n, 2⟩
  else if opc = 0x0C ∨ opc = 0x0D then some ⟨n, none, none, none, 2⟩
  else if opc = 0x0E then some ⟨n, n, n, none, 3⟩
  else if 0x10 ≤ opc ∧ opc ≤ 0x15 then some ⟨n, n, none, none, 2⟩
  else if opc = 0x18 then some ⟨n, n, n, none, 1⟩
  else if opc = 0x20 then some ⟨n, r, none, none, 2⟩
  else if opc = 0x21 then some ⟨none, r, none, none, 1⟩
  else if 0x22 ≤ opc ∧ opc ≤ 0x25 then some ⟨none, n, none, none, 1⟩
  else if opc = 0x28 then some ⟨r, none, none, none, 1⟩
  else if 0x29 ≤ opc ∧ opc ≤ 0x2B then some ⟨none, r, none, none, 1⟩
  else if opc = 0x30 then some ⟨none, none, none, n, 3⟩
  else none

/-- The cell of an operation in a format. -/
def OpRow.cell (o : OpRow) (fmt : Nat) : Option Bool :=
  match fmt with
  | 0 | 1 | 3 => o.ints | 2 => o.f32 | 4 => o.bf16 | 5 => o.i8 | _ => none

/-- The operation of a slot stands in a cell of R354 that is marked with a dash. -/
def dashCell (v : Nat) : Bool := (opRow (v % 256)).any fun o => (o.cell (nbits v 8 3)).isNone

/-- A value that R352 to R357 and R370 reject (R372 code 4), an operation in a cell that R354 marks with a dash among them
(log entry 25). -/
def badValue (e f v : Nat) : Bool :=
  if e < 768 then
    if f = 0 then v % 4 == 3
    else if f = 1 ∨ f = 3 then
      let fmt := nbits v 8 3
      let rnd := nbits v 11 3
      match opRow (v % 256) with
      | none => true
      | some o => 5 < fmt || 3 < rnd || dashCell v || (rnd != 0 && o.cell fmt != some true)
    else if f = 2 ∨ f = 4 then nbits v 0 3 == 7 || nbits v 3 3 == 7 || nbits v 6 3 == 7
    else if f = 0x0B then 4 < v % 8
    else 0x10 ≤ f && 24 ≤ v % 32
  else if e < 832 then f == 0 && (5 < v % 8 || nbits v 3 2 == 3)
  else if 864 ≤ e ∧ e < 928 then nbit v 6 && !(0x30 ≤ v % 64 && v % 64 ≤ 0x33)
  else false

/-- A reserved bit is set, or the value is rejected (R372 code 4). -/
def wrongValue (e f v : Nat) : Bool :=
  match fieldBits e f with
  | none => true
  | some m => v &&& m != v || badValue e f v

/-! ### Geometry (R352, R355) -/

/-- The neighbour toward a side: 0 north, 1 east, 2 south, 3 west. -/
def neighbour (e d : Nat) : Option Nat :=
  let r := e / 32
  let c := e % 32
  match d with
  | 0 => if 0 < r then some (e - 32) else none
  | 1 => if c < 31 then some (e + 1) else none
  | 2 => if r < 23 then some (e + 32) else none
  | _ => if 0 < c then some (e - 1) else none

/-- The element that a router's ATT fields feed (R355). -/
def attTo (e : Nat) : Option Nat :=
  let c := e % 32
  match e / 32 with
  | 0 => some (768 + c) | 23 => some (800 + c) | 1 => some (864 + c) | 22 => some (896 + c) | 11 => some (832 + c) | _ => none

/-- The element that a router's codes 20 to 23 take tokens from (R355). -/
def attFrom (e : Nat) : Option Nat :=
  let c := e % 32
  match e / 32 with
  | 0 => some (768 + c) | 23 => some (800 + c) | 12 => some (832 + c) | _ => none

/-- The router whose ATT fields feed an attached element. -/
def feeder (a : Nat) : Nat :=
  if a < 800 then a - 768 else if a < 832 then 736 + (a - 800) else if a < 864 then 352 + (a - 832)
  else if a < 896 then 32 + (a - 864) else 704 + (a - 896)

/-- The router that takes an attached element's emissions. -/
def taker (a : Nat) : Nat := if 832 ≤ a ∧ a < 864 then 384 + (a - 832) else feeder a

/-- MODE and W of a port (R356). -/
def Plane.mode (g : Plane) (p : Nat) : Nat := g (768 + p) 0 % 8
def Plane.width (g : Plane) (p : Nat) : Nat := 2 ^ nbits (g (768 + p) 0) 3 2
/-- Format of a node, 0 for off (R357). -/
def Plane.fmt (g : Plane) (n : Nat) : Nat := g (832 + n) 0 % 4
/-- A gate is enabled (R357). -/
def Plane.gateOn (g : Plane) (n : Nat) : Bool := nbit (g (864 + n) 0) 6
/-- WCOUNT of a copy-fed port (R323, R356). -/
def Plane.wcount (g : Plane) (p : Nat) : Nat := g (768 + p) 3 + 65536 * g (768 + p) 4
/-- The PE is configured (R352). -/
def Plane.pe (g : Plane) (e : Nat) : Bool := nbit (g e 0) 7
/-- Control operator (R352). -/
def Plane.oper (g : Plane) (e : Nat) : Nat := g e 0x0B % 8
/-- Source of an output or input field, 0 for none. -/
def Plane.srcOf (g : Plane) (e f : Nat) : Nat := g e f % 32
/-- Weight of a field (R352, R363). -/
def Plane.wt (g : Plane) (e f : Nat) : Nat := g e f / 32

/-- Region of an element (R363). -/
def Plane.region (g : Plane) (e : Nat) : Nat :=
  if e < 768 then nbits (g e 0) 2 4
  else if e < 832 then nbits (g e 0) 5 4
  else if e < 864 then nbits (g e 0) 2 4
  else nbits (g e 0) 7 4

/-- Attachment tracks that an element takes, and tracks that it emits (R355). -/
def Plane.takes (g : Plane) (a : Nat) : Nat :=
  if a < 832 then (match g.mode (a - 768) with | 2 | 4 => g.width (a - 768) | _ => 0)
  else if a < 864 then (if g.fmt (a - 832) = 0 then 0 else 4)
  else if g.gateOn (a - 864) then 1 else 0
def Plane.gives (g : Plane) (a : Nat) : Nat :=
  if a < 832 then (match g.mode (a - 768) with | 1 => g.width (a - 768) | 3 => 1 | _ => 0)
  else if a < 864 then (if g.fmt (a - 832) = 0 then 0 else 1)
  else 0

/-- Output fields of a router that select tracks: OUT and ATT (R352). -/
def outFields : List Nat := (List.range 16).map (fun i => 0x10 + i)
def inFields : List Nat := [0x20, 0x21, 0x22]
def opFields : List Nat := [0x24, 0x25, 0x26]
def attFields : List Nat := [0x28, 0x29, 0x2A, 0x2B]
/-- Every field of a grid element that names a source. -/
def srcFields : List Nat := outFields ++ inFields ++ [0x23] ++ opFields ++ attFields

/-- Inputs of the control operators (R320). -/
def operInputs : Nat → List Nat
  | 1 | 3 => [0x24, 0x26]
  | 2 | 4 => [0x24, 0x25, 0x26]
  | _ => []

/-! ### Image checks (R371, R372) -/

/-- ELEM, FIELD and VALUE of a configuration word (R348). -/
def wordElem (w : W32) : Nat := bits w 22 10
def wordField (w : W32) : Nat := bits w 16 6
def wordValue (w : W32) : Nat := bits w 0 16

def isEnd (w : W32) : Bool := wordElem w == 1023 && wordField w == 0x3F

def noWord : Nat := 0xFFFFFFFF

/-- Stream checks: the reason and the failing word (R349, R372). -/
def streamCheck (ws : List W32) : Option (Nat × Nat) :=
  let n := ws.length
  if n < 2 ∨ 65536 < n then some (1, noWord)
  else
    let last := ws.getLastD 0
    if !isEnd last then some (1, n - 1)
    else match (ws.take (n - 1)).findIdx? isEnd with
      | some i => some (1, i)
      | none =>
        let sum := ((ws.take (n - 1)).map fun w => bits w 16 16 + bits w 0 16).sum % 65536
        if sum ≠ wordValue last then some (1, n - 1) else none

/-- The reason that rejects one word, 0 when it is sound (R372). -/
def wordCheck (t : PTab) (k : Nat) (w : W32) : Nat :=
  let e := wordElem w
  if (fieldBits e (wordField w)).isNone then 2
  else if e < 928 ∧ !t.owns k e then 3
  else if wrongValue e (wordField w) (wordValue w) then 4
  else 0

/-- Word checks in word order. -/
def wordsCheck (t : PTab) (k : Nat) (ws : List W32) : Option (Nat × Nat) :=
  (((List.range ws.length).zip ws).find? fun p => wordCheck t k p.2 != 0).map fun p => (wordCheck t k p.2, p.1)

/-- A source code of a router names a track or an attachment that is there (R372 code 5). -/
def srcOk (t : PTab) (k : Nat) (g : Plane) (e s : Nat) : Bool :=
  if 1 ≤ s ∧ s ≤ 16 then (neighbour e ((s - 1) / 4)).isSome
  else if 20 ≤ s ∧ s ≤ 23 then
    match attFrom e with
    | some a => t.owns k a && s - 20 < g.gives a
    | none => false
  else true

/-- Code 5 for a grid element. -/
def routeBad (t : PTab) (k : Nat) (g : Plane) (e : Nat) : Bool :=
  srcFields.any fun f =>
    let s := g.srcOf e f
    s != 0 &&
      (!srcOk t k g e s
        || (0x10 ≤ f && f < 0x20 && (neighbour e ((f - 0x10) / 4)).isNone)
        || (0x28 ≤ f && match attTo e with | some a => !(t.owns k a && f - 0x28 < g.takes a) | none => true))

/-- A checked slot breaks R353 or R354 (R372 code 6). -/
def slotBad (g : Plane) (e f : Nat) : Bool :=
  let v := g e f
  match opRow (v % 256) with
  | none => true
  | some o =>
    (o.cell (nbits v 8 3)).isNone ||
      (List.range 3).any fun i =>
        let sel := nbits (g e (f + 1)) (3 * i) 3
        if i < o.uses then sel < 3 && g.srcOf e (0x20 + sel) == 0 else sel != 0

/-- Code 6 for a grid element. -/
def elemBad (g : Plane) (e : Nat) : Bool :=
  let used := srcFields.map (g.srcOf e)
  let kind := g.oper e
  (used.contains 18 && kind == 0) || (used.contains 19 && kind != 1)
    || (operInputs kind).any (fun f => g.srcOf e f == 0)
    || (g.pe e && (inFields.all (fun f => g.srcOf e f == 0) || slotBad g e 1 || (g.srcOf e 0x23 != 0 && slotBad g e 3)))

/-- Code 7 for an attached element. -/
def attBad (t : PTab) (k : Nat) (g : Plane) (a : Nat) : Bool :=
  if a < 832 then
    let p := a - 768
    match g.mode p with
    | 5 => !(t.node k (p / 2) && g.fmt (p / 2) != 0)
    | 3 => g.wcount p == 0 || 4096 < g.wcount p
    | _ => false
  else if a < 864 then
    let n := a - 832
    g.fmt n != 0 && !([2 * n, 2 * n + 1].any fun p => t.port k p && g.mode p == 5)
  else false

/-- The OUT field that drives the track which an OUT field continues, within a partition. -/
def feedField (t : PTab) (k : Nat) (g : Plane) (q : Nat × Nat) : Option (Nat × Nat) :=
  let s := g.srcOf q.1 q.2
  if 1 ≤ s ∧ s ≤ 16 then
    match neighbour q.1 ((s - 1) / 4) with
    | some nb => if t.owns k nb then some (nb, 0x10 + 4 * (((s - 1) / 4 + 2) % 4) + (s - 1) % 4) else none
    | none => none
  else none

/-- Following a chain of tracks back from a field meets the field again. -/
def loops (t : PTab) (k : Nat) (g : Plane) (q0 : Nat × Nat) : Nat → Nat × Nat → Bool
  | 0, _ => false
  | n + 1, q =>
    match feedField t k g q with
    | none => false
    | some p => p == q0 || loops t k g q0 n p

/-- The elements of a partition among those below 928, ascending. -/
def PTab.elems (t : PTab) (k : Nat) : List Nat := (List.range 928).filter (t.owns k)

/-- Code 8: a cycle of tracks alone. -/
def cycles (t : PTab) (k : Nat) (g : Plane) : Bool :=
  let fs := ((t.elems k).filter (fun e => e < 768)).flatMap fun e =>
    (outFields.filter fun f => 1 ≤ g.srcOf e f && g.srcOf e f ≤ 16).map fun f => (e, f)
  fs.any fun q => loops t k g q fs.length q

/-- The plane checks in element order, then the cycle check (R371). -/
def planeCheck (t : PTab) (k : Nat) (g : Plane) : Option (Nat × Nat) :=
  let code := fun e =>
    if e < 768 then (if routeBad t k g e then 5 else if elemBad g e then 6 else 0)
    else if attBad t k g e then 7 else 0
  match (t.elems k).find? fun e => code e != 0 with
  | some e => some (code e, noWord)
  | none => if cycles t k g then some (8, noWord) else none

/-- Applies the words of an image but END to a plane's fields (R349). -/
def applyWords (cfg : FMap W16) (k c : Nat) (ws : List W32) : FMap W16 :=
  (ws.take (ws.length - 1)).foldl (fun m w =>
    FMap.put 0 m (fieldKey k c (wordElem w) (wordField w)) (BitVec.ofNat 16 (wordValue w))) cfg

/-- A plane in a map of fields. -/
def planeOf (cfg : FMap W16) (k c : Nat) : Plane := fun e f => (FMap.at' 0 cfg (fieldKey k c e f)).toNat

/-- The first failure of an image (R371), or the fields as they stand with it. -/
def Stack.checkImage (x : Stack) (k c : Nat) (ws : List W32) (fromDeck : Bool) : (Nat × Nat) ⊕ FMap W16 :=
  let t := x.ptab
  match if fromDeck then none else streamCheck ws with
  | some r => .inl r
  | none =>
    let cfg := applyWords x.cfg k c ws
    match wordsCheck t k (ws.take (ws.length - 1)) with
    | some r => .inl r
    | none =>
      match planeCheck t k (planeOf cfg k c) with
      | some r => .inl r
      | none => .inr cfg

/-- Writes ERRC and ERRW of a partition (R360). -/
def Stack.imageError (x : Stack) (k : Nat) (r : Nat × Nat) : Stack :=
  ((x.setField 0 0 1011 (16 * k) r.1).setField 0 0 1011 (16 * k + 1) (r.2 % 65536)).setField 0 0 1011 (16 * k + 2) (r.2 / 65536)

/-! ### The deck (R351) -/

/-- Words of a deck. -/
def deckWords (d : List DeckEnt) : Nat := (d.map fun e => e.words.length).sum

/-- The image of a deck entry configures a loaded context. -/
def Stack.pinned (x : Stack) (e : DeckEnt) : Bool :=
  (x.ctxs ++ (x.splices.map fun (p : Nat × Splice) => (p.1, p.2.arr))).any fun (p : Nat × ACtx) => p.2.img == some e.born

/-- The entry that was used least recently and may go. -/
def Stack.victim (x : Stack) (d : List DeckEnt) : Option DeckEnt :=
  d.foldl (fun b e => if x.pinned e then b else match b with | none => some e | some v => if e.used < v.used then some e else b) none

/-- Evicts until n words fit, or nothing more may go. -/
def Stack.makeRoom (x : Stack) (n : Nat) : Nat → List DeckEnt → List DeckEnt
  | 0, d => d
  | q + 1, d =>
    if d.length < 32 ∧ deckWords d + n ≤ 262144 then d
    else match x.victim d with
      | none => d
      | some v => Stack.makeRoom x n q (d.filter fun e => e != v)

/-- Keeps an image under a grid and IMGID, in place of an entry of the same name; an image that cannot fit is not kept. -/
def Stack.deckPut (x : Stack) (grid imgid : Nat) (ws : List W32) : Stack :=
  let d0 := x.deck.filter fun e => !(e.grid == grid && e.imgid == imgid)
  let hard := d0.filter x.pinned
  if 32 ≤ hard.length ∨ 262144 < deckWords hard + ws.length then { x with deck := d0 }
  else
    let d := x.makeRoom ws.length 33 d0
    { x with deck := d ++ [⟨grid, imgid, ws, x.deckClock, x.deckClock⟩], deckClock := x.deckClock + 1 }

def Stack.deckGet (x : Stack) (grid imgid : Nat) : Option DeckEnt := x.deck.find? fun e => e.grid == grid && e.imgid == imgid

/-- Marks an entry as used. -/
def Stack.deckUse (x : Stack) (grid imgid : Nat) : Stack :=
  { x with deck := x.deck.map (fun e => if e.grid == grid && e.imgid == imgid then { e with used := x.deckClock } else e)
           deckClock := x.deckClock + 1 }

end Sys2Proof.Machine
end

