-- ==== Sys2Proof/Machine/Float.lean ====
section
/-! DEFINITION. Floating-point numbers and their rounding (R141 to R151, R158 to R162). Every finite value is kept exactly, as a
sign, a whole number and a power of two. -/
namespace Sys2Proof.Machine

/-- Formats (R141). -/
inductive Fmt where | f64 | f32 | f16 | bf16 | e5m2 | e4m3 | e2m1
  deriving DecidableEq, Repr

namespace Fmt

def width : Fmt → Nat
  | .f64 => 64 | .f32 => 32 | .f16 | .bf16 => 16 | .e5m2 | .e4m3 => 8 | .e2m1 => 4
/-- Bits of the fraction field. -/
def mant : Fmt → Nat
  | .f64 => 52 | .f32 => 23 | .f16 => 10 | .bf16 => 7 | .e5m2 => 2 | .e4m3 => 3 | .e2m1 => 1
/-- Bits of the exponent field. -/
def expo : Fmt → Nat
  | .f64 => 11 | .f32 | .bf16 => 8 | .f16 | .e5m2 => 5 | .e4m3 => 4 | .e2m1 => 2
def bias : Fmt → Int
  | .f64 => 1023 | .f32 | .bf16 => 127 | .f16 | .e5m2 => 15 | .e4m3 => 7 | .e2m1 => 1
/-- The formats that encode infinities (R141). -/
def hasInf : Fmt → Bool
  | .e4m3 | .e2m1 => false
  | _ => true
/-- Max finite as a whole number and a power of two (R141). -/
def maxFin (f : Fmt) : Nat × Int :=
  match f with
  | .e4m3 => (7, 6)
  | .e2m1 => (3, 1)
  | _ => (2 ^ (f.mant + 1) - 1, 2 ^ f.expo - 2 - f.bias - f.mant)
/-- Canonical NaN (R141); E2M1 has none. -/
def canon : Fmt → Nat
  | .f64 => 0x7FF8000000000000 | .f32 => 0x7FC00000 | .f16 => 0x7E00 | .bf16 => 0x7FC0 | .e5m2 => 0x7E | .e4m3 => 0x7F
  | .e2m1 => 0
/-- FTZ acts on the format (R148). -/
def flushes : Fmt → Bool
  | .f64 | .f32 => true
  | _ => false

end Fmt

/-- A decoded value (R141): a finite one is m times 2 to the e. -/
inductive Fv where
  | nan (signalling : Bool)
  | inf (neg : Bool)
  | fin (neg : Bool) (m : Nat) (e : Int)
  deriving DecidableEq, Repr

namespace Fv

def isNan : Fv → Bool | .nan _ => true | _ => false
def isSnan : Fv → Bool | .nan s => s | _ => false
def isInf : Fv → Bool | .inf _ => true | _ => false
def isZero : Fv → Bool | .fin _ m _ => m == 0 | _ => false
def neg : Fv → Bool | .nan _ => false | .inf n => n | .fin n _ _ => n
def negate : Fv → Fv | .nan s => .nan s | .inf n => .inf (!n) | .fin n m e => .fin (!n) m e
def absolute : Fv → Fv | .nan s => .nan s | .inf _ => .inf false | .fin _ m e => .fin false m e
def zero (n : Bool) : Fv := .fin n 0 0
def ofInt (i : Int) : Fv := .fin (i < 0) i.natAbs 0
/-- The exact signed number of a finite value over a power of two no greater than its own. -/
def scaled (v : Fv) (e0 : Int) : Int :=
  match v with
  | .fin n m e => let x : Int := (m * 2 ^ (e - e0).toNat : Nat); if n then -x else x
  | _ => 0
def exp : Fv → Int | .fin _ _ e => e | _ => 0

end Fv

/-- value(f, b) of R162 (R141, R143). -/
def valueOf (f : Fmt) (b : Nat) : Fv :=
  let m := b % 2 ^ f.mant
  let e := b / 2 ^ f.mant % 2 ^ f.expo
  let n := b.testBit (f.width - 1)
  if f.hasInf ∧ e = 2 ^ f.expo - 1 then
    if m = 0 then .inf n else .nan (f ≠ .e5m2 && !m.testBit (f.mant - 1))
  else if f = .e4m3 ∧ e = 15 ∧ m = 7 then .nan false
  else if e = 0 then .fin n m (1 - f.bias - f.mant)
  else .fin n (m + 2 ^ f.mant) (e - f.bias - f.mant)

/-- A subnormal value of a format. -/
def isSub (f : Fmt) : Fv → Bool
  | .fin _ m e => m != 0 && decide (Nat.log2 m + e < 1 - f.bias)
  | _ => false

/-- Input treatment under FTZ (R148). -/
def flushIn (f : Fmt) (ftz : Bool) (v : Fv) : Fv := if ftz && f.flushes && isSub f v then .zero v.neg else v

/-- Rounding codes 1 to 5 of R145. -/
inductive Rm where | rne | rtz | rdn | rup | sr
  deriving DecidableEq, Repr

/-- The mode of a rounding code; code 0 takes FPCTL.RM (R87, R145). -/
def Wave.rmOf (w : Wave) : Rc → Rm
  | .rne => .rne | .rtz => .rtz | .rdn => .rdn | .rup => .rup | .sr => .sr
  | .fpctl => match w.rm with | 0 => .rne | 1 => .rtz | 2 => .rdn | _ => .rup

/-- Rounds a magnitude m 2^e to a multiple of 2^q: the multiple, whether it was rounded away from zero, and whether it is
inexact (R145, R146). -/
def roundTo (m : Nat) (e q : Int) (neg : Bool) (rm : Rm) (u : Nat) : Nat × Bool × Bool :=
  if q ≤ e then (m * 2 ^ (e - q).toNat, false, false)
  else
    let sh := (q - e).toNat
    let lo := m / 2 ^ sh
    let rest := m % 2 ^ sh
    if rest = 0 then (lo, false, false)
    else
      let away : Bool := match rm with
        | .rne => decide (2 ^ sh < 2 * rest) || (2 * rest == 2 ^ sh && lo % 2 == 1)
        | .rtz => false
        | .rdn => neg
        | .rup => !neg
        | .sr => decide (2 ^ 16 ≤ rest * 2 ^ 16 / 2 ^ sh + u % 2 ^ 16)
      (if away then lo + 1 else lo, away, true)

/-- m1 2^e1 is greater than m2 2^e2. -/
def dyLt (m2 : Nat) (e2 : Int) (m1 : Nat) (e1 : Int) : Bool :=
  let e0 := min e1 e2
  decide (m2 * 2 ^ (e2 - e0).toNat < m1 * 2 ^ (e1 - e0).toNat)

def signBit (f : Fmt) (neg : Bool) : Nat := if neg then 2 ^ (f.width - 1) else 0

/-- The pattern of an infinity. -/
def infBits (f : Fmt) (neg : Bool) : Nat := signBit f neg + (2 ^ f.expo - 1) * 2 ^ f.mant

/-- The pattern of a value on the format's grid, k 2^q with k at most 2 to the precision. -/
def encodeGrid (f : Fmt) (neg : Bool) (k : Nat) (q : Int) : Nat :=
  let kq : Nat × Int := if k = 2 ^ (f.mant + 1) then (2 ^ f.mant, q + 1) else (k, q)
  if kq.1 < 2 ^ f.mant then signBit f neg + kq.1
  else signBit f neg + (kq.2 + f.mant + f.bias).toNat * 2 ^ f.mant + (kq.1 - 2 ^ f.mant)

/-- Max finite of a format, with a sign. -/
def maxBits (f : Fmt) (neg : Bool) : Nat :=
  match f with
  | .e4m3 => signBit f neg + 0x7E
  | .e2m1 => signBit f neg + 7
  | _ => infBits f neg - 1

/-- round_fp of R162: the pattern, and the flag that the rounding raises (R147 to R149). A stochastic rounding that overflows without
rounding, such as 2^128 in FP32, takes the row of R147 that rounds toward zero (DESIGN CHOICE, log entry 23). -/
def roundFp (f : Fmt) (rm : Rm) (u : Nat) (ftz sat : Bool) (v : Fv) : Nat × Option Flag :=
  match v with
  | .nan s => (f.canon, if s then some .fpx else none)
  | .inf n =>
    if f.hasInf then (infBits f n, none)
    else if f = .e2m1 then (maxBits f n, none)
    else if sat then (maxBits f n, some .satf)
    else (f.canon, some .fpx)
  | .fin n m e =>
    if m = 0 then (signBit f n, none)
    else
      let q := max ((Nat.log2 m : Int) + e) (1 - f.bias) - f.mant
      let r := roundTo m e q n rm u
      if dyLt f.maxFin.1 f.maxFin.2 r.1 q then
        let big : Bool := match rm with | .rne => true | .rtz => false | .rdn => n | .rup => !n | .sr => r.2.1
        if f = .e2m1 then (maxBits f n, none)
        else if sat then (maxBits f n, some .satf)
        else if !big then (maxBits f n, some .fpx)
        else if f.hasInf then (infBits f n, some .fpx)
        else (f.canon, some .fpx)
      else
        let sub := r.1 < 2 ^ f.mant
        if ftz && f.flushes && sub then (signBit f n, none) else (encodeGrid f n r.1 q, none)

/-- round_int of R162 (R150): the result pattern and its flag. -/
def roundInt (n : Nat) (signed : Bool) (rm : Rm) (u : Nat) (sat : Bool) (v : Fv) : Nat × Option Flag :=
  let clamp : Option Flag := if sat then some .satf else some .fpx
  let lo : Int := if signed then -(2 ^ (n - 1)) else 0
  let hi : Int := if signed then 2 ^ (n - 1) - 1 else 2 ^ n - 1
  match v with
  | .nan _ => (0, some .fpx)
  | .inf neg => (wrapInt n (if neg then lo else hi), clamp)
  | .fin neg m e =>
    let r := roundTo m e 0 neg rm u
    let i : Int := if neg then -(r.1 : Int) else r.1
    if i < lo then (wrapInt n lo, clamp)
    else if hi < i then (wrapInt n hi, clamp)
    else (wrapInt n i, if r.2.2 then some .fpx else none)

/-- The exact sum of finite values; a zero sum of unlike signs is +0, and -0 under RDN (R144). -/
def addFin (a b : Fv) (rm : Rm) : Fv :=
  let e0 := min a.exp b.exp
  let v := a.scaled e0 + b.scaled e0
  if v = 0 then
    if a.isZero && b.isZero && a.neg == b.neg then .zero a.neg else .zero (rm == .rdn)
  else .fin (v < 0) v.natAbs e0

/-- Exact sum (R144, R233); the flag says that the operation is invalid or an input signals. -/
def fvAdd (a b : Fv) (rm : Rm) : Fv × Bool :=
  if a.isNan || b.isNan then (.nan false, a.isSnan || b.isSnan)
  else match a, b with
    | .inf n, .inf m => if n = m then (.inf n, false) else (.nan false, true)
    | .inf n, _ => (.inf n, false)
    | _, .inf n => (.inf n, false)
    | _, _ => (addFin a b rm, false)

/-- The exact product of values that are no NaN and not zero times infinity. -/
def mulFin (a b : Fv) : Fv :=
  match a, b with
  | .fin n m e, .fin n' m' e' => .fin (n != n') (m * m') (e + e')
  | _, _ => .inf (a.neg != b.neg)

/-- Zero times infinity. -/
def zeroInf (a b : Fv) : Bool := (a.isZero && b.isInf) || (a.isInf && b.isZero)

/-- Exact product (R233). -/
def fvMul (a b : Fv) : Fv × Bool :=
  if zeroInf a b then (.nan false, true)
  else if a.isNan || b.isNan then (.nan false, a.isSnan || b.isSnan)
  else (mulFin a b, false)

/-- Exact fused product and sum; zero times infinity is invalid whatever the addend (R233). -/
def fvFma (a b c : Fv) (rm : Rm) : Fv × Bool :=
  if zeroInf a b then (.nan false, true)
  else if a.isNan || b.isNan || c.isNan then (.nan false, a.isSnan || b.isSnan || c.isSnan)
  else fvAdd (mulFin a b) c rm

/-- Order of values that are no NaN: infinities outside, finite by value. -/
def fvLt (a b : Fv) : Bool :=
  match a, b with
  | .inf n, .inf m => n && !m
  | .inf n, _ => n
  | _, .inf n => !n
  | _, _ => let e0 := min a.exp b.exp; decide (a.scaled e0 < b.scaled e0)

/-- The same with -0 below +0 (R162). -/
def fvLtZ (a b : Fv) : Bool := fvLt a b || (a.isZero && b.isZero && a.neg && !b.neg)

/-- fmin and fmax of R162. -/
def fvMin (a b : Fv) : Fv × Bool :=
  let sn := a.isSnan || b.isSnan
  if a.isNan then (if b.isNan then .nan false else b, sn)
  else if b.isNan then (a, sn)
  else (if fvLtZ b a then b else a, sn)
def fvMax (a b : Fv) : Fv × Bool :=
  let sn := a.isSnan || b.isSnan
  if a.isNan then (if b.isNan then .nan false else b, sn)
  else if b.isNan then (a, sn)
  else (if fvLtZ a b then b else a, sn)

/-- Rounds the result of an operation and adds the flag of an invalid one (R149). -/
def roundOp (f : Fmt) (rm : Rm) (u : Nat) (ftz : Bool) (r : Fv × Bool) : Nat × Option Flag :=
  let q := roundFp f rm u ftz false r.1
  (q.1, if r.2 then some .fpx else q.2)

/-- Integer square root of n, the greatest r with r r at most n, by bits from the top. -/
def isqrt (n : Nat) : Nat → Nat → Nat
  | 0, r => r
  | b + 1, r => let r' := r + 2 ^ b; isqrt n b (if r' * r' ≤ n then r' else r)

/-- A square root with 90 bits and one more that stands for the rest, enough for every rounding (R146, R159). -/
def sqrtFin (m : Nat) (e : Int) : Fv :=
  let odd : Int := e % 2
  let m := m * 2 ^ odd.toNat * 2 ^ 240
  let e := (e - odd - 240) / 2
  let r := isqrt m (Nat.log2 m / 2 + 2) 0
  .fin false (2 * r + if r * r = m then 0 else 1) (e - 1)

/-- sqrt, correctly rounded (R159, R160, R233). -/
def fvSqrt (f : Fmt) (rm : Rm) (u : Nat) (ftz : Bool) (a : Fv) : Nat × Option Flag :=
  match a with
  | .nan s => (f.canon, if s then some .fpx else none)
  | .inf n => if n then (f.canon, some .fpx) else (infBits f false, none)
  | .fin n m e => if m = 0 then (signBit f n, none) else if n then (f.canon, some .fpx) else roundFp f rm u ftz false (sqrtFin m e)

/-- The class of a value, one bit of ten (R234). -/
def classOf (f : Fmt) (v : Fv) : Nat :=
  match v with
  | .nan s => if s then 0 else 1
  | .inf n => if n then 2 else 9
  | .fin n m _ =>
    if m = 0 then (if n then 5 else 6)
    else if isSub f v then (if n then 4 else 7)
    else (if n then 3 else 8)

/-! ### Special functions (R159 to R161) -/

/-- Fixed point with this many fraction bits serves as the exact value of a transcendental function. -/
def fpBits : Nat := 200

/-- pi in fixed point with 360 fraction bits, by Machin's formula. -/
def arctanInv (k : Nat) : Nat → Nat → Int → Int
  | 0, _, acc => acc
  | n + 1, i, acc =>
    let t : Int := (2 ^ 360 / (k ^ (2 * i + 1) * (2 * i + 1)) : Nat)
    arctanInv k n (i + 1) (if i % 2 = 0 then acc + t else acc - t)
def piFix : Int := 16 * arctanInv 5 80 0 0 - 4 * arctanInv 239 24 0 0

/-- A sum of terms t, t y / ((i + 1) (i + 2)), ... in fixed point, the series of sine and cosine. -/
def trigSeries (y : Int) : Nat → Nat → Int → Int → Int
  | 0, _, _, acc => acc
  | n + 1, i, t, acc =>
    let t' := -(t * y / 2 ^ fpBits) / ((i + 1) * (i + 2))
    trigSeries y n (i + 2) t' (acc + t)

/-- The exponential series of y, fixed point. -/
def expSeries (y : Int) : Nat → Nat → Int → Int → Int
  | 0, _, _, acc => acc
  | n + 1, i, t, acc => expSeries y n (i + 1) (t * y / 2 ^ fpBits / (i + 1)) (acc + t)

/-- The series 2 (z + z^3 / 3 + ...), fixed point. -/
def atanhSeries (z2 : Int) : Nat → Nat → Int → Int → Int
  | 0, _, _, acc => acc
  | n + 1, i, t, acc => atanhSeries z2 n (i + 2) (t * z2 / 2 ^ fpBits) (acc + 2 * t / i)

/-- Natural logarithm of a fixed-point number between 1/2 and 2. -/
def lnFix (x : Int) : Int :=
  let z := (x - 2 ^ fpBits) * 2 ^ fpBits / (x + 2 ^ fpBits)
  atanhSeries (z * z / 2 ^ fpBits) 140 1 z 0

def ln2Fix : Int := lnFix (2 * 2 ^ fpBits)

/-- A dyadic number m 2^e in fixed point, rounded down. -/
def toFix (m : Int) (e : Int) (b : Nat) : Int :=
  let s := e + b
  if 0 ≤ s then m * 2 ^ s.toNat else m / 2 ^ (-s).toNat

/-- Sine or cosine of m 2^e radians in fixed point: the argument is reduced by multiples of 2 pi. -/
def trigFix (cos : Bool) (m e : Int) : Int :=
  let x := toFix m e 360
  let r := x % (2 * piFix)
  let r := (if piFix < r then r - 2 * piFix else r) / 2 ^ (360 - fpBits)
  let y := r * r / 2 ^ fpBits
  if cos then trigSeries y 40 0 (2 ^ fpBits) 0 else trigSeries y 40 1 r 0

/-- 2 to the power of a fraction f of fixed point, 0 up to 1. -/
def exp2Fix (f : Int) : Int := expSeries (f * ln2Fix / 2 ^ fpBits) 60 0 (2 ^ fpBits) 0

/-- Base-2 logarithm of m 2^e in fixed point. -/
def log2Fix (m : Nat) (e : Int) : Int :=
  let k := Nat.log2 m
  (k + e) * 2 ^ fpBits + lnFix (toFix m (-(k : Int)) fpBits) * 2 ^ fpBits / ln2Fix

/-- Special functions of R159. -/
inductive Special where | rcp | rsqrt | exp2 | log2 | sin | cos
  deriving DecidableEq, Repr

def Special.num : Special → Nat
  | .rcp => 0 | .rsqrt => 1 | .exp2 => 2 | .log2 => 3 | .sin => 4 | .cos => 5

/-- The value of a function at a nonzero finite input in its domain, to at least 90 bits: an exact one where R159 names it
exact, else with a last bit that stands for the rest. -/
def Special.ref (fn : Special) (n : Bool) (m : Nat) (e : Int) : Fv :=
  let ofFix := fun (v : Int) => Fv.fin (v < 0) v.natAbs (-(fpBits : Int))
  match fn with
  | .rcp =>
    let q := 2 ^ (Nat.log2 m + 100) / m
    let rest := 2 ^ (Nat.log2 m + 100) % m
    .fin n (2 * q + if rest = 0 then 0 else 1) (-e - (Nat.log2 m + 100) - 1)
  | .rsqrt =>
    let q := 2 ^ (2 * Nat.log2 m + 200) / m
    let rest := 2 ^ (2 * Nat.log2 m + 200) % m
    sqrtFin (2 * q + if rest = 0 then 0 else 1) (-e - (2 * Nat.log2 m + 200) - 1)
  | .exp2 =>
    let x : Int := if n then -(m : Int) else m
    let fx := toFix x e fpBits
    let i := fx / 2 ^ fpBits
    .fin false (exp2Fix (fx % 2 ^ fpBits)).natAbs (i - fpBits)
  | .log2 => ofFix (log2Fix m e)
  | .sin => ofFix (trigFix false (if n then -(m : Int) else m) e)
  | .cos => ofFix (trigFix true (if n then -(m : Int) else m) e)

/-- The inputs at which R159 gives the exact result. -/
def Special.exact (fn : Special) (m : Nat) (e : Int) : Bool :=
  let k := Nat.log2 m
  match fn with
  | .rcp | .log2 => m == 2 ^ k
  | .rsqrt => m == 2 ^ k && (k + e) % 2 == 0
  | .exp2 => decide (0 ≤ e) || m % 2 ^ (-e).toNat == 0
  | .sin | .cos => false

/-- The bound of R159 on the distance from the exact result, as a power of two of the ulp or an absolute one: numerator and
exponent of two. -/
def Special.bound (fn : Special) (f : Fmt) (inside : Bool) (exact : Fv) : Nat × Int :=
  let ulp : Int := match exact with
    | .fin _ m e => max ((Nat.log2 m : Int) + e) (1 - f.bias) - f.mant
    | _ => 0
  match fn with
  | .rcp => (1, ulp)
  | .rsqrt => if f = .f64 then (1, ulp) else (2, ulp)
  | .exp2 => (2, ulp)
  | .log2 => if inside then (1, -22) else (2, ulp)
  | .sin | .cos => (1, -22)

/-- A finite value lies within a bound of a transcendental result. The reference is good to more than 80 bits, so 2^-50 of the
bound's unit is taken off: a value that passes is within the bound (log entry 7). -/
def within (v r : Fv) (b : Nat × Int) : Bool :=
  match v, r with
  | .fin _ _ _, .fin _ _ _ =>
    let e0 := min (min v.exp r.exp) (b.2 - 60)
    decide ((v.scaled e0 - r.scaled e0).natAbs + 2 ^ (b.2 - 50 - e0).toNat ≤ b.1 * 2 ^ (b.2 - e0).toNat)
  | _, _ => false

/-- |v - 1/x| is at most the bound, for x = m 2^e with a sign: |v x - 1| is at most the bound times |x|. -/
def withinRcp (v : Fv) (n : Bool) (m : Nat) (e : Int) (b : Nat × Int) : Bool :=
  match v with
  | .fin vn vm ve =>
    let p := Fv.fin (vn != n) (vm * m) (ve + e)
    let e0 := min (min (ve + e) 0) (e + b.2)
    decide ((p.scaled e0 - (Fv.ofInt 1).scaled e0).natAbs ≤ b.1 * m * 2 ^ (e + b.2 - e0).toNat)
  | _ => false

/-- |v - 1/sqrt x| is at most the bound B, for x = m 2^e: (v + B)^2 x is at least 1, and v - B is negative or (v - B)^2 x at most
1. -/
def withinRsqrt (v : Fv) (m : Nat) (e : Int) (b : Nat × Int) : Bool :=
  match v with
  | .fin _ _ ve =>
    let e1 := min ve b.2
    let vi := v.scaled e1
    let bi : Int := (b.1 * 2 ^ (b.2 - e1).toNat : Nat)
    let t := 2 * e1 + e
    0 ≤ vi && !dyLt ((vi + bi).natAbs ^ 2 * m) t 1 0 && (vi ≤ bi || !dyLt 1 0 ((vi - bi).natAbs ^ 2 * m) t)
  | _ => false

/-- |v| is at most 1. -/
def atMostOne : Fv → Bool
  | .fin _ m e => !dyLt 1 0 m e
  | _ => false

/-- A result that R159 and R160 allow at an ordinary input: within the bound, in [-1, 1] for the sine and the cosine, and not
negative for a power of two. -/
def Special.allows (fn : Special) (v r : Fv) (n : Bool) (m : Nat) (e : Int) (b : Nat × Int) : Bool :=
  match fn with
  | .rcp => withinRcp v n m e b
  | .rsqrt => withinRsqrt v m e b
  | .exp2 => within v r b && !v.neg
  | .log2 => within v r b
  | .sin | .cos => within v r b && atMostOne v

/-- A special function at an FP32 or FP64 pattern (R159 to R161): the special values, the exact cases, and elsewhere the
device's own value (log entry 7) wherever it lies within the bound. -/
def specialOf (fn : Special) (f : Fmt) (ftz : Bool) (b : Nat) : Nat × Option Flag :=
  let v := flushIn f ftz (valueOf f b)
  let invalid : Nat × Option Flag := (f.canon, some .fpx)
  match v with
  | .nan s => (f.canon, if s then some .fpx else none)
  | .inf n =>
    match fn with
    | .rcp => (signBit f n, none)
    | .rsqrt => if n then invalid else (0, none)
    | .exp2 => if n then (0, none) else (infBits f false, none)
    | .log2 => if n then invalid else (infBits f false, none)
    | .sin | .cos => invalid
  | .fin n m e =>
    if m = 0 then
      match fn with
      | .rcp | .rsqrt => (infBits f n, none)
      | .exp2 | .cos => ((roundFp f .rne 0 ftz false (.ofInt 1)).1, none)
      | .log2 => (infBits f true, none)
      | .sin => (signBit f n, none)
    else if n && (fn == .rsqrt || fn == .log2) then invalid
    else if fn = .exp2 ∧ dyLt 127 0 m e ∧ !n then
      if dyLt m e 128 0 then specialBody fn f ftz b n m e else (infBits f false, some .fpx)
    else if fn = .exp2 ∧ n ∧ !dyLt m e 150 0 then (0, none)
    else specialBody fn f ftz b n m e
where
  /-- The value at an ordinary input. -/
  specialBody (fn : Special) (f : Fmt) (ftz : Bool) (b : Nat) (n : Bool) (m : Nat) (e : Int) : Nat × Option Flag :=
    let r := fn.ref n m e
    let big := match r with | .fin _ m e => dyLt f.maxFin.1 f.maxFin.2 m e | _ => false
    let best := roundFp f .rne 0 ftz false r
    if big then (infBits f r.neg, some .fpx)
    else if fn.exact m e then (best.1, none)
    else
      let inside := !dyLt m e 1 (-1) && !dyLt 2 0 m e
      let own := match f with
        | .f64 => (Config.special64 fn.num ftz (BitVec.ofNat 64 b)).toNat
        | _ => (Config.special32 fn.num ftz (BitVec.ofNat 32 b)).toNat
      let ok := fn.allows (valueOf f own) r n m e (fn.bound f inside r)
      let res := if ok then own else best.1
      (if ftz && f.flushes && isSub f (valueOf f res) then signBit f (valueOf f res).neg else res, none)

/-- A special function of a packed element: the FP32 function, rounded once by RNE (R159, R233). -/
def specialPacked (fn : Special) (f : Fmt) (b : Nat) : Nat × Option Flag :=
  let v := valueOf f b
  let x := match v with
    | .nan s => if s then 0x7FA00000 else Fmt.canon .f32
    | _ => (roundFp .f32 .rne 0 false false v).1
  let r := specialOf fn .f32 false x
  match valueOf .f32 r.1 with
  | .inf n => (infBits f n, r.2)
  | w => let q := roundFp f .rne 0 false false w; (q.1, match r.2 with | some g => some g | none => q.2)

/-! ### Sums of fixed order -/

/-- The exact sum of products of a group, with the NaN and the infinities of R152. The sign of an exact zero is a DESIGN CHOICE (log
entry 57): negative where every product is -0, else positive, since R144 names operands of opposite sign alone. -/
def dotExact (ps : List (Fv × Fv)) : Fv :=
  if ps.any fun p => p.1.isNan || p.2.isNan || zeroInf p.1 p.2 then .nan false
  else
    let infs := (ps.filter fun p => p.1.isInf || p.2.isInf).map fun p => p.1.neg != p.2.neg
    if infs.contains true && infs.contains false then .nan false
    else match infs with
      | n :: _ => .inf n
      | [] =>
        let prods := ps.map fun p => mulFin p.1 p.2
        let e0 := prods.foldl (fun m v => min m v.exp) 0
        let t := prods.foldl (fun (a : Int) v => a + v.scaled e0) 0
        if t = 0 then .zero (!ps.isEmpty && prods.all fun v => v.isZero && v.neg)
        else .fin (t < 0) t.natAbs e0

/-- round_fp(fp32, a + b, rne) on patterns, with no flag (R152, R155, R157). -/
def addF32 (a b : Nat) : Nat := (roundFp .f32 .rne 0 false false (fvAdd (valueOf .f32 a) (valueOf .f32 b) .rne).1).1

/-- One group of the matrix engine or of a matrix-vector node, rounded to FP32 (R152, R155). -/
def groupF32 (ps : List (Fv × Fv)) : Nat := (roundFp .f32 .rne 0 false false (dotExact ps)).1

end Sys2Proof.Machine
end

