-- ==== Sys2Proof/Machine/Integer.lean ====
section
/-! DEFINITION. Typed integer forms, affine forms and demotions (R217 to R228, with R136 to R140). -/
namespace Sys2Proof.Machine

/-- Signed types (R136). -/
def ITy.signed : ITy → Bool
  | .i32 | .i64 | .i16 | .i8 => true
  | _ => false

/-- The number that a pattern stands for under a type (R218). -/
def numOf (sg : Bool) (n P : Nat) : Int := if sg then sextNat n P else (P % 2 ^ n : Nat)

/-- What a stem computes from its width, signedness, the patterns of A, B and C, and IMM8: the result pattern and a flag
(R220). -/
abbrev IntFn := Nat → Bool → Nat → Nat → Nat → Nat → Nat × Option Flag

/-- A stem on numbers, kept modulo 2^n (R137). -/
def wrapFn (f : Int → Int → Int → Int) : IntFn := fun n sg a b c _ =>
  (wrapInt n (f (numOf sg n a) (numOf sg n b) (numOf sg n c)), none)

/-- A stem on numbers, saturated (R138). -/
def satFn (f : Int → Int → Int → Int) : IntFn := fun n sg a b c _ =>
  let r := saturate sg n (f (numOf sg n a) (numOf sg n b) (numOf sg n c))
  (wrapInt n r.1, if r.2 then some .satf else none)

/-- A stem on patterns. -/
def patFn (f : Nat → Nat → Nat → Nat → Nat) : IntFn := fun n _ a b c _ => (f n a b c % 2 ^ n, none)

/-- A compare: 1 when the relation holds (R220). -/
def cmpFn (r : Int → Int → Bool) : IntFn := fun n sg a b _ _ => (if r (numOf sg n a) (numOf sg n b) then 1 else 0, none)

/-- High half of the exact product (R220). -/
def mulhiFn : IntFn := fun n sg a b _ _ => (wrapInt n (numOf sg n a * numOf sg n b / 2 ^ n), none)

/-- Absolute value; under an unsigned type the pattern (R220). -/
def absFn : IntFn := fun n sg a _ _ _ => (if sg then (wrapInt n (numOf sg n a).natAbs) else a, none)
def absSatFn : IntFn := fun n sg a b c m => if sg then satFn (fun x _ _ => (x.natAbs : Int)) n sg a b c m else (a, none)

/-- Shifts by the full width of the count (R140). -/
def shlFn : IntFn := fun n _ a b _ _ => (if n ≤ b then 0 else a * 2 ^ b % 2 ^ n, none)
def shrFn : IntFn := fun n sg a b _ _ => (wrapInt n (numOf sg n a / 2 ^ min b n), none)

/-- Rotation left (R220). -/
def rotFn : IntFn := fun n _ a b _ _ => let c := b % n; ((a * 2 ^ c + a / 2 ^ (n - c)) % 2 ^ n, none)

/-- Funnel shifts (R220). -/
def fshlFn : IntFn := fun n _ a b c _ => ((a * 2 ^ n + b) * 2 ^ (c % n) / 2 ^ n % 2 ^ n, none)
def fshrFn : IntFn := fun n _ a b c _ => ((a * 2 ^ n + b) / 2 ^ (c % n) % 2 ^ n, none)

/-- Bit-field extract and insert (R220). -/
def bfeFn : IntFn := fun n sg a b _ len =>
  let v := if n ≤ b then 0 else a / 2 ^ b % 2 ^ len
  (if sg then wrapInt n (sextNat len v) else v, none)
def bfiFn : IntFn := fun n _ a b c len =>
  if n ≤ b then (c, none)
  else
    let hi := min (b + len) n
    (c % 2 ^ b + a % 2 ^ (hi - b) * 2 ^ b + c / 2 ^ hi * 2 ^ hi, none)

/-- Bit counts (R220). -/
def popcFn : IntFn := fun n _ a _ _ _ => (((List.range n).filter fun i => a.testBit i).length, none)
def clzFn : IntFn := fun n _ a _ _ _ => (((List.range n).find? fun i => a.testBit (n - 1 - i)).getD n, none)
def ctzFn : IntFn := fun n _ a _ _ _ => (((List.range n).find? fun i => a.testBit i).getD n, none)
def brevFn : IntFn := fun n _ a _ _ _ =>
  (((List.range n).filter fun i => a.testBit (n - 1 - i)).foldl (fun q i => q + 2 ^ i) 0, none)

/-- Division and remainder (R139). -/
def divFn : IntFn := fun n sg a b _ _ =>
  if b = 0 then (2 ^ n - 1, some .dz) else (wrapInt n ((numOf sg n a).tdiv (numOf sg n b)), none)
def remFn : IntFn := fun n sg a b _ _ =>
  if b = 0 then (a, some .dz) else (wrapInt n ((numOf sg n a).tmod (numOf sg n b)), none)

/-- The pattern of an operand at a lane (R218). -/
def Ctx.pat (x : Ctx) (t : ITy) (o : Src) (l : Nat) : Nat :=
  (x.src false (Forms.wide t) o l).toNat % 2 ^ Forms.tyBits t

/-- A result pattern extended to 64 bits by the type's signedness (R218). -/
def extendTy (t : ITy) (q : Nat) : W64 :=
  if ITy.signed t then BitVec.ofInt 64 (sextNat (Forms.tyBits t) q) else BitVec.ofNat 64 q

/-- A stem at a lane (R219). -/
def Ctx.intVal (x : Ctx) (t : ITy) (fn : IntFn) (l : Nat) : Val :=
  let r := fn (Forms.tyBits t) (ITy.signed t) (x.pat t x.f.a l) (x.pat t x.f.b l) (x.pat t x.f.c l) x.f.imm8.toNat
  (extendTy t r.1, r.2)

/-- A compare at a lane: 0 or 1, not extended by the type (R220). -/
def Ctx.cmpVal (x : Ctx) (t : ITy) (fn : IntFn) (l : Nat) : Val :=
  (BitVec.ofNat 64 (fn (Forms.tyBits t) (ITy.signed t) (x.pat t x.f.a l) (x.pat t x.f.b l) 0 0).1, none)

/-- The effect of a typed integer form (R219). -/
def State.intForm (s : State) (x : Ctx) (c : Cls) (t : ITy) (fn : IntFn) : State :=
  s.typed x c (Forms.wide t) fun x l => x.intVal t fn l

/-- The effect of an integer compare (R219, R220). -/
def State.cmpForm (s : State) (x : Ctx) (c : Cls) (t : ITy) (fn : IntFn) : State :=
  s.typed x c false fun x l => x.cmpVal t fn l

/-- `add` (R220). -/
def execIntAdd (c : Cls) (t : ITy) (f : F) (s : State) : Host.Outcome State Fault Refusal :=
  issue (.intAdd c t f) s fun x s => s.intForm x c t (wrapFn fun x y _ => x + y)

/-- `sub` (R220). -/
def execIntSub (c : Cls) (t : ITy) (f : F) (s : State) : Host.Outcome State Fault Refusal :=
  issue (.intSub c t f) s fun x s => s.intForm x c t (wrapFn fun x y _ => x - y)

/-- `mul` (R220). -/
def execIntMul (c : Cls) (t : ITy) (f : F) (s : State) : Host.Outcome State Fault Refusal :=
  issue (.intMul c t f) s fun x s => s.intForm x c t (wrapFn fun x y _ => x * y)

/-- `mulhi` (R220). -/
def execIntMulhi (c : Cls) (t : ITy) (f : F) (s : State) : Host.Outcome State Fault Refusal :=
  issue (.intMulhi c t f) s fun x s => s.intForm x c t mulhiFn

/-- `mad` (R220). -/
def execIntMad (c : Cls) (t : ITy) (f : F) (s : State) : Host.Outcome State Fault Refusal :=
  issue (.intMad c t f) s fun x s => s.intForm x c t (wrapFn fun x y z => x * y + z)

/-- `min` (R220). -/
def execIntMin (c : Cls) (t : ITy) (f : F) (s : State) : Host.Outcome State Fault Refusal :=
  issue (.intMin c t f) s fun x s => s.intForm x c t (wrapFn fun x y _ => min x y)

/-- `max` (R220). -/
def execIntMax (c : Cls) (t : ITy) (f : F) (s : State) : Host.Outcome State Fault Refusal :=
  issue (.intMax c t f) s fun x s => s.intForm x c t (wrapFn fun x y _ => max x y)

/-- `abs` (R220). -/
def execIntAbs (c : Cls) (t : ITy) (f : F) (s : State) : Host.Outcome State Fault Refusal :=
  issue (.intAbs c t f) s fun x s => s.intForm x c t absFn

/-- `neg` (R220). -/
def execIntNeg (c : Cls) (t : ITy) (f : F) (s : State) : Host.Outcome State Fault Refusal :=
  issue (.intNeg c t f) s fun x s => s.intForm x c t (wrapFn fun x _ _ => -x)

/-- `and` (R220). -/
def execIntAnd (c : Cls) (t : ITy) (f : F) (s : State) : Host.Outcome State Fault Refusal :=
  issue (.intAnd c t f) s fun x s => s.intForm x c t (patFn fun _ a b _ => a &&& b)

/-- `or` (R220). -/
def execIntOr (c : Cls) (t : ITy) (f : F) (s : State) : Host.Outcome State Fault Refusal :=
  issue (.intOr c t f) s fun x s => s.intForm x c t (patFn fun _ a b _ => a ||| b)

/-- `xor` (R220). -/
def execIntXor (c : Cls) (t : ITy) (f : F) (s : State) : Host.Outcome State Fault Refusal :=
  issue (.intXor c t f) s fun x s => s.intForm x c t (patFn fun _ a b _ => a ^^^ b)

/-- `andn` (R220). -/
def execIntAndn (c : Cls) (t : ITy) (f : F) (s : State) : Host.Outcome State Fault Refusal :=
  issue (.intAndn c t f) s fun x s => s.intForm x c t (patFn fun n a b _ => a &&& (2 ^ n - 1 - b))

/-- `not` (R220). -/
def execIntNot (c : Cls) (t : ITy) (f : F) (s : State) : Host.Outcome State Fault Refusal :=
  issue (.intNot c t f) s fun x s => s.intForm x c t (patFn fun n a _ _ => 2 ^ n - 1 - a)

/-- `shl` (R220). -/
def execIntShl (c : Cls) (t : ITy) (f : F) (s : State) : Host.Outcome State Fault Refusal :=
  issue (.intShl c t f) s fun x s => s.intForm x c t shlFn

/-- `shr` (R220). -/
def execIntShr (c : Cls) (t : ITy) (f : F) (s : State) : Host.Outcome State Fault Refusal :=
  issue (.intShr c t f) s fun x s => s.intForm x c t shrFn

/-- `rot` (R220). -/
def execIntRot (c : Cls) (t : ITy) (f : F) (s : State) : Host.Outcome State Fault Refusal :=
  issue (.intRot c t f) s fun x s => s.intForm x c t rotFn

/-- `fshl` (R220). -/
def execIntFshl (c : Cls) (t : ITy) (f : F) (s : State) : Host.Outcome State Fault Refusal :=
  issue (.intFshl c t f) s fun x s => s.intForm x c t fshlFn

/-- `fshr` (R220). -/
def execIntFshr (c : Cls) (t : ITy) (f : F) (s : State) : Host.Outcome State Fault Refusal :=
  issue (.intFshr c t f) s fun x s => s.intForm x c t fshrFn

/-- `bfe` (R220). -/
def execIntBfe (c : Cls) (t : ITy) (f : F) (s : State) : Host.Outcome State Fault Refusal :=
  issue (.intBfe c t f) s fun x s => s.intForm x c t bfeFn

/-- `bfi` (R220). -/
def execIntBfi (c : Cls) (t : ITy) (f : F) (s : State) : Host.Outcome State Fault Refusal :=
  issue (.intBfi c t f) s fun x s => s.intForm x c t bfiFn

/-- `popc` (R220). -/
def execIntPopc (c : Cls) (t : ITy) (f : F) (s : State) : Host.Outcome State Fault Refusal :=
  issue (.intPopc c t f) s fun x s => s.intForm x c t popcFn

/-- `clz` (R220). -/
def execIntClz (c : Cls) (t : ITy) (f : F) (s : State) : Host.Outcome State Fault Refusal :=
  issue (.intClz c t f) s fun x s => s.intForm x c t clzFn

/-- `ctz` (R220). -/
def execIntCtz (c : Cls) (t : ITy) (f : F) (s : State) : Host.Outcome State Fault Refusal :=
  issue (.intCtz c t f) s fun x s => s.intForm x c t ctzFn

/-- `brev` (R220). -/
def execIntBrev (c : Cls) (t : ITy) (f : F) (s : State) : Host.Outcome State Fault Refusal :=
  issue (.intBrev c t f) s fun x s => s.intForm x c t brevFn

/-- `div` (R220). -/
def execIntDiv (c : Cls) (t : ITy) (f : F) (s : State) : Host.Outcome State Fault Refusal :=
  issue (.intDiv c t f) s fun x s => s.intForm x c t divFn

/-- `rem` (R220). -/
def execIntRem (c : Cls) (t : ITy) (f : F) (s : State) : Host.Outcome State Fault Refusal :=
  issue (.intRem c t f) s fun x s => s.intForm x c t remFn

/-- `mov` (R223). -/
def execIntMov (c : Cls) (t : ITy) (f : F) (s : State) : Host.Outcome State Fault Refusal :=
  issue (.intMov c t f) s fun x s => s.intForm x c t (patFn fun _ a _ _ => a)

/-- `add.sat` (R220). -/
def execIntAddSat (c : Cls) (t : ITy) (f : F) (s : State) : Host.Outcome State Fault Refusal :=
  issue (.intAddSat c t f) s fun x s => s.intForm x c t (satFn fun x y _ => x + y)

/-- `sub.sat` (R220). -/
def execIntSubSat (c : Cls) (t : ITy) (f : F) (s : State) : Host.Outcome State Fault Refusal :=
  issue (.intSubSat c t f) s fun x s => s.intForm x c t (satFn fun x y _ => x - y)

/-- `mul.sat` (R220). -/
def execIntMulSat (c : Cls) (t : ITy) (f : F) (s : State) : Host.Outcome State Fault Refusal :=
  issue (.intMulSat c t f) s fun x s => s.intForm x c t (satFn fun x y _ => x * y)

/-- `mad.sat` (R220). -/
def execIntMadSat (c : Cls) (t : ITy) (f : F) (s : State) : Host.Outcome State Fault Refusal :=
  issue (.intMadSat c t f) s fun x s => s.intForm x c t (satFn fun x y z => x * y + z)

/-- `abs.sat` (R220). -/
def execIntAbsSat (c : Cls) (t : ITy) (f : F) (s : State) : Host.Outcome State Fault Refusal :=
  issue (.intAbsSat c t f) s fun x s => s.intForm x c t absSatFn

/-- `neg.sat` (R220). -/
def execIntNegSat (c : Cls) (t : ITy) (f : F) (s : State) : Host.Outcome State Fault Refusal :=
  issue (.intNegSat c t f) s fun x s => s.intForm x c t (satFn fun x _ _ => -x)

/-- `cmp.eq` (R220). -/
def execIntCmpEq (c : Cls) (t : ITy) (f : F) (s : State) : Host.Outcome State Fault Refusal :=
  issue (.intCmpEq c t f) s fun x s => s.cmpForm x c t (cmpFn fun x y => x = y)

/-- `cmp.ne` (R220). -/
def execIntCmpNe (c : Cls) (t : ITy) (f : F) (s : State) : Host.Outcome State Fault Refusal :=
  issue (.intCmpNe c t f) s fun x s => s.cmpForm x c t (cmpFn fun x y => x ≠ y)

/-- `cmp.lt` (R220). -/
def execIntCmpLt (c : Cls) (t : ITy) (f : F) (s : State) : Host.Outcome State Fault Refusal :=
  issue (.intCmpLt c t f) s fun x s => s.cmpForm x c t (cmpFn fun x y => x < y)

/-- `cmp.le` (R220). -/
def execIntCmpLe (c : Cls) (t : ITy) (f : F) (s : State) : Host.Outcome State Fault Refusal :=
  issue (.intCmpLe c t f) s fun x s => s.cmpForm x c t (cmpFn fun x y => x ≤ y)

/-- `cmp.gt` (R220). -/
def execIntCmpGt (c : Cls) (t : ITy) (f : F) (s : State) : Host.Outcome State Fault Refusal :=
  issue (.intCmpGt c t f) s fun x s => s.cmpForm x c t (cmpFn fun x y => y < x)

/-- `cmp.ge` (R220). -/
def execIntCmpGe (c : Cls) (t : ITy) (f : F) (s : State) : Host.Outcome State Fault Refusal :=
  issue (.intCmpGe c t f) s fun x s => s.cmpForm x c t (cmpFn fun x y => y ≤ x)

/-- The condition of `sel` at a lane: the lane's bit of the k register C, or the whole s register C (R220). -/
def Ctx.selCond (x : Ctx) (c : Cls) (l : Nat) : Bool :=
  match c with
  | .v => bit (x.k x.f.c.num.toNat) l
  | .s => x.src false false x.f.c l != 0

/-- `sel` (R220, R222). -/
def execIntSel (c : Cls) (t : ITy) (f : F) (s : State) : Host.Outcome State Fault Refusal :=
  issue (.intSel c t f) s fun x s =>
    s.typed x c (Forms.wide t) fun x l => (extendTy t (if x.selCond c l then x.pat t x.f.a l else x.pat t x.f.b l), none)

/-- A uniform or team destination as a source: the register that `movh` reads beside its own source (R223). -/
def Ctx.oldDst (x : Ctx) : Src := ⟨match x.f.d.file with | .t => .t | _ => .s, x.f.d.num⟩

/-- `movh`: the low half of A over the low half of D's old value, which is read with its check bits (R91, R92, R223). -/
def execSmovh (t : ITy) (f : F) (s : State) : Host.Outcome State Fault Refusal :=
  issueWith (fun _ => false) (fun _ => false) (.smovh t f) s fun x s =>
    let old := fun (x : Ctx) => match x.f.d.file with | .t => x.treg x.f.d.num.toNat | _ => x.w.sreg x.f.d.num.toNat
    if x.errorOf x.oldDst == some true then s.raise x { code := .eccu }
    else (s.correct x (if x.oldDst = x.f.a then [] else [x.oldDst])).typed x .s false fun x _ =>
      (((x.src false false x.f.a 0).truncate 32 ++ (old x).truncate 32 : BitVec 64), none)

/-- The index of `lea`: the number B at 32 bits, or its low word extended at 64 (R221). -/
def Ctx.leaIndex (x : Ctx) (t : ITy) (l : Nat) : Int :=
  numOf (ITy.signed t) 32 ((x.src false false x.f.b l).toNat % 2 ^ 32)

/-- `lea` (R221). -/
def execIntLea (c : Cls) (t : ITy) (f : F) (s : State) : Host.Outcome State Fault Refusal :=
  issue (.intLea c t f) s fun x s =>
    s.typed x c (Forms.wide t) fun x l =>
      (extendTy t (wrapInt (Forms.tyBits t) ((x.pat t x.f.a l : Int) + x.leaIndex t l * 2 ^ x.f.imm8.toNat)), none)

/-! ### Affine forms -/

/-- A signed 32-bit stride, exact (R77). -/
def strideInt (r : Aff) : Int := r.stride.toInt

/-- Writes an affine result, or raises AFOVF when the exact stride does not fit (R77, R225). -/
def State.affine (s : State) (x : Ctx) (base : W64) (stride : Int) : State :=
  if fitsSigned 32 stride then (s.writeA x ⟨base, BitVec.ofInt 32 stride⟩).advance x
  else s.raise x { code := .afovf }

/-- `aadd` (R225). -/
def execAadd (f : F) (s : State) : Host.Outcome State Fault Refusal :=
  issue (.aadd f) s fun x s =>
    let a := x.affSrc false x.f.a
    let b := x.affSrc false x.f.b
    s.affine x (a.base + b.base) (strideInt a + strideInt b)

/-- `asub` (R225). -/
def execAsub (f : F) (s : State) : Host.Outcome State Fault Refusal :=
  issue (.asub f) s fun x s =>
    let a := x.affSrc false x.f.a
    let b := x.affSrc false x.f.b
    s.affine x (a.base - b.base) (strideInt a - strideInt b)

/-- `aneg` (R225). -/
def execAneg (f : F) (s : State) : Host.Outcome State Fault Refusal :=
  issue (.aneg f) s fun x s =>
    let a := x.affSrc false x.f.a
    s.affine x (-a.base) (-strideInt a)

/-- `amul`: the multiplier is read as signed 64-bit (R225). -/
def execAmul (f : F) (s : State) : Host.Outcome State Fault Refusal :=
  issue (.amul f) s fun x s =>
    let a := x.affSrc false x.f.a
    let u := x.src false false x.f.b 0
    s.affine x (a.base * u) (strideInt a * u.toInt)

/-- `ashl`: an s count is taken mod 64 (R225). -/
def execAshl (f : F) (s : State) : Host.Outcome State Fault Refusal :=
  issue (.ashl f) s fun x s =>
    let a := x.affSrc false x.f.a
    let c := (x.src false false x.f.b 0).toNat % 64
    s.affine x (a.base <<< c) (strideInt a * 2 ^ c)

/-- `amov` (R225). -/
def execAmov (f : F) (s : State) : Host.Outcome State Fault Refusal :=
  issue (.amov f) s fun x s =>
    let a := x.affSrc false x.f.a
    s.affine x a.base (strideInt a)

/-- `aset`: base A, and B read as signed 64-bit for the stride (R225). -/
def execAset (f : F) (s : State) : Host.Outcome State Fault Refusal :=
  issue (.aset f) s fun x s => s.affine x (x.src false false x.f.a 0) (x.src false false x.f.b 0).toInt

/-! ### Demotions -/

/-- `atos`, the base (R226). -/
def execAtos (f : F) (s : State) : Host.Outcome State Fault Refusal :=
  issue (.atos f) s fun x s => (s.writeS x (x.affSrc false x.f.a).base).advance x

/-- `atos` at a lane (R226). -/
def execAtosLane (f : F) (s : State) : Host.Outcome State Fault Refusal :=
  issue (.atosLane f) s fun x s => (s.writeS x ((x.affSrc false x.f.a).lane x.f.imm8.toNat)).advance x

/-- `vtos` (R227). DESIGN CHOICE, log entry 45: in a handler that runs fewer lanes than k0 it takes the handler split's lanes (R73, R74),
where R227 writes k0. -/
def execVtos (t : ITy) (f : F) (s : State) : Host.Outcome State Fault Refusal :=
  issue (.vtos t f) s fun x s =>
    let m := x.sp.mask
    let v := x.pat t x.f.a (lowLane m)
    ((s.writeS x (extendTy t v)).flag x .diff ((lanesOf m).any fun l => x.pat t x.f.a l != v)).advance x

/-- The base and stride that reproduce a column over some lanes (R228). -/
def affineOf (ls : List Nat) (v : Nat → Int) : Option Aff :=
  match ls with
  | [] => none
  | l0 :: rest =>
    let st : Option Int := match rest with
      | [] => some 0
      | l1 :: _ => if (v l1 - v l0) % ((l1 : Int) - l0) = 0 then some ((v l1 - v l0) / ((l1 : Int) - l0)) else none
    match st with
    | none => none
    | some d =>
      if fitsSigned 32 d && rest.all fun l => v l == v l0 + d * ((l : Int) - l0) then
        some ⟨BitVec.ofInt 64 (v l0 - d * l0), BitVec.ofInt 32 d⟩
      else none

/-- `vtoa` (R228). DESIGN CHOICE, log entry 45: in a handler that runs fewer lanes than k0 it takes the handler split's lanes, as `vtos`
does. -/
def execVtoa (t : ITy) (f : F) (s : State) : Host.Outcome State Fault Refusal :=
  issue (.vtoa t f) s fun x s =>
    match affineOf (lanesOf x.sp.mask) fun l => numOf (ITy.signed t) (Forms.tyBits t) (x.pat t x.f.a l) with
    | some r => (s.writeA x r).advance x
    | none => (s.flag x .naff true).advance x

end Sys2Proof.Machine
end

