-- ==== Sys2Proof/Machine/ArrayOps.lean ====
section
/-! DEFINITION. The operations of a processing element (R353, R354) and the sums of a matrix-vector node (R155, R327). -/
namespace Sys2Proof.Machine

/-- Quotient with 90 or more bits and one more that stands for the rest (R354). -/
def divFin (a b : Fv) : Fv :=
  match a, b with
  | .fin n m e, .fin n' m' e' =>
    let k := 100 + Nat.log2 m'
    let q := m * 2 ^ k / m'
    .fin (n != n') (2 * q + if q * m' = m * 2 ^ k then 0 else 1) (e - e' - k - 1)
  | _, _ => .nan false

/-- X / Y, before its rounding (R354). -/
def fvDiv (a b : Fv) : Fv :=
  let neg := a.neg != b.neg
  if a.isNan || b.isNan || (a.isInf && b.isInf) || (a.isZero && b.isZero) then .nan false
  else if a.isInf || b.isZero then .inf neg
  else if b.isInf || a.isZero then .zero neg
  else divFin a b

/-- RND of a slot (R354). -/
def rndOf (r : Nat) : Rm :=
  match r with
  | 0 => .rne | 1 => .rtz | 2 => .rdn | _ => .rup

/-- An operation on integers of n bits (R354). -/
def arrInt (opc n : Nat) (sg : Bool) (rm : Rm) (x y z : Nat) : Nat :=
  let a := x % 2 ^ n
  let b := y % 2 ^ n
  let c := z % 2 ^ n
  let X := numOf sg n a
  let Y := numOf sg n b
  let flag : Bool → Nat := fun q => if q then 1 else 0
  match opc with
  | 0x00 => a
  | 0x01 => wrapInt n (X + Y)
  | 0x02 => wrapInt n (X - Y)
  | 0x03 => wrapInt n (X * Y)
  | 0x04 => wrapInt n (X * Y + numOf sg n c)
  | 0x05 => if X ≤ Y then a else b
  | 0x06 => if X ≤ Y then b else a
  | 0x07 => wrapInt n X.natAbs
  | 0x08 => wrapInt n (-X)
  | 0x09 => a &&& b
  | 0x0A => a ||| b
  | 0x0B => a ^^^ b
  | 0x0C => (shlFn n sg a b 0 0).1
  | 0x0D => (shrFn n sg a b 0 0).1
  | 0x0E => if c ≠ 0 then a else b
  | 0x10 => flag (X == Y)
  | 0x11 => flag (X != Y)
  | 0x12 => flag (X < Y)
  | 0x13 => flag (X ≤ Y)
  | 0x14 => flag (Y < X)
  | 0x15 => flag (Y ≤ X)
  | 0x18 => if X < 0 then 0 else a
  | 0x20 => (divFn n sg a b 0 0).1
  | 0x28 => (roundFp .f32 rm 0 false false (.ofInt X)).1
  | _ => 0

/-- A floating-point operation at an element of a format (R354). -/
def arrFp (f : Fmt) (opc : Nat) (rm : Rm) (x y z : Nat) : Nat :=
  let x := x % 2 ^ f.width
  let y := y % 2 ^ f.width
  let z := z % 2 ^ f.width
  let a := valueOf f x
  let b := valueOf f y
  let c := valueOf f z
  let put := fun (v : Fv × Bool) => (roundOp f rm 0 false v).1
  let cmp := fun (lt eq gt un : Bool) =>
    let r : Bool := if a.isNan || b.isNan then un else if fvLt a b then lt else if fvLt b a then gt else eq
    if r then 1 else 0
  match opc with
  | 0x00 => x
  | 0x01 => put (fvAdd a b rm)
  | 0x02 => put (fvAdd a b.negate rm)
  | 0x03 => put (fvMul a b)
  | 0x04 => put (fvFma a b c rm)
  | 0x05 => put (fvMin a b)
  | 0x06 => put (fvMax a b)
  | 0x07 => put (a.absolute, false)
  | 0x08 => put (a.negate, false)
  | 0x09 => x &&& y
  | 0x0A => x ||| y
  | 0x0B => x ^^^ y
  | 0x0E => if z ≠ 0 then x else y
  | 0x10 => cmp false true false false
  | 0x11 => cmp true false true true
  | 0x12 => cmp true false false false
  | 0x13 => cmp true true false false
  | 0x14 => cmp false false true false
  | 0x15 => cmp false true true false
  | 0x18 => put (fvMax a (.zero false))
  | 0x20 => put (fvDiv a b, false)
  | 0x21 => (fvSqrt f rm 0 false a).1
  | 0x22 => (specialOf .rcp f false x).1
  | 0x23 => (specialOf .rsqrt f false x).1
  | 0x24 => (specialOf .exp2 f false x).1
  | 0x25 => (specialOf .log2 f false x).1
  | 0x29 => (roundInt 32 true rm 0 false a).1
  | 0x2A => (roundInt 32 false rm 0 false a).1
  | 0x2B => (roundFp .bf16 rm 0 false false a).1
  | _ => 0

/-- DOT8 (R354). -/
def arrDot8 (x y z : Nat) : Nat :=
  let s := (List.range 8).foldl (fun (t : Int) k => t + sextNat 8 (nbits x (8 * k) 8) * sextNat 8 (nbits y (8 * k) 8)) 0
  wrapInt 32 (z % 2 ^ 32 + s)

/-- The result of a slot (R354). -/
def arrOp (opc fmt rnd : Nat) (x y z : W64) : W64 :=
  let X := x.toNat
  let Y := y.toNat
  let Z := z.toNat
  BitVec.ofNat 64 (match fmt with
  | 0 => arrInt opc 32 true (rndOf rnd) X Y Z
  | 1 => arrInt opc 32 false (rndOf rnd) X Y Z
  | 2 => arrFp .f32 opc (rndOf rnd) X Y Z
  | 3 => arrInt opc 64 true (rndOf rnd) X Y Z
  | 4 => ((List.range 4).map fun k =>
      2 ^ (16 * k) * arrFp .bf16 opc (rndOf rnd) (nbits X (16 * k) 16) (nbits Y (16 * k) 16) (nbits Z (16 * k) 16)).sum
  | _ =>
    match opc with
    | 0x00 => X
    | 0x09 => X &&& Y
    | 0x0A => X ||| Y
    | 0x0B => X ^^^ Y
    | 0x30 => arrDot8 X Y Z
    | _ => 0)

/-- A 32-bit operand as a format takes it (R353). -/
def widen (fmt : Nat) (v : Nat) : W64 :=
  match fmt with
  | 3 => sext64 (BitVec.ofNat 32 v)
  | 4 | 5 => BitVec.ofNat 64 (v % 2 ^ 32 + 2 ^ 32 * (v % 2 ^ 32))
  | _ => BitVec.ofNat 64 (v % 2 ^ 32)

/-- Latency of a slot's operation in ac (R317, R354). -/
def opLatency (opc fmt : Nat) : Nat :=
  if 0x20 ≤ opc ∧ opc ≤ 0x25 then 6
  else if 0x28 ≤ opc ∧ opc ≤ 0x2B then 2
  else if (fmt = 2 ∨ fmt = 4) ∧ ((1 ≤ opc ∧ opc ≤ 8) ∨ opc = 0x18) then 2
  else 1

/-! ### Matrix-vector nodes -/

/-- Format of a node's elements (R357). -/
def nodeFmt (f : Nat) : Fmt := match f with | 2 => .e4m3 | 3 => .e5m2 | _ => .bf16

/-- Tokens of a tile (R326). -/
def tileTokens (f : Nat) : Nat := if f = 1 then 64 else 32

/-- Element (i, j) of a tile that is held as its tokens (R326). -/
def tileElem (f : Nat) (tile : FMap W64) (i j : Nat) : Fv :=
  if f = 1 then valueOf .bf16 (nbits (FMap.at' 0 tile (4 * i + j / 4)).toNat (16 * (j % 4)) 16)
  else valueOf (nodeFmt f) (nbits (FMap.at' 0 tile (2 * i + j / 8)).toNat (8 * (j % 8)) 8)

/-- The vectors of a group of four tokens, of which an empty one counts as zeros (R326, R327). -/
def groupVecs (f : Nat) (d : Nat → Nat) : List (Nat → Fv) :=
  if f = 1 then [fun j => valueOf .bf16 (nbits (d (j / 4)) (16 * (j % 4)) 16)]
  else [fun j => valueOf (nodeFmt f) (nbits (d (j / 8)) (8 * (j % 8)) 8),
        fun j => valueOf (nodeFmt f) (nbits (d (2 + j / 8)) (8 * (j % 8)) 8)]

/-- mv_group: row i of the tile times a vector (R155). -/
def mvGroup (f : Nat) (tile : FMap W64) (i : Nat) (v : Nat → Fv) : Nat :=
  groupF32 ((List.range 16).map fun j => (tileElem f tile i j, v j))

/-- The partials after one vector (R327). -/
def nodeVector (f : Nat) (n : NodeSt) (v : Nat → Fv) : NodeSt :=
  (List.range 16).foldl (fun (n : NodeSt) i =>
    let q := mvGroup f n.active i v
    let r := if FMap.at' false n.live i then addF32 (FMap.at' 0 n.partials i).toNat q else q
    { n with partials := FMap.put 0 n.partials i (BitVec.ofNat 32 r), live := FMap.put false n.live i true }) n

end Sys2Proof.Machine
end

