-- ==== Sys2Proof/WellFormed.lean ====
section
/-! DEFINITION. Which terms of `Instr` are instructions: an encoded instruction whose fields pass every decoding check of
R174. An event is well formed as it stands: the units it names are tested where it acts. -/
namespace Sys2Proof

/-- The check of R174 that an encoded instruction fails, if any. -/
def wfErr (i : Instr) : Option DecodeErr :=
  match Forms.spec i with
  | none => none
  | some (p, f) => Forms.check p (Forms.isBr i) f

/-- Well-formed instructions. -/
def WellFormed (i : Instr) : Bool := (wfErr i).isNone

end Sys2Proof
end

