-- ==== Sys2Proof/Decode.lean ====
section
/-! DEFINITION. The decoder (R163 to R187) and, after it, the encoder, both written from the same tables of the spec. A word
that fails a check is rejected by the name of the check; the wave that fetched it then takes ILLOP (R174). -/
namespace Sys2Proof

/-- Destination file of a DF code (R164). -/
def dfileOf (c : BitVec 3) : DFile :=
  match c.toNat with
  | 0 => .none | 1 => .s | 2 => .a | 3 => .v | 4 => .k | 5 => .acc | 6 => .t | _ => .sys

/-- Source file of an AF, BF or CF code (R164). -/
def sfileOf (c : BitVec 3) : SFile :=
  match c.toNat with
  | 0 => .s | 1 => .a | 2 => .v | 3 => .k | 4 => .t | 5 => .acc | 6 => .imm | _ => .sys

/-- Integer type of an MD value (R172). -/
def ityOf (c : BitVec 3) : ITy :=
  match c.toNat with
  | 0 => .i32 | 1 => .u32 | 2 => .i64 | 3 => .u64 | 4 => .i16 | 5 => .u16 | 6 => .i8 | _ => .u8

/-- Rounding code of an MD value; 6 and 7 are illegal (R145). -/
def rcOf (c : BitVec 3) : Option Rc :=
  match c.toNat with
  | 0 => some .fpctl | 1 => some .rne | 2 => some .rtz | 3 => some .rdn | 4 => some .rup | 5 => some .sr | _ => none

/-- Ordering code of an MD value; 6 and 7 are illegal (R173). -/
def ordOf (c : BitVec 3) : Option Ord :=
  match c.toNat with
  | 0 => some .plain | 1 => some .acq | 2 => some .rel | 3 => some .ar | 4 => some .np | 5 => some .acqNp | _ => none

/-- Size of an FN value of `ld` and `st` (R184). -/
def msizeOf (n : Nat) : Option MSize :=
  match n with
  | 0 => some .u8 | 1 => some .i8 | 2 => some .u16 | 3 => some .i16 | 4 => some .b32 | 5 => some .b64 | _ => none

/-- Conversion format of a 3-bit code (R183). -/
def cvtOf (n : Nat) : CvtFmt :=
  match n with
  | 0 => .i32 | 1 => .u32 | 2 => .i64 | 3 => .u64 | 4 => .f64 | 5 => .f32 | 6 => .f16 | _ => .bf16

/-- Operation of a reduction or scan code (R186). -/
def redOf (n : Nat) : Option RedOp :=
  match n with
  | 0 => some .addI32 | 1 => some .addI64 | 2 => some .addF32 | 3 => some .minI32 | 4 => some .minU32
  | 5 => some .maxI32 | 6 => some .maxU32 | 7 => some .minF32 | 8 => some .maxF32 | 9 => some .and
  | 10 => some .or | 11 => some .xor | _ => none

/-- Integer type of an atomic's FN[5:4] (R185). -/
def attyOf (n : Nat) : AtTy :=
  match n with
  | 0 => .u32 | 1 => .i32 | 2 => .u64 | _ => .i64

/-- Type of the floating atomic's FN[5:4] (R185). -/
def fatyOf (n : Nat) : Option FaTy :=
  match n with
  | 0 => some .f32 | 1 => some .f64 | 2 => some .bf16x2 | _ => none

/-- Format of `mma` (R187). -/
def mmaOf (n : Nat) : Option MmaFmt :=
  match n with
  | 0 => some .bf16 | 1 => some .f16 | 2 => some .e4m3 | 3 => some .e5m2 | 4 => some .mxf4 | 5 => some .i8 | _ => none

/-- MD must be 0 (R172). -/
def noMd (md : BitVec 3) (i : Instr) : Except DecodeErr Instr := if md = 0 then .ok i else .error .modifier

def withRc (md : BitVec 3) (k : Rc → Instr) : Except DecodeErr Instr :=
  match rcOf md with
  | some r => .ok (k r)
  | none => .error .modifier

def withOrd (md : BitVec 3) (k : Ord → Instr) : Except DecodeErr Instr :=
  match ordOf md with
  | some o => .ok (k o)
  | none => .error .modifier

def orFunction {α : Type} (o : Option α) (k : α → Except DecodeErr Instr) : Except DecodeErr Instr :=
  match o with
  | some x => k x
  | none => .error .function

/-- The integer group (R180). -/
def buildInt (c : Cls) (fn : Nat) (t : ITy) (f : F) : Except DecodeErr Instr :=
  match fn with
  | 0x00 => .ok (.intAdd c t f) | 0x01 => .ok (.intSub c t f) | 0x02 => .ok (.intMul c t f)
  | 0x03 => .ok (.intMulhi c t f) | 0x04 => .ok (.intMad c t f) | 0x05 => .ok (.intMin c t f)
  | 0x06 => .ok (.intMax c t f) | 0x07 => .ok (.intAbs c t f) | 0x08 => .ok (.intNeg c t f)
  | 0x09 => .ok (.intAnd c t f) | 0x0A => .ok (.intOr c t f) | 0x0B => .ok (.intXor c t f)
  | 0x0C => .ok (.intAndn c t f) | 0x0D => .ok (.intNot c t f) | 0x0E => .ok (.intShl c t f)
  | 0x0F => .ok (.intShr c t f) | 0x10 => .ok (.intRot c t f) | 0x11 => .ok (.intFshl c t f)
  | 0x12 => .ok (.intFshr c t f) | 0x13 => .ok (.intBfe c t f) | 0x14 => .ok (.intBfi c t f)
  | 0x15 => .ok (.intPopc c t f) | 0x16 => .ok (.intClz c t f) | 0x17 => .ok (.intCtz c t f)
  | 0x18 => .ok (.intBrev c t f) | 0x19 => .ok (.intDiv c t f) | 0x1A => .ok (.intRem c t f)
  | 0x1B => .ok (.intSel c t f) | 0x1C => .ok (.intMov c t f)
  | 0x1D => match c with | .s => .ok (.smovh t f) | .v => .error .function
  | 0x1E => .ok (.intLea c t f)
  | 0x20 => .ok (.intAddSat c t f) | 0x21 => .ok (.intSubSat c t f) | 0x22 => .ok (.intMulSat c t f)
  | 0x23 => .ok (.intMadSat c t f) | 0x24 => .ok (.intAbsSat c t f) | 0x25 => .ok (.intNegSat c t f)
  | 0x28 => .ok (.intCmpEq c t f) | 0x29 => .ok (.intCmpNe c t f) | 0x2A => .ok (.intCmpLt c t f)
  | 0x2B => .ok (.intCmpLe c t f) | 0x2C => .ok (.intCmpGt c t f) | 0x2D => .ok (.intCmpGe c t f)
  | _ => .error .function

/-- The floating-point groups (R182). -/
def buildFp (k : FpK) (fn : Nat) (md : BitVec 3) (f : F) : Except DecodeErr Instr :=
  match fn with
  | 0x00 => withRc md fun r => .fpAdd k r f
  | 0x01 => withRc md fun r => .fpSub k r f
  | 0x02 => withRc md fun r => .fpMul k r f
  | 0x03 => withRc md fun r => .fpFma k r f
  | 0x04 => noMd md (.fpMin k f) | 0x05 => noMd md (.fpMax k f)
  | 0x06 => noMd md (.fpAbs k f) | 0x07 => noMd md (.fpNeg k f)
  | 0x08 => noMd md (.fpRcp k f) | 0x09 => noMd md (.fpRsqrt k f)
  | 0x0A => withRc md fun r => .fpSqrt k r f
  | 0x0B => noMd md (.fpExp2 k f) | 0x0C => noMd md (.fpLog2 k f)
  | 0x0D => noMd md (.fpSin k f) | 0x0E => noMd md (.fpCos k f)
  | 0x0F => noMd md (.fpClass k f)
  | 0x10 => noMd md (.fpCmpEq k f) | 0x11 => noMd md (.fpCmpNe k f) | 0x12 => noMd md (.fpCmpLt k f)
  | 0x13 => noMd md (.fpCmpLe k f) | 0x14 => noMd md (.fpCmpGt k f) | 0x15 => noMd md (.fpCmpGe k f)
  | 0x16 => noMd md (.fpCmpUn k f)
  | _ => .error .function

/-- The narrow conversions (R238). -/
def buildNarrow (fn : Nat) (md : BitVec 3) (f : F) : Except DecodeErr Instr :=
  match fn with
  | 0x00 => withRc md fun r => .vcvtE4m3x2F32 r f
  | 0x01 => withRc md fun r => .vcvtE5m2x2F32 r f
  | 0x02 => noMd md (.vcvtF32E4m3 f)
  | 0x03 => noMd md (.vcvtF32E5m2 f)
  | 0x04 => withRc md fun r => .vcvtMxf4F32 r f
  | 0x05 => withRc md fun r => .vcvtF32Mxf4 r f
  | _ => .error .function

/-- The atomics (R185): operation in FN[3:0], type in FN[5:4]. -/
def buildAtom (fn : Nat) (md : BitVec 3) (f : F) : Except DecodeErr Instr :=
  let t := attyOf (fn / 16)
  match fn % 16 with
  | 0 => withOrd md fun o => .atomAdd t o f
  | 1 => withOrd md fun o => .atomMin t o f
  | 2 => withOrd md fun o => .atomMax t o f
  | 3 => withOrd md fun o => .atomAnd t o f
  | 4 => withOrd md fun o => .atomOr t o f
  | 5 => withOrd md fun o => .atomXor t o f
  | 6 => withOrd md fun o => .atomXchg t o f
  | 7 => withOrd md fun o => .atomCas t o f
  | 8 => orFunction (fatyOf (fn / 16)) fun u => withOrd md fun o => .atomFadd u o f
  | _ => .error .function

/-- The single-function opcodes 0x00 to 0x0E and the mask and supervisor groups (R177 to R179). -/
def buildControl (op fn : Nat) (md : BitVec 3) (f : F) : Except DecodeErr Instr :=
  match op, fn with
  | 0x00, 0 => noMd md (.nop f)
  | 0x01, 0 => noMd md (.br f) | 0x01, 1 => noMd md (.brNz f) | 0x01, 2 => noMd md (.brZ f)
  | 0x02, 0 => noMd md (.brx f)
  | 0x03, 0 => noMd md (.call f) | 0x03, 1 => noMd md (.callIndirect f)
  | 0x04, 0 => noMd md (.ret f) | 0x05, 0 => noMd md (.join f) | 0x06, 0 => noMd md (.yield f)
  | 0x07, 0 => noMd md (.exit f) | 0x08, 0 => noMd md (.kill f) | 0x09, 0 => noMd md (.wait f)
  | 0x0A, 0 => noMd md (.trap f) | 0x0B, 0 => noMd md (.tret f) | 0x0C, 0 => noMd md (.bkpt f)
  | 0x0D, 0 => noMd md (.rdsys f) | 0x0E, 0 => noMd md (.wrsys f)
  | 0x10, 0 => noMd md (.kmov f) | 0x10, 1 => noMd md (.kand f) | 0x10, 2 => noMd md (.kor f)
  | 0x10, 3 => noMd md (.kxor f) | 0x10, 4 => noMd md (.kandn f) | 0x10, 5 => noMd md (.knot f)
  | 0x18, 0 => noMd md (.ctxsave f) | 0x18, 1 => noMd md (.ctxload f) | 0x18, 2 => noMd md (.tlbinv f)
  | 0x18, 3 => noMd md (.l1inv f)
  | _, _ => .error .function

/-- The affine group and the demotions (R181). -/
def buildAffine (op fn : Nat) (md : BitVec 3) (f : F) : Except DecodeErr Instr :=
  match op, fn with
  | 0x40, 0 => noMd md (.aadd f) | 0x40, 1 => noMd md (.asub f) | 0x40, 2 => noMd md (.aneg f)
  | 0x40, 3 => noMd md (.amul f) | 0x40, 4 => noMd md (.ashl f) | 0x40, 5 => noMd md (.amov f)
  | 0x40, 6 => noMd md (.aset f)
  | 0x5F, 0 => noMd md (.atos f) | 0x5F, 1 => noMd md (.atosLane f)
  | 0xBF, 0 => .ok (.vtos (ityOf md) f) | 0xBF, 1 => .ok (.vtoa (ityOf md) f)
  | _, _ => .error .function

/-- The memory groups (R184). -/
def buildMem (op fn : Nat) (md : BitVec 3) (f : F) : Except DecodeErr Instr :=
  match op, fn with
  | 0xC0, _ => orFunction (msizeOf fn) fun z => withOrd md fun o => .ld z o f
  | 0xC1, _ => orFunction (msizeOf fn) fun z => withOrd md fun o => .st z o f
  | 0xC2, 0 => noMd md (.ldSync f) | 0xC2, 1 => noMd md (.ldTake f) | 0xC2, 2 => noMd md (.stFill f)
  | 0xC4, 0 => noMd md (.fenceSc f) | 0xC4, 1 => noMd md (.fenceXp f)
  | 0xC5, 0 => noMd md (.pf f) | 0xC5, 1 => noMd md (.pfL2 f)
  | 0xC6, 0 => noMd md (.cinv f) | 0xC6, 1 => noMd md (.lineclr f)
  | 0xC7, 0 => noMd md (.wopen f) | 0xC7, 1 => noMd md (.wsub f) | 0xC7, 2 => noMd md (.wclose f)
  | 0xC7, 3 => noMd md (.wunsub f)
  | _, _ => .error .function

/-- The cross-lane and synchronisation groups (R186). -/
def buildSync (op fn : Nat) (md : BitVec 3) (f : F) : Except DecodeErr Instr :=
  match op, fn with
  | 0xE0, 0 => noMd md (.shflIdx f) | 0xE0, 1 => noMd md (.shflUp f) | 0xE0, 2 => noMd md (.shflDn f)
  | 0xE0, 3 => noMd md (.shflXor f)
  | 0xE1, 0 => noMd md (.voteAll f) | 0xE1, 1 => noMd md (.voteAny f) | 0xE1, 2 => noMd md (.voteUni f)
  | 0xE1, 3 => noMd md (.ballot f) | 0xE1, 4 => noMd md (.matchLanes f)
  | 0xE2, _ => if fn < 16 then orFunction (redOf fn) fun o => noMd md (.red o f) else .error .function
  | 0xE3, _ =>
    if fn < 16 then orFunction (redOf fn) fun o => noMd md (.scan o f)
    else if fn < 32 then orFunction (redOf (fn - 16)) fun o => noMd md (.scanX o f)
    else .error .function
  | 0xE4, 0 => noMd md (.barArr f) | 0xE4, 1 => noMd md (.barWait f) | 0xE4, 2 => noMd md (.barSync f)
  | 0xE5, 0 => noMd md (.jarr f) | 0xE5, 1 => noMd md (.jwait f)
  | 0xE6, 0 => noMd md (.tadd f) | 0xE6, 1 => noMd md (.tmin f) | 0xE6, 2 => noMd md (.tmax f)
  | 0xE6, 3 => noMd md (.tand f) | 0xE6, 4 => noMd md (.tor f) | 0xE6, 5 => noMd md (.txchg f)
  | 0xE6, 6 => noMd md (.tcas f)
  | 0xE7, 0 => withOrd md fun o => .awaitEq o f
  | 0xE7, 1 => withOrd md fun o => .awaitNe o f
  | 0xE8, 0 => noMd md (.qres f) | 0xE8, 1 => noMd md (.qpub f) | 0xE8, 2 => noMd md (.qtake f)
  | _, _ => .error .function

/-- The engine groups (R187). -/
def buildEngine (op fn : Nat) (md : BitVec 3) (f : F) : Except DecodeErr Instr :=
  match op, fn with
  | 0xF0, _ =>
    if fn < 16 then orFunction (mmaOf fn) fun t => noMd md (.mma t f)
    else if fn < 32 then orFunction (mmaOf (fn - 16)) fun t => noMd md (.mmaClu t f)
    else .error .function
  | 0xF1, 0 => noMd md (.accld f) | 0xF1, 1 => noMd md (.accst f) | 0xF1, 2 => noMd md (.acczero f)
  | 0xF2, 0 => noMd md (.cparm f) | 0xF2, 1 => noMd md (.cpfire f) | 0xF2, 2 => noMd md (.cpbook f)
  | 0xF2, 3 => noMd md (.cpbind f) | 0xF2, 4 => noMd md (.cpdisarm f)
  | 0xF3, 0 => noMd md (.spawn f)
  | 0xF4, 0 => noMd md (.alaunch f) | 0xF4, 1 => noMd md (.asplice f) | 0xF4, 2 => noMd md (.xred f)
  | 0xF5, 0 => noMd md (.bnkop f)
  | _, _ => .error .function

/-- The opcode map (R176): OP, FN and MD select the constructor. -/
def build (op : W8) (fn : BitVec 6) (md : BitVec 3) (f : F) : Except DecodeErr Instr :=
  let o := op.toNat
  let n := fn.toNat
  if o ≤ 0x0E || o == 0x10 || o == 0x18 then buildControl o n md f
  else if o == 0x20 then buildInt .s n (ityOf md) f
  else if o == 0x60 then buildInt .v n (ityOf md) f
  else if o == 0x24 then buildFp .sF32 n md f
  else if o == 0x25 then buildFp .sF64 n md f
  else if o == 0x68 then buildFp .vF32 n md f
  else if o == 0x69 then buildFp .vF64 n md f
  else if o == 0x6A then buildFp .vF16x2 n md f
  else if o == 0x6B then buildFp .vBf16x2 n md f
  else if o == 0x26 then withRc md fun r => .cvt .s (cvtOf (n / 8)) (cvtOf (n % 8)) r f
  else if o == 0x70 then withRc md fun r => .cvt .v (cvtOf (n / 8)) (cvtOf (n % 8)) r f
  else if o == 0x71 then buildNarrow n md f
  else if o == 0x40 || o == 0x5F || o == 0xBF then buildAffine o n md f
  else if o == 0xC3 then buildAtom n md f
  else if 0xC0 ≤ o && o ≤ 0xC7 then buildMem o n md f
  else if 0xE0 ≤ o && o ≤ 0xE8 then buildSync o n md f
  else if 0xF0 ≤ o && o ≤ 0xF5 then buildEngine o n md f
  else .error .opcode

/-- X of a primary word (R164). -/
def wordX (w : W64) : Bool := w.getLsbD 55

/-- The fields of a primary word and its extension word, which reads as zero with X = 0 (R164, R165). -/
def unpack (w e : W64) : F :=
  { x := wordX w
    d := ⟨dfileOf (w.extractLsb' 52 3), w.extractLsb' 44 8⟩
    a := ⟨sfileOf (w.extractLsb' 41 3), w.extractLsb' 33 8⟩
    b := ⟨sfileOf (w.extractLsb' 30 3), w.extractLsb' 22 8⟩
    g := w.extractLsb' 19 3
    gn := w.getLsbD 18
    ru := w.getLsbD 17
    imm8 := w.extractLsb' 0 8
    imm32 := e.extractLsb' 32 32
    c := ⟨sfileOf (e.extractLsb' 29 3), e.extractLsb' 21 8⟩
    sc := e.extractLsb' 18 3
    rnd := e.extractLsb' 10 8 }

/-- Decoding of R174 of a primary word and, with X = 1, its extension word. -/
def decodeWords (w e : W64) : Except DecodeErr Instr :=
  let ext := if wordX w then e else 0
  match build (w.extractLsb' 56 8) (w.extractLsb' 11 6) (w.extractLsb' 8 3) (unpack w ext) with
  | .error r => .error r
  | .ok i =>
    if ext.extractLsb' 0 10 ≠ 0 then .error .extension
    else match wfErr i with
      | some r => .error r
      | none => .ok i

/-- The 64-bit word that eight bytes hold, lowest first (R6). -/
def wordOf (bs : List W8) : W64 := BitVec.ofNat 64 (ofBytes bs)

/-- Reads one instruction from the front of a list of bytes (R6, R163). -/
def decode (bs : List W8) : Except DecodeErr (Instr × List W8) :=
  if bs.length < 8 then .error .length
  else
    let w := wordOf (bs.take 8)
    let rest := bs.drop 8
    if wordX w then
      if rest.length < 8 then .error .length
      else match decodeWords w (wordOf (rest.take 8)) with
        | .error r => .error r
        | .ok i => .ok (i, rest.drop 8)
    else match decodeWords w 0 with
      | .error r => .error r
      | .ok i => .ok (i, rest)

/-- The instruction read from the table's bits: the first word is bits 63..0, the extension word bits 127..64. -/
def decodeTableWord (_nbits w : Nat) : Option Instr :=
  match decode (toBytes 16 w) with
  | .ok (i, _) => some i
  | .error _ => none

/-- DF code of a destination file (R164). -/
def dfileCode : DFile → BitVec 3
  | .none => 0 | .s => 1 | .a => 2 | .v => 3 | .k => 4 | .acc => 5 | .t => 6 | .sys => 7

/-- AF, BF or CF code of a source file (R164). -/
def sfileCode : SFile → BitVec 3
  | .s => 0 | .a => 1 | .v => 2 | .k => 3 | .t => 4 | .acc => 5 | .imm => 6 | .sys => 7

def ityCode : ITy → BitVec 3
  | .i32 => 0 | .u32 => 1 | .i64 => 2 | .u64 => 3 | .i16 => 4 | .u16 => 5 | .i8 => 6 | .u8 => 7

def rcCode : Rc → BitVec 3
  | .fpctl => 0 | .rne => 1 | .rtz => 2 | .rdn => 3 | .rup => 4 | .sr => 5

def ordCode : Ord → BitVec 3
  | .plain => 0 | .acq => 1 | .rel => 2 | .ar => 3 | .np => 4 | .acqNp => 5

def msizeCode : MSize → Nat
  | .u8 => 0 | .i8 => 1 | .u16 => 2 | .i16 => 3 | .b32 => 4 | .b64 => 5

def cvtCode : CvtFmt → Nat
  | .i32 => 0 | .u32 => 1 | .i64 => 2 | .u64 => 3 | .f64 => 4 | .f32 => 5 | .f16 => 6 | .bf16 => 7

def redCode : RedOp → Nat
  | .addI32 => 0 | .addI64 => 1 | .addF32 => 2 | .minI32 => 3 | .minU32 => 4 | .maxI32 => 5 | .maxU32 => 6
  | .minF32 => 7 | .maxF32 => 8 | .and => 9 | .or => 10 | .xor => 11

def attyCode : AtTy → Nat
  | .u32 => 0 | .i32 => 1 | .u64 => 2 | .i64 => 3

def fatyCode : FaTy → Nat
  | .f32 => 0 | .f64 => 1 | .bf16x2 => 2

def mmaCode : MmaFmt → Nat
  | .bf16 => 0 | .f16 => 1 | .e4m3 => 2 | .e5m2 => 3 | .mxf4 => 4 | .i8 => 5

/-- OP of an integer class (R176). -/
def intOp : Cls → W8
  | .s => 0x20 | .v => 0x60

/-- OP of a floating-point group (R182). -/
def fpOp : FpK → W8
  | .sF32 => 0x24 | .sF64 => 0x25 | .vF32 => 0x68 | .vF64 => 0x69 | .vF16x2 => 0x6A | .vBf16x2 => 0x6B

/-- OP of the general conversions (R183). -/
def cvtOp : Cls → W8
  | .s => 0x26 | .v => 0x70

/-- OP, FN, MD and the other fields of an encoded instruction (R176 to R187); nothing for an event. -/
def head : Instr → Option (W8 × BitVec 6 × BitVec 3 × F)
  | .nop f => some (0x00, 0, 0, f)
  | .br f => some (0x01, 0, 0, f) | .brNz f => some (0x01, 1, 0, f) | .brZ f => some (0x01, 2, 0, f)
  | .brx f => some (0x02, 0, 0, f)
  | .call f => some (0x03, 0, 0, f) | .callIndirect f => some (0x03, 1, 0, f)
  | .ret f => some (0x04, 0, 0, f) | .join f => some (0x05, 0, 0, f) | .yield f => some (0x06, 0, 0, f)
  | .exit f => some (0x07, 0, 0, f) | .kill f => some (0x08, 0, 0, f) | .wait f => some (0x09, 0, 0, f)
  | .trap f => some (0x0A, 0, 0, f) | .tret f => some (0x0B, 0, 0, f) | .bkpt f => some (0x0C, 0, 0, f)
  | .rdsys f => some (0x0D, 0, 0, f) | .wrsys f => some (0x0E, 0, 0, f)
  | .kmov f => some (0x10, 0, 0, f) | .kand f => some (0x10, 1, 0, f) | .kor f => some (0x10, 2, 0, f)
  | .kxor f => some (0x10, 3, 0, f) | .kandn f => some (0x10, 4, 0, f) | .knot f => some (0x10, 5, 0, f)
  | .ctxsave f => some (0x18, 0, 0, f) | .ctxload f => some (0x18, 1, 0, f) | .tlbinv f => some (0x18, 2, 0, f)
  | .l1inv f => some (0x18, 3, 0, f)
  | .intAdd c t f => some (intOp c, 0x00, ityCode t, f) | .intSub c t f => some (intOp c, 0x01, ityCode t, f)
  | .intMul c t f => some (intOp c, 0x02, ityCode t, f) | .intMulhi c t f => some (intOp c, 0x03, ityCode t, f)
  | .intMad c t f => some (intOp c, 0x04, ityCode t, f) | .intMin c t f => some (intOp c, 0x05, ityCode t, f)
  | .intMax c t f => some (intOp c, 0x06, ityCode t, f) | .intAbs c t f => some (intOp c, 0x07, ityCode t, f)
  | .intNeg c t f => some (intOp c, 0x08, ityCode t, f) | .intAnd c t f => some (intOp c, 0x09, ityCode t, f)
  | .intOr c t f => some (intOp c, 0x0A, ityCode t, f) | .intXor c t f => some (intOp c, 0x0B, ityCode t, f)
  | .intAndn c t f => some (intOp c, 0x0C, ityCode t, f) | .intNot c t f => some (intOp c, 0x0D, ityCode t, f)
  | .intShl c t f => some (intOp c, 0x0E, ityCode t, f) | .intShr c t f => some (intOp c, 0x0F, ityCode t, f)
  | .intRot c t f => some (intOp c, 0x10, ityCode t, f) | .intFshl c t f => some (intOp c, 0x11, ityCode t, f)
  | .intFshr c t f => some (intOp c, 0x12, ityCode t, f) | .intBfe c t f => some (intOp c, 0x13, ityCode t, f)
  | .intBfi c t f => some (intOp c, 0x14, ityCode t, f) | .intPopc c t f => some (intOp c, 0x15, ityCode t, f)
  | .intClz c t f => some (intOp c, 0x16, ityCode t, f) | .intCtz c t f => some (intOp c, 0x17, ityCode t, f)
  | .intBrev c t f => some (intOp c, 0x18, ityCode t, f) | .intDiv c t f => some (intOp c, 0x19, ityCode t, f)
  | .intRem c t f => some (intOp c, 0x1A, ityCode t, f) | .intSel c t f => some (intOp c, 0x1B, ityCode t, f)
  | .intMov c t f => some (intOp c, 0x1C, ityCode t, f) | .smovh t f => some (0x20, 0x1D, ityCode t, f)
  | .intLea c t f => some (intOp c, 0x1E, ityCode t, f)
  | .intAddSat c t f => some (intOp c, 0x20, ityCode t, f) | .intSubSat c t f => some (intOp c, 0x21, ityCode t, f)
  | .intMulSat c t f => some (intOp c, 0x22, ityCode t, f) | .intMadSat c t f => some (intOp c, 0x23, ityCode t, f)
  | .intAbsSat c t f => some (intOp c, 0x24, ityCode t, f) | .intNegSat c t f => some (intOp c, 0x25, ityCode t, f)
  | .intCmpEq c t f => some (intOp c, 0x28, ityCode t, f) | .intCmpNe c t f => some (intOp c, 0x29, ityCode t, f)
  | .intCmpLt c t f => some (intOp c, 0x2A, ityCode t, f) | .intCmpLe c t f => some (intOp c, 0x2B, ityCode t, f)
  | .intCmpGt c t f => some (intOp c, 0x2C, ityCode t, f) | .intCmpGe c t f => some (intOp c, 0x2D, ityCode t, f)
  | .aadd f => some (0x40, 0, 0, f) | .asub f => some (0x40, 1, 0, f) | .aneg f => some (0x40, 2, 0, f)
  | .amul f => some (0x40, 3, 0, f) | .ashl f => some (0x40, 4, 0, f) | .amov f => some (0x40, 5, 0, f)
  | .aset f => some (0x40, 6, 0, f) | .atos f => some (0x5F, 0, 0, f) | .atosLane f => some (0x5F, 1, 0, f)
  | .vtos t f => some (0xBF, 0, ityCode t, f) | .vtoa t f => some (0xBF, 1, ityCode t, f)
  | .fpAdd k r f => some (fpOp k, 0x00, rcCode r, f) | .fpSub k r f => some (fpOp k, 0x01, rcCode r, f)
  | .fpMul k r f => some (fpOp k, 0x02, rcCode r, f) | .fpFma k r f => some (fpOp k, 0x03, rcCode r, f)
  | .fpMin k f => some (fpOp k, 0x04, 0, f) | .fpMax k f => some (fpOp k, 0x05, 0, f)
  | .fpAbs k f => some (fpOp k, 0x06, 0, f) | .fpNeg k f => some (fpOp k, 0x07, 0, f)
  | .fpRcp k f => some (fpOp k, 0x08, 0, f) | .fpRsqrt k f => some (fpOp k, 0x09, 0, f)
  | .fpSqrt k r f => some (fpOp k, 0x0A, rcCode r, f)
  | .fpExp2 k f => some (fpOp k, 0x0B, 0, f) | .fpLog2 k f => some (fpOp k, 0x0C, 0, f)
  | .fpSin k f => some (fpOp k, 0x0D, 0, f) | .fpCos k f => some (fpOp k, 0x0E, 0, f)
  | .fpClass k f => some (fpOp k, 0x0F, 0, f)
  | .fpCmpEq k f => some (fpOp k, 0x10, 0, f) | .fpCmpNe k f => some (fpOp k, 0x11, 0, f)
  | .fpCmpLt k f => some (fpOp k, 0x12, 0, f) | .fpCmpLe k f => some (fpOp k, 0x13, 0, f)
  | .fpCmpGt k f => some (fpOp k, 0x14, 0, f) | .fpCmpGe k f => some (fpOp k, 0x15, 0, f)
  | .fpCmpUn k f => some (fpOp k, 0x16, 0, f)
  | .cvt c d s r f => some (cvtOp c, BitVec.ofNat 6 (8 * cvtCode d + cvtCode s), rcCode r, f)
  | .vcvtE4m3x2F32 r f => some (0x71, 0, rcCode r, f) | .vcvtE5m2x2F32 r f => some (0x71, 1, rcCode r, f)
  | .vcvtF32E4m3 f => some (0x71, 2, 0, f) | .vcvtF32E5m2 f => some (0x71, 3, 0, f)
  | .vcvtMxf4F32 r f => some (0x71, 4, rcCode r, f) | .vcvtF32Mxf4 r f => some (0x71, 5, rcCode r, f)
  | .ld z o f => some (0xC0, BitVec.ofNat 6 (msizeCode z), ordCode o, f)
  | .st z o f => some (0xC1, BitVec.ofNat 6 (msizeCode z), ordCode o, f)
  | .ldSync f => some (0xC2, 0, 0, f) | .ldTake f => some (0xC2, 1, 0, f) | .stFill f => some (0xC2, 2, 0, f)
  | .atomAdd t o f => some (0xC3, BitVec.ofNat 6 (16 * attyCode t + 0), ordCode o, f)
  | .atomMin t o f => some (0xC3, BitVec.ofNat 6 (16 * attyCode t + 1), ordCode o, f)
  | .atomMax t o f => some (0xC3, BitVec.ofNat 6 (16 * attyCode t + 2), ordCode o, f)
  | .atomAnd t o f => some (0xC3, BitVec.ofNat 6 (16 * attyCode t + 3), ordCode o, f)
  | .atomOr t o f => some (0xC3, BitVec.ofNat 6 (16 * attyCode t + 4), ordCode o, f)
  | .atomXor t o f => some (0xC3, BitVec.ofNat 6 (16 * attyCode t + 5), ordCode o, f)
  | .atomXchg t o f => some (0xC3, BitVec.ofNat 6 (16 * attyCode t + 6), ordCode o, f)
  | .atomCas t o f => some (0xC3, BitVec.ofNat 6 (16 * attyCode t + 7), ordCode o, f)
  | .atomFadd t o f => some (0xC3, BitVec.ofNat 6 (16 * fatyCode t + 8), ordCode o, f)
  | .fenceSc f => some (0xC4, 0, 0, f) | .fenceXp f => some (0xC4, 1, 0, f)
  | .pf f => some (0xC5, 0, 0, f) | .pfL2 f => some (0xC5, 1, 0, f)
  | .cinv f => some (0xC6, 0, 0, f) | .lineclr f => some (0xC6, 1, 0, f)
  | .wopen f => some (0xC7, 0, 0, f) | .wsub f => some (0xC7, 1, 0, f) | .wclose f => some (0xC7, 2, 0, f)
  | .wunsub f => some (0xC7, 3, 0, f)
  | .shflIdx f => some (0xE0, 0, 0, f) | .shflUp f => some (0xE0, 1, 0, f) | .shflDn f => some (0xE0, 2, 0, f)
  | .shflXor f => some (0xE0, 3, 0, f)
  | .voteAll f => some (0xE1, 0, 0, f) | .voteAny f => some (0xE1, 1, 0, f) | .voteUni f => some (0xE1, 2, 0, f)
  | .ballot f => some (0xE1, 3, 0, f) | .matchLanes f => some (0xE1, 4, 0, f)
  | .red o f => some (0xE2, BitVec.ofNat 6 (redCode o), 0, f)
  | .scan o f => some (0xE3, BitVec.ofNat 6 (redCode o), 0, f)
  | .scanX o f => some (0xE3, BitVec.ofNat 6 (16 + redCode o), 0, f)
  | .barArr f => some (0xE4, 0, 0, f) | .barWait f => some (0xE4, 1, 0, f) | .barSync f => some (0xE4, 2, 0, f)
  | .jarr f => some (0xE5, 0, 0, f) | .jwait f => some (0xE5, 1, 0, f)
  | .tadd f => some (0xE6, 0, 0, f) | .tmin f => some (0xE6, 1, 0, f) | .tmax f => some (0xE6, 2, 0, f)
  | .tand f => some (0xE6, 3, 0, f) | .tor f => some (0xE6, 4, 0, f) | .txchg f => some (0xE6, 5, 0, f)
  | .tcas f => some (0xE6, 6, 0, f)
  | .awaitEq o f => some (0xE7, 0, ordCode o, f) | .awaitNe o f => some (0xE7, 1, ordCode o, f)
  | .qres f => some (0xE8, 0, 0, f) | .qpub f => some (0xE8, 1, 0, f) | .qtake f => some (0xE8, 2, 0, f)
  | .mma t f => some (0xF0, BitVec.ofNat 6 (mmaCode t), 0, f)
  | .mmaClu t f => some (0xF0, BitVec.ofNat 6 (16 + mmaCode t), 0, f)
  | .accld f => some (0xF1, 0, 0, f) | .accst f => some (0xF1, 1, 0, f) | .acczero f => some (0xF1, 2, 0, f)
  | .cparm f => some (0xF2, 0, 0, f) | .cpfire f => some (0xF2, 1, 0, f) | .cpbook f => some (0xF2, 2, 0, f)
  | .cpbind f => some (0xF2, 3, 0, f) | .cpdisarm f => some (0xF2, 4, 0, f)
  | .spawn f => some (0xF3, 0, 0, f)
  | .alaunch f => some (0xF4, 0, 0, f) | .asplice f => some (0xF4, 1, 0, f) | .xred f => some (0xF4, 2, 0, f)
  | .bnkop f => some (0xF5, 0, 0, f)
  | .feLaneComplete _ _ | .windowUpdate _ _ _ | .wcbDrain _ _ _ | .rendezvousComplete _ _ | .barPhaseComplete _ _
  | .waitReread _ _ | .copyFire _ _ | .copyComplete _ _ | .spawnPush _ _ | .xredContribution _ | .xredTimeout _ _
  | .bankRun _ | .bankNop _ | .bankCopy _ _ _ _ | .bankAnd _ _ _ _ _ | .bankOr _ _ _ _ _ | .bankXor _ _ _ _ _
  | .bankAndn _ _ _ _ _ | .bankNot _ _ _ _ | .bankAdd _ _ _ _ _ | .bankSub _ _ _ _ _ | .bankSetc _ _ _ _
  | .bankLt _ _ _ _ _ | .bankMac8 _ _ _ _ | .bankCvtf _ _ _ _ | .bankXpose _ _ _ | .bankCombine _
  | .peFire _ _ | .steer _ _ | .carry _ _ | .invariant _ _ | .merge _ _ | .routeHop _ _ _ | .readPortEmit _ _
  | .copyFedWord _ _ | .storePortConsume _ _ | .weightLoad _ _ | .mvStep _ _ | .gateToken _ _ | .trickBoundary _ _
  | .planeChange _ _ _ | .spliceReconfig _ _ _ _ | .markerInject _ _ | .markerForward _ _ | .waveCommit _ _ _
  | .markerStall _ _ _ | .rollback _ _ _ | .arrayUe _ _ _ | .preempt _ _ _ | .save _ _ _ | .restore _ _ _
  | .resume _ _ _ | .stop _ _ _ | .configFieldWrite _ _ _ | .failedRowWrite _ _ _ | .parkRotation _ | .meld _ _ _
  | .waveBoost _ | .yieldExpire _ | .waitExpire _ _ | .teamRetire _ | .wdog _ | .handlerFreeze _ _
  | .translationWalk _ _ _ | .faultRecord _ | .replay _ _ _ _ | .deliver _ _ _ _ _ | .killCmd _ _ _ _ | .killtree _ _
  | .fqheadWrite _ _ | .sqTakeEntry _ _ | .placeTeam _ | .placementStarvation _ | .compaction _ | .takeHand _
  | .steal _ | .kittyTake _ | .heldArrival _ _ | .scaleupMessage _ _ _ _ | .heartbeatSend | .heartbeat _ _
  | .heartbeatMiss _ _ | .fence _ _ | .dead _ _ | .recmaxExpire _ _ | .readmit _ _ _ | .assign _ _ _ | .leave _
  | .scrub _ _ | .linkPort _ _ | .linkLane _ _ | .hostAccess _ _ _ _ | .hostRelease _ _ _ | .coldReset | .warmReset
  | .dramReady | .bootpc _ _ | .sysroot _ _ | .run _ _ | .sqd _ _ _ | .telemetrySample _ _ _ _ _ | .drain _ _
  | .undrain _ _ | .measure _ _ | .measureDone _ _ | .setv _ _ _ | .setvDone _ | .retire _ _ | .unretire _ _
  | .arrayReset _ | .clrcnt _ | .registerWrite _ _ _ | .predicateTrue _ _ | .arrayCommandDone _ _
  | .replicaInstall _ _ _ => none

/-- The primary word of R164. -/
def packWord (op : W8) (fn : BitVec 6) (md : BitVec 3) (f : F) : W64 :=
  (op ++ BitVec.ofBool f.x ++ dfileCode f.d.file ++ f.d.num ++ sfileCode f.a.file ++ f.a.num ++ sfileCode f.b.file ++
    f.b.num ++ f.g ++ BitVec.ofBool f.gn ++ BitVec.ofBool f.ru ++ fn ++ md ++ f.imm8 : BitVec 64)

/-- The extension word of R165. -/
def packExt (f : F) : W64 :=
  (f.imm32 ++ sfileCode f.c.file ++ f.c.num ++ f.sc ++ f.rnd ++ (0 : BitVec 10) : BitVec 64)

/-- The primary word of an encoded instruction and, with X = 1, its extension word. -/
def encode (i : Instr) : Option (W64 × Option W64) :=
  match head i with
  | none => none
  | some (op, fn, md, f) => some (packWord op fn md f, if f.x then some (packExt f) else none)

/-- The bytes of an encoded instruction in memory order (R6). -/
def encodeBytes (i : Instr) : Option (List W8) :=
  match encode i with
  | none => none
  | some (w, none) => some (toBytes 8 w.toNat)
  | some (w, some e) => some (toBytes 8 w.toNat ++ toBytes 8 e.toNat)

end Sys2Proof
end

