-- ==== Sys2Proof/Machine/Fetch.lean ====
section
/-! DEFINITION. Instruction fetch and decoding for the issuing split (R163, R174, R202, R472). -/
namespace Sys2Proof.Machine

/-- What a fetch of one word gives. -/
inductive Fetched where
  | word (w : W64)
  | fault (fi : Fi)
  /-- The home is RECOVERING, or a line is reserved: the fetch waits (R434, R436). -/
  | wait (why : Stall)
  deriving DecidableEq, Repr

/-- Fetches one word: from the instruction cache or from memory, and where the two differ the core may take either until
`l1inv` (R202, log entry 3). -/
def State.fetchWord (s : State) (g tag : Nat) (sup : Bool) (va : W64) : State × Fetched :=
  if va.toNat % 8 ≠ 0 then (s, .fault { code := .misalign, addr := va, kind := .fetch })
  else
  let r := s.translate (dieOf g) (some g) tag sup .fetch va
  match r.2 with
  | .prot => (r.1, .fault { code := .prot, addr := va, kind := .fetch })
  | .page _ acc => (r.1, .fault { code := .page, kind := .fetch, pages := [(0, va, acc)] })
  | .hold l => (r.1, .wait (.reserved l))
  | .ok k =>
    let s := r.1
    match s.shut (dieOf g) (lineOf k) with
    | some why => (s, .wait why)
    | none =>
    if s.poisoned (lineOf k) then (s, .fault { code := .poison, addr := va, kind := .fetch, pa := keyPa k })
    else
      let read :=
        let new := BitVec.ofNat 64 (s.homeNat k 8)
        match (s.core g).icache.fetch k with
        | some old =>
          if old = new then (s, Fetched.word new)
          else
            let w := if Config.icacheOld s.free then old else new
            ((s.tick.updCore g fun c => { c with icache := c.icache.ins k w }), .word w)
        | none => (s.updCore g fun c => { c with icache := c.icache.ins k new }, .word new)
      match homeOf k with
      | .here => read
      | .host => if s.hostUp (dieOf g) then read else (s, .fault { code := .remdead, addr := va, kind := .fetch })
      | .member m =>
        match s.member (dieOf g) m with
        | .alive => read
        | .recovering => (s, .wait (.member m))
        | _ => (s, .fault { code := .remdead, addr := va, kind := .fetch, inc := s.incAt (dieOf g) k })

/-- What a fetch and decoding of the instruction at a PC gives: the instruction, or the fault (R163, R174, R202). -/
inductive Got where
  | instr (i : Instr)
  | fault (fi : Fi)
  | wait (why : Stall)
  deriving DecidableEq, Repr

/-- Decodes a primary word and the extension word that follows it when X = 1. -/
def gotOf (w e : W64) : Got :=
  match decodeWords w e with
  | .ok i => .instr i
  | .error _ => .fault { code := .illop }

/-- Fetches and decodes the instruction at a PC. DESIGN CHOICE, log entry 45: a fault in the fetch of the extension word goes before an
ILLOP that the primary word would raise by itself. -/
def State.fetchInstr (s : State) (wk : Nat) (w : Wave) (pc : W64) : State × Got :=
  let g := wk / 64
  let r := s.fetchWord g w.tag w.supervisor pc
  match r.2 with
  | .fault fi => (r.1, .fault fi)
  | .wait why => (r.1, .wait why)
  | .word p =>
    if wordX p then
      let r2 := r.1.fetchWord g w.tag w.supervisor (pc + 8)
      match r2.2 with
      | .fault fi => (r2.1, .fault fi)
      | .wait why => (r2.1, .wait why)
      | .word e => (r2.1, gotOf p e)
    else (r.1, gotOf p 0)

end Sys2Proof.Machine
end

