-- ==== Sys2Proof/Machine/Sched.lean ====
section
/-! DEFINITION. Who moves next (R16, R52, R63 to R65, R468; log entry 1): the turns of one cc and the bookkeeping of an issue
(R48, R64, R204, R205). -/
namespace Sys2Proof.Machine

/-- Every wave of a context on a core is outside a handler, or frozen in one (R68). -/
def State.mayLeave (s : State) (g tag : Nat) : Bool := (s.coreWaves g).all fun p => p.2.tag != tag || p.2.hnd.isNone || p.2.frozen

/-- A save of the context whose request came to its core earlier than another still waits (R214): in one cc the wave of the lower
core and slot asks first. -/
def State.savedBefore (s : State) (wk : Nat) (a : SaveAsk) : Bool :=
  s.waves.any fun p => p.1 != wk && p.2.ex.splits.any fun q =>
    q.2.ask.any fun b => b.core == a.core && b.tag == a.tag && (b.arrived < a.arrived || (b.arrived == a.arrived && p.1 < wk))

/-- A split waits at a context form (R214). -/
def Split.switching (p : Split) : Bool := p.stall != .none && match p.form with | some (.ctxsave _) | some (.ctxload _) => true | _ => false

/-- A split of the wave waits to save or load a context: the whole wave stalls (R214). -/
def Wave.saving (w : Wave) : Bool := w.ex.splits.any fun p => p.2.switching

/-- What a split waits for is there, so that it may issue its form (R55, R299, R436, R129, R214). -/
def State.stallOver (s : State) (wk : Nat) (w : Wave) (sp : Split) : Bool :=
  match sp.stall with
  | .none => true
  | .records => w.ex.rdv.length < 8
  | .queue q => match (s.die (dieOf (wk / 64))).queues.fetch q with | some x => x.tokens.length < 256 | none => true
  | .disarm t all =>
    let d := s.die (dieOf (wk / 64))
    match d.tpls.fetch t with
    | some x => x.firing.isNone && !(all && d.queues.any fun (q : Nat × Queue) => q.2.bound == some t && !q.2.tokens.isEmpty)
    | none => true
  | .member m => s.member (dieOf (wk / 64)) m != .recovering
  | .reserved l => !s.isReserved l
  | .cluBusy => match s.teams.fetch w.team with | some t => t.clu.isNone | none => true
  | .replica o off =>
    match s.teams.fetch w.team with | some t => t.replicas.all fun r => r.installed || r.owner != o || r.offset != off | none => true
  | .owner n => (s.kept.fetch n).isNone
  | .context g tag => s.mayLeave g tag && !sp.ask.any (s.savedBefore wk)
  | .earlier => !w.older sp.born
  | .bar _ | .word _ | .fullEmpty | .kitty | .cluster => false

/-- A split can issue (R63, R205). -/
def State.splitReady (s : State) (wk : Nat) (w : Wave) (sp : Split) : Bool :=
  (sp.waitTo = 0 || sp.waitTo < s.cc) && s.stallOver wk w sp
    && (!w.saving || sp.switching)

/-- A wave is ready: at least one of its splits can issue (R63, R204, R400, R407). -/
def State.waveReady (s : State) (wk : Nat) (w : Wave) : Bool :=
  !w.halted && (w.movingTo = 0 || w.movingTo < (s.die (dieOf (wk / 64))).ucc) && (w.yieldTo = 0 || w.yieldTo < s.cc)
    && w.ex.splits.any fun p => s.splitReady wk w p.2

/-- A cc in which the user cores of a die issue nothing (R468). -/
def Die.idle (d : Die) (cc : Nat) : Bool := let n := bits d.thr 0 4; 8 - n ≤ cc % 8

/-- A core may issue in this cc. -/
def State.coreRuns (s : State) (g : Nat) : Bool := 320 ≤ g || !(s.die (dieOf g)).idle s.cc

/-- Issue priority: 7 in a handler (R63, R65). -/
def Wave.prioNow (w : Wave) : Nat := if w.hnd.isSome then 7 else w.prio

/-- The slot that follows another in a circle, among a list in ascending order (R63). -/
def after (last : Nat) (ls : List (Nat × Wave)) : Option (Nat × Wave) :=
  match ls.find? fun p => last ≤ p.1 % 64 with
  | some p => some p
  | none => ls.head?

/-- The wave that a quadrant selects among its ready waves (R63, R64, R65). -/
def State.pick (s : State) (g q : Nat) (ready : List (Nat × Wave)) : Option (Nat × Wave) :=
  let at7 := ready.filter fun p => p.2.prioNow == 7
  match at7 with
  | _ :: _ => after (FMap.at' 0 (s.core g).rr (8 * q + 7)) at7
  | [] =>
    match ready.find? fun p => p.2.boosted with
    | some p => some p
    | none =>
      let top := ready.foldl (fun n p => max n p.2.prioNow) 0
      after (FMap.at' 0 (s.core g).rr (8 * q + top)) (ready.filter fun p => p.2.prioNow == top)

/-- The splits of a wave in the order of their lowest lanes (R246). -/
def Wave.byLane (w : Wave) : List (Nat × Split) := sortBy (fun a b => decide (lowLane a.2.mask ≤ lowLane b.2.mask)) w.ex.splits

/-- The split of a wave that issues: of those whose access has waited for an answer and can have it now the one that holds the lowest
lane, so that it takes its trap where several fault (R246); else the ready split that follows the one that issued last (R52). -/
def State.pickSplit (s : State) (wk : Nat) (w : Wave) : Option Nat :=
  match w.byLane.find? fun p => p.2.unfinished && s.splitReady wk w p.2 with
  | some p => some p.1
  | none =>
    ((List.range 4).map fun i => (w.lastSplit + 1 + i) % 4).find? fun e =>
      match w.ex.splits.fetch e with
      | some sp => s.splitReady wk w sp
      | none => false

/-- The splits of a wave whose full/empty form waits, each with the turn that looks at its words again (R126). -/
def feTurns (wk : Nat) (w : Wave) : List Turn :=
  if w.halted then []
  else (w.ex.splits.filter fun (p : Nat × Split) => p.2.stall == .fullEmpty).map fun p => .event (.feLaneComplete ⟨wk / 64, wk % 64⟩ p.1)

/-- The turns of one core in this cc, in ascending slot order (R16, R81, R126): the waiting full/empty forms, and the issues. -/
def State.coreTurns (s : State) (g : Nat) : List Turn :=
  let ws := s.coreWaves g
  let ready := if s.coreRuns g then ws.filter fun p => s.waveReady p.1 p.2 else []
  let picks := (List.range 4).filterMap fun q => s.pick g q (ready.filter fun p => p.1 % 4 == q)
  ws.flatMap fun p => feTurns p.1 p.2 ++
    (if picks.any fun q => q.1 == p.1 then ((s.pickSplit p.1 p.2).map fun e => Turn.issue g (p.1 % 64) e).toList else [])

/-- The cores that hold a wave. -/
def State.busyCores (s : State) : List Nat := (s.waves.map fun p => p.1 / 64).dedup

/-- The books of an issue by a wave: its quadrant's round-robin positions, its own split order, the boost, and the wake of the waves
of its quadrant that have yielded (R52, R63, R64, R204). A form that was issued before and stalled is no issue to the watchdog
(R423). -/
def State.bookIssue (s : State) (g slot e : Nat) (w : Wave) : State :=
  let s := s.updCore g fun c => { c with rr := c.rr.ins (8 * (slot % 4) + w.prioNow) (slot + 1) }
  let again := (w.ex.splits.fetch e).any fun sp => sp.stall != .none
  let s := s.setWave (wkey g slot) { w with lastSplit := e, readyFor := 0, boosted := false, issuedWin := w.issuedWin || !again }
  { s with waves := s.waves.map fun p =>
      if p.1 / 64 == g && p.1 % 4 == slot % 4 && p.1 != wkey g slot && s.cc < p.2.yieldTo
      then (p.1, { p.2 with yieldTo := s.cc }) else p }

/-- What comes after an issue outside a handler: WDOG := WLIM (R423). -/
def State.afterIssue (s : State) (wk : Nat) (keeps : Bool) : State :=
  if keeps then s else s.updWave wk fun w => { w with wdog := w.wlim }

/-- A wave's state at an instruction boundary is sound (R45, R74). -/
def Wave.sound (w : Wave) : Bool :=
  w.ex.wellFormed w.liveHere
    && (!w.ex.conv || (w.ex.splits.length == 1 && w.ex.parked.isEmpty && w.ex.rdv.all fun r => r.waiting == 0))

/-- Prepares an issue by a split: nothing when it is no longer ready, SPLITX when the boundary is broken (R45), a fetch fault
(R202), or the instruction to run. -/
def State.prepare (s : State) (g slot e : Nat) : State × Option Instr :=
  let wk := wkey g slot
  match s.waves.fetch wk with
  | none => (s, none)
  | some w =>
    match w.ex.splits.fetch e with
    | none => (s, none)
    | some sp =>
      if !(s.waveReady wk w && s.splitReady wk w sp) then (s, none)
      else if !w.sound then (s.raiseAt wk sp.mask sp.pc sp.pc { code := .splitx }, none)
      else
        let s := { s.bookIssue g slot e w with cur := ⟨g, slot, e⟩ }
        let r := s.fetchInstr wk w sp.pc
        match r.2 with
        | .instr i => (r.1, some i)
        | .fault fi => (r.1.raiseAt wk sp.mask sp.pc sp.pc fi, none)
        | .wait why =>
          (r.1.updWave wk fun w => { w with ex := { w.ex with splits := w.ex.splits.upd e fun p => { p with stall := why } } }, none)

/-- The turn issues a `ctxsave`. -/
def State.savesNext (s : State) : Turn → Bool
  | .issue g slot e => match (s.prepare g slot e).2 with | some (.ctxsave _) => true | _ => false
  | _ => false

/-- The turns of the copy engines (R300, R302). What they deliver comes after the accesses and the arrivals of the waves in one cc
(R126, R275). -/
def State.copyTurns (s : State) : List Turn :=
  s.dies.flatMap fun (p : Nat × Die) => (p.2.tpls.filter fun (q : Nat × Tpl) => q.2.armed || q.2.firing.isSome).flatMap fun q =>
    [.event (.copyFire p.1 q.1), .event (.copyComplete p.1 q.1)]

/-- All the turns of the cores in this cc, then those of the copy engines. A `ctxsave` comes after the commands of the same cc
(R415). -/
def State.issueTurns (s : State) : List Turn :=
  let ts := s.busyCores.flatMap s.coreTurns
  ts.filter (fun t => !s.savesNext t) ++ s.copyTurns ++ ts.filter s.savesNext

end Sys2Proof.Machine
end

