-- ==== Sys2Proof/Machine/Lanes.lean ====
section
/-! DEFINITION. What the cross-lane forms compute over a set of lanes when their record completes (R158, R269 to R272). The
issuing context stands for the group: its split's mask is the set of participants. -/
namespace Sys2Proof.Machine

/-- The participants of a completing group. -/
def Ctx.parts (x : Ctx) : W32 := x.sp.mask

/-- Bits [31:0] of source A at a lane. -/
def Ctx.low (x : Ctx) (o : Src) (l : Nat) : W32 := (x.src false false o l).truncate 32

/-- A shuffle: the lane that each lane names, by its lane number and its count (R270). -/
def State.shuffle (s : State) (x : Ctx) (pick : Nat → Nat → Option Nat) : State :=
  s.writeV x false x.parts fun l =>
    match pick l (x.low x.f.b l).toNat with
    | some j => if bit x.parts j then (x.low x.f.a j).zeroExtend 64 else (x.low x.f.a l).zeroExtend 64
    | none => (x.low x.f.a l).zeroExtend 64

def pickIdx (_ c : Nat) : Option Nat := some (c % 32)
def pickUp (l c : Nat) : Option Nat := if l < c then none else some (l - c)
def pickDn (l c : Nat) : Option Nat := if 31 < l + c then none else some (l + c)
def pickXor (l c : Nat) : Option Nat := some (l ^^^ (c % 32))

/-- The predicate of the votes (R270). -/
def Ctx.pred (x : Ctx) (l : Nat) : Bool :=
  match x.f.a.file with
  | .k => bit (x.k x.f.a.num.toNat) l
  | .v => x.low x.f.a l != 0
  | _ => x.src false false x.f.a l != 0

/-- A vote: one bit for every participant (R270). -/
def State.vote (s : State) (x : Ctx) (b : Nat → Bool) : State := s.writeK x x.parts (maskWhere b)

/-- A value for the s destination, or for every participant of the v destination. -/
def State.toAll (s : State) (x : Ctx) (pair : Bool) (sv vv : W64) : State :=
  match x.f.d.file with
  | .s => s.writeS x sv
  | _ => s.writeV x pair x.parts fun _ => vv

/-- `ballot` (R270). -/
def State.ballotAt (s : State) (x : Ctx) : State :=
  let m := maskWhere fun l => bit x.parts l && x.pred l
  s.toAll x false (m.zeroExtend 64) (m.zeroExtend 64)

/-- Whether all participants hold one value (R270). -/
def Ctx.uni (x : Ctx) : Bool := (lanesOf x.parts).all fun l => x.low x.f.a l == x.low x.f.a (lowLane x.parts)

/-- Whether some other participant holds the same value (R270). -/
def Ctx.matched (x : Ctx) (l : Nat) : Bool := (lanesOf x.parts).any fun j => j != l && x.low x.f.a j == x.low x.f.a l

/-! ### Reductions and scans (R158, R271, R272) -/

def redFloat : RedOp → Bool | .addF32 | .minF32 | .maxF32 => true | _ => false
def redWide : RedOp → Bool | .addI64 => true | _ => false

/-- empty(op) of R158. -/
def redUnit : RedOp → W64
  | .addI32 | .addI64 | .addF32 => 0
  | .minI32 => 0x7FFFFFFF | .maxI32 => 0x80000000
  | .minU32 => 0xFFFFFFFF | .maxU32 => 0
  | .minF32 => 0x7F800000 | .maxF32 => 0xFF800000
  | .and => 0xFFFFFFFF | .or | .xor => 0

/-- A step operand of a floating chain: FTZ (R148), then a NaN becomes canonical and a signalling one sets FPX (R158). -/
def chainIn (ftz : Bool) (b : W64) : W64 × Option Flag :=
  let v := flushIn .f32 ftz (valueOf .f32 b.toNat)
  let r := roundFp .f32 .rne 0 ftz false v
  (BitVec.ofNat 64 r.1, r.2)

/-- op(s, x) of R158. -/
def redStep (op : RedOp) (ftz : Bool) (a b : W64) : W64 × Option Flag :=
  let a32 : W32 := a.truncate 32
  let b32 : W32 := b.truncate 32
  let val := fun (w : W64) => flushIn .f32 ftz (valueOf .f32 w.toNat)
  let fl := fun (r : Nat × Option Flag) => (BitVec.ofNat 64 r.1, r.2)
  match op with
  | .addI32 => ((a32 + b32).zeroExtend 64, none)
  | .addI64 => (a + b, none)
  | .addF32 => fl (roundOp .f32 .rne 0 ftz (fvAdd (val a) (val b) .rne))
  | .minI32 => ((if a32.toInt ≤ b32.toInt then a32 else b32).zeroExtend 64, none)
  | .minU32 => ((if a32.toNat ≤ b32.toNat then a32 else b32).zeroExtend 64, none)
  | .maxI32 => ((if a32.toInt ≤ b32.toInt then b32 else a32).zeroExtend 64, none)
  | .maxU32 => ((if a32.toNat ≤ b32.toNat then b32 else a32).zeroExtend 64, none)
  | .minF32 => fl (roundOp .f32 .rne 0 ftz (fvMin (val a) (val b)))
  | .maxF32 => fl (roundOp .f32 .rne 0 ftz (fvMax (val a) (val b)))
  | .and => ((a32 &&& b32).zeroExtend 64, none)
  | .or => ((a32 ||| b32).zeroExtend 64, none)
  | .xor => ((a32 ^^^ b32).zeroExtend 64, none)

/-- scan_chain of R158 from a value on: each lane with its exclusive and inclusive result, and whether a flag was met. -/
def chainFrom (op : RedOp) (ftz : Bool) (val : Nat → W64) : List Nat → W64 → List (Nat × W64 × W64) × Bool
  | [], _ => ([], false)
  | l :: ls, a =>
    let r := redStep op ftz a (val l)
    let rest := chainFrom op ftz val ls r.1
    ((l, a, r.1) :: rest.1, r.2.isSome || rest.2)

/-- scan_chain of R158 over some lanes. -/
def scanChain (op : RedOp) (ftz : Bool) (ls : List Nat) (val : Nat → W64) : List (Nat × W64 × W64) × Bool :=
  match ls with
  | [] => ([], false)
  | l :: rest =>
    let f : W64 × Option Flag := if redFloat op then chainIn ftz (val l) else (val l, none)
    let r := chainFrom op ftz val rest f.1
    ((l, redUnit op, f.1) :: r.1, f.2.isSome || r.2)

/-- The chain of a form over its participants. -/
def Ctx.chain (x : Ctx) (op : RedOp) : List (Nat × W64 × W64) × Bool :=
  scanChain op x.w.ftz (lanesOf x.parts) fun l => if redWide op then x.src false true x.f.a l else (x.low x.f.a l).zeroExtend 64

/-- A reduction result in an s register (R271). -/
def redIntoS (op : RedOp) (v : W64) : W64 :=
  match op with
  | .addI32 | .minI32 | .maxI32 => sext64 (v.truncate 32)
  | _ => v

/-- `red` (R271). -/
def State.reduceAt (s : State) (x : Ctx) (op : RedOp) : State :=
  let c := x.chain op
  let v := ((c.1.getLast?).map fun q => q.2.2).getD 0
  (s.toAll x (redWide op) (redIntoS op v) v).flag x .fpx c.2

/-- `scan` and `scan.x` (R271). -/
def State.scanAt (s : State) (x : Ctx) (op : RedOp) (excl : Bool) : State :=
  let c := x.chain op
  let v := fun l => match c.1.find? fun q => q.1 == l with | some q => if excl then q.2.1 else q.2.2 | none => 0
  (s.writeV x (redWide op) x.parts v).flag x .fpx c.2

end Sys2Proof.Machine
end

