-- ==== Sys2Proof/Machine/Matrix.lean ====
section
/-! DEFINITION. The matrix engine and the accumulator forms (R83, R88, R152, R153, R289 to R295). -/
namespace Sys2Proof.Machine

/-- Elements of K of a format (R289). -/
def mmaK : MmaFmt → Nat
  | .bf16 | .f16 => 32 | .e4m3 | .e5m2 | .i8 => 64 | .mxf4 => 128

/-- A registers of a format after the first (R289). -/
def mmaLast : MmaFmt → Nat
  | .mxf4 => 16 | _ => 15

/-- Bytes of the tile B (R289). -/
def mmaTile : MmaFmt → Nat
  | .mxf4 => 2176 | _ => 2048

/-- The tag that ACCOWN names for a slot (R88). -/
def Core.owner (c : Core) (n : Nat) : Nat := bits c.accown (8 * n) 8
def Core.setOwner (c : Core) (n tag : Nat) : Core :=
  { c with accown := (c.accown &&& ~~~(BitVec.ofNat 64 (0xFF * 2 ^ (8 * n)))) ||| BitVec.ofNat 64 (tag * 2 ^ (8 * n)) }

/-- The slots of a list that another context than a wave's owns, as a mask (R88, R409). -/
def Core.taken (c : Core) (w : Wave) (ns : List Nat) : Nat :=
  if w.supervisor then 0 else (ns.filter fun n => c.owner n != 0 && c.owner n != w.tag).foldl (fun m n => m + 2 ^ n) 0

/-- Claims the free slots of a list for a wave's context (R88). -/
def Core.claim (c : Core) (w : Wave) (ns : List Nat) : Core :=
  if w.supervisor then c else ns.foldl (fun c n => if c.owner n = 0 then c.setOwner n w.tag else c) c

def State.slotsTaken (s : State) (x : Ctx) (ns : List Nat) : Nat := (s.core x.core).taken x.w ns
def State.claimSlots (s : State) (x : Ctx) (ns : List Nat) : State := s.updCore x.core fun c => c.claim x.w ns

/-- Some row of a slot holds an uncorrectable error (R89, R92). -/
def Core.slotBad (c : Core) (n : Nat) : Bool := (List.range 32).any fun i => FMap.at' false c.accpois (32 * n + i)

/-- A read of whole slots: the errors of their rows that can be corrected are corrected and counted (R91). -/
def State.correctSlots (s : State) (g : Nat) (ns : List Nat) : State :=
  let fixed := (s.core g).accpois.filter fun p => !p.2 && ns.contains (p.1 / 32)
  if fixed.isEmpty then s
  else (s.updCore g fun c => { c with accpois := c.accpois.filter fun p => p.2 || !ns.contains (p.1 / 32) }).countCe g fixed.length

/-- A row or column of 64 bytes, with four scale bytes under `.mxf4` behind them (R289). -/
abbrev Frag := List W8

/-- Row i of A (R289, R290): the registers at lane i when the lane is live, else zeros with scales of 1. -/
def Ctx.aRow (x : Ctx) (t : MmaFmt) (i : Nat) : Frag :=
  if bit x.w.live i then
    (List.range (mmaLast t + 1)).flatMap fun q => toBytes 4 (x.w.vreg (x.f.a.num.toNat + q) i).toNat
  else List.replicate 64 0 ++ (if t = .mxf4 then List.replicate 4 0x7F else [])

/-- Column j of the tile at an offset of the team's memory (R289). -/
def Team.bCol (tm : Team) (t : MmaFmt) (o j : Nat) : Frag :=
  tm.bytes (o + 64 * j) 64 ++ (if t = .mxf4 then tm.bytes (o + 2048 + 4 * j) 4 else [])

/-- The value of element k of a row or column (R142, R289). -/
def fragVal (t : MmaFmt) (r : Frag) (k : Nat) : Fv :=
  match t with
  | .bf16 => valueOf .bf16 (field r (2 * k) 2)
  | .f16 => valueOf .f16 (field r (2 * k) 2)
  | .e4m3 => valueOf .e4m3 (field r k 1)
  | .e5m2 => valueOf .e5m2 (field r k 1)
  | .i8 => .ofInt (sextNat 8 (field r k 1))
  | .mxf4 =>
    let sc := field r (64 + k / 32) 1
    if sc = 0xFF then .nan false
    else match valueOf .e2m1 (field r (k / 2) 1 / 16 ^ (k % 2) % 16) with
      | .fin n m e => .fin n m (e + sc - 127)
      | v => v

/-- mma_group over all groups of one element, ascending (R152, R153). -/
def mmaElem (t : MmaFmt) (a b : Frag) (acc : W32) : W32 :=
  match t with
  | .i8 =>
    let p := (List.range 64).foldl (fun (n : Int) k => n + sextNat 8 (field a k 1) * sextNat 8 (field b k 1)) 0
    acc + BitVec.ofInt 32 p
  | _ =>
    (List.range (mmaK t / 32)).foldl (fun (v : W32) g =>
      let ps := (List.range 32).map fun i => (fragVal t a (32 * g + i), fragVal t b (32 * g + i))
      BitVec.ofNat 32 (addF32 v.toNat (groupF32 ps))) acc

/-- Key of element (i, j) of a slot. -/
def accKey (n i j : Nat) : Nat := 1024 * n + 32 * i + j

/-- Adds one tile product into a slot (R290). -/
def Core.multiply (c : Core) (n : Nat) (t : MmaFmt) (arow bcol : List Frag) : Core :=
  { c with acc := (List.range 32).foldl (fun m i => (List.range 32).foldl (fun m j =>
      FMap.put 0 m (accKey n i j) (mmaElem t (arow.getD i []) (bcol.getD j []) (FMap.at' 0 c.acc (accKey n i j)))) m) c.acc }

/-- The registers that a `mma` reads (R289, R290). -/
def Ctx.mmaReads (x : Ctx) (t : MmaFmt) : List Src :=
  x.f.b :: (List.range (mmaLast t + 1)).map fun q => ⟨.v, x.f.a.num + BitVec.ofNat 8 q⟩

/-- The reads of a `mma`, with their corrections (R91), unless the slots are another context's; and the first fault at its
completion, or the offset of its tile: ACCFIRST, ECCU, MISALIGN, PROT (R288, R290). -/
def State.mmaCheck (s : State) (x : Ctx) (t : MmaFmt) (ns : List Nat) : State × (Fi ⊕ Nat) :=
  let taken := s.slotsTaken x ns
  let b := x.w.sreg x.f.b.num.toNat
  if taken ≠ 0 then (s, .inl { code := .accfirst, sub := taken })
  else
    let bad := ((x.mmaReads t).any fun r => x.errorOf r == some true) || ns.any (s.core x.core).slotBad
    ((s.correct x (x.mmaReads t)).correctSlots x.core ns,
      if bad then .inl { code := .eccu }
      else if b.toNat % 128 ≠ 0 then .inl { code := .misalign, addr := b, kind := .load }
      else match x.teamOff b (mmaTile t) with
        | none => .inl { code := .prot, addr := b, kind := .load }
        | some o => .inr o)

/-- The columns of the tile of a team. -/
def Ctx.bCols (x : Ctx) (t : MmaFmt) (o : Nat) : List Frag :=
  match x.tm with | some tm => (List.range 32).map fun j => tm.bCol t o j | none => []

/-- The rows of A. -/
def Ctx.aRows (x : Ctx) (t : MmaFmt) : List Frag := (List.range 32).map fun i => x.aRow t i

/-- `mma` when its record completes (R290). -/
def State.mmaAt (s : State) (x : Ctx) (t : MmaFmt) : State × Option Fi :=
  let n := x.f.d.num.toNat
  let r := s.mmaCheck x t [n]
  match r.2 with
  | .inl fi => (r.1, some fi)
  | .inr o => ((r.1.claimSlots x [n]).updCore x.core fun c => c.multiply n t (x.aRows t) (x.bCols t o), none)

/-! ### The cooperative form (R293) -/

/-- The resident teams of a team's cluster group. -/
def State.groupOf (s : State) (t : Team) : List (Nat × Team) := s.teams.filter fun p => p.2.grid == t.grid && p.2.group == t.group

/-- The team of a rank in a team's cluster group. -/
def State.rankOf (s : State) (t : Team) (rank : Nat) : Option (Nat × Team) := (s.groupOf t).find? fun p => p.2.rank == rank

/-- Number of the team of a rank in a team's cluster group, resident or saved (R134). -/
def State.groupTeam (s : State) (t : Team) (rank : Nat) : Option Nat :=
  match s.rankOf t rank with
  | some p => some p.1
  | none => (s.kept.find? fun p => p.2.grid == t.grid && p.2.group == t.group && p.2.teamId % p.2.groupSize == rank).map fun p => p.1

def allSlots : List Nat := List.range 8

/-- The waiting split of a participant, and its wave's key. -/
def State.partSplit (s : State) (t : Team) (c : CluPart) : Option (Nat × Nat) :=
  let wk := wkey t.core c.slot
  match s.waves.fetch wk with
  | none => none
  | some w => (w.ex.splits.find? fun p => p.2.pc == c.pc && p.2.stall == .cluster).map fun p => (wk, p.1)

/-- The eight blocks of one core (R293): its rows against the columns of ranks 0 to 7. -/
def State.coreBlocks (s : State) (g : Nat) (t : MmaFmt) (arow : List Frag) (tiles : List (List Frag)) : State :=
  s.updCore g fun c => allSlots.foldl (fun c n => c.multiply n t arow (tiles.getD n [])) c

/-- Participants of an operation take a fault: their splits stand at the form (R290, R293). -/
def State.cluFault (s : State) (ps : List ((Nat × Team) × CluPart)) (fi : (Nat × Team) × CluPart → Fi) : State :=
  ps.foldl (fun (s : State) p =>
    match s.partSplit p.1.2 p.2 with
    | none => s
    | some q =>
      match (s.waves.fetch q.1).bind fun w => w.ex.splits.fetch q.2 with
      | none => s
      | some sp =>
        (s.updWave q.1 fun w => { w with ex := { w.ex with splits := w.ex.splits.upd q.2 fun (p : Split) =>
          { p with stall := .none, form := none, born := 0 } } }).raiseAt q.1 sp.mask sp.pc sp.pc (fi p)) s

/-- The slots of a participant's core that another context owns by now (R88). -/
def State.cluTaken (s : State) (p : (Nat × Team) × CluPart) : Nat :=
  match s.waves.fetch (wkey p.1.2.core p.2.slot) with
  | some w => (s.core p.1.2.core).taken w allSlots
  | none => 0

/-- Once all 16 ranks wait with their same count, they claim their slots and compute, or all raise PROT where the formats differ
(R88, R293). A rank whose slots another context has claimed meanwhile takes ACCFIRST, one that reads an uncorrectable error in a row
takes ECCU (R92, R288), and the others wait on; the rows' correctable errors are corrected and counted (R91). -/
def State.clusterStep (s : State) (team : Nat) : State :=
  match s.teams.fetch team with
  | none => s
  | some t =>
    let gs := (List.range 16).filterMap fun r => s.rankOf t r
    let ps := gs.filterMap fun (g : Nat × Team) => (g.2.clu).map fun c => (g, c)
    let go := ps.length == 16 && ps.all fun p => p.1.2.clucnt == t.clucnt
    if !go then s
    else
      match ps with
      | [] => s
      | p0 :: _ =>
        let same := ps.all fun p => p.2.fmt == p0.2.fmt
        let tiles := (ps.filter fun p => p.1.2.rank < 8).map fun p => p.2.bcol
        let waits := ps.filterMap fun p => (s.partSplit p.1.2 p.2).map fun q => (q, p)
        let late := ps.filter fun p => s.cluTaken p != 0
        let leave := fun (s : State) (n : W32) (qs : List ((Nat × Team) × CluPart)) =>
          qs.foldl (fun (s : State) p => s.updTeam p.1.1 fun t => { t with clu := none, clucnt := t.clucnt + n }) s
        let bad := ps.filter fun p => allSlots.any (s.core p.1.2.core).slotBad
        if !late.isEmpty then (leave s 0 late).cluFault late fun p => { code := .accfirst, sub := s.cluTaken p }
        else if !bad.isEmpty then (leave s 0 bad).cluFault bad fun _ => { code := .eccu }
        else if same then
          let s := ps.foldl (fun (s : State) p => s.correctSlots p.1.2.core allSlots) s
          let s := ps.foldl (fun (s : State) p =>
            match s.waves.fetch (wkey p.1.2.core p.2.slot) with
            | some w => s.updCore p.1.2.core fun c => c.claim w allSlots
            | none => s) (leave s 1 ps)
          let s := ps.foldl (fun s p => s.coreBlocks p.1.2.core p.2.fmt p.2.arow tiles) s
          waits.foldl (fun s (q : (Nat × Nat) × (Nat × Team) × CluPart) =>
            s.updWave q.1.1 fun w => { w with ex := { w.ex with splits := w.ex.splits.upd q.1.2 fun (p : Split) =>
              { p with pc := p.pc + (match p.form with | some (.mmaClu _ f) => (if f.x then 16 else 8) | _ => 8)
                       stall := .none, form := none, born := 0 } } }) s
        else (leave s 1 ps).cluFault ps fun _ => { code := .prot, kind := .none }

/-- `mma.clu` when its record completes: its checks in the order of R288, then the rank's part waits for the others (R293). The
part of another wave of the team goes first. -/
def State.mmaCluAt (s : State) (x : Ctx) (t : MmaFmt) : State × Option Fi :=
  let r := s.mmaCheck x t allSlots
  match r.2, x.tm with
  | .inl fi, _ => (r.1, some fi)
  | .inr _, none => (r.1, some { code := .prot })
  | .inr o, some tm =>
    if !(tm.coop && tm.groupSize == 16) then (r.1, some { code := .prot })
    else if tm.clu.any fun c => c.slot != x.slot then (r.1, none)
    else (r.1.updTeam x.w.team fun u => { u with clu := some ⟨x.slot, x.sp.pc, t, x.aRows t, x.bCols t o⟩ }, none)

/-! ### Accumulator forms (R294, R295) -/

/-- Lines of a slot's image: 32 rows of 128 bytes. -/
def rowBytes (c : Core) (n i : Nat) : List W8 := (List.range 32).flatMap fun j => toBytes 4 (FMap.at' 0 c.acc (accKey n i j)).toNat

/-- Writes a slot from 4096 bytes; every row gets new check bits. -/
def Core.setSlot (c : Core) (n : Nat) (bs : List W8) : Core :=
  { c with
    acc := (List.range 1024).foldl (fun m q => FMap.put 0 m (1024 * n + q) (BitVec.ofNat 32 (field bs (4 * q) 4))) c.acc
    accpois := (List.range 32).foldl (fun m i => m.del (32 * n + i)) c.accpois }

/-- The bytes of a slot. -/
def Core.slotBytes (c : Core) (n : Nat) : List W8 := (List.range 32).flatMap fun i => rowBytes c n i

/-- A plain load of whole lines by a core: first the reach of each, then the bytes (R245, R253, R255). -/
def State.loadLines (s : State) (x : Ctx) (ks : List Nat) (va : W64) : State × Read :=
  match s.reachAll x.die ks with
  | (.hold why, _) => (s, .wait why)
  | (.poison, k) => (s, .fault { code := .poison, addr := va, kind := .load, pa := keyPa k })
  | (.dead, k) => (s, .fault { code := .remdead, addr := va, kind := .load, inc := s.incAt x.die k })
  | (.ok, _) =>
    let r := ((ks.map lineOf).dedup).foldl (fun (q : State × List W8) l =>
      let r := q.1.plainLoad x.core (128 * l) 128
      (r.1, q.2 ++ toBytes 128 r.2)) (s, [])
    (r.1, .bytes r.2)

/-- `accld` (R294). -/
def execAccld (f : F) (s : State) : Host.Outcome State Fault Refusal :=
  issueLate (.accld f) s fun x s =>
    let n := f.d.num.toNat
    let va := x.w.sreg f.a.num.toNat
    let taken := s.slotsTaken x [n]
    let put := fun (s : State) (bs : List W8) => ((s.claimSlots x [n]).updCore x.core fun c => c.setSlot n bs).advance x
    if taken ≠ 0 then s.raise x { code := .accfirst, sub := taken }
    else
    let s := s.correct x (srcWords false f.a)
    if x.srcBad false f.a then s.raise x { code := .eccu }
    else if va.toNat % 128 ≠ 0 then s.raise x { code := .misalign, addr := va, kind := .load }
    else match rowOf va with
      | .team =>
        match x.teamOff va 4096, x.tm with
        | some o, some tm => put s (tm.bytes o 4096)
        | _, _ => s.raise x { code := .prot, addr := va, kind := .load }
      | .global =>
        if 0x0100000000000000 < va.toNat + 4096 then s.raise x { code := .prot, addr := va, kind := .load }
        else
          let r := s.waveKeys x .load va 4096
          match r.2 with
          | .fault fi => r.1.raise x fi
          | .wait why => r.1.stallAt x why (.accld f)
          | .keys ks =>
            let q := r.1.loadLines x ks va
            match q.2 with
            | .bytes bs => put q.1 bs
            | .fault fi => q.1.raise x fi
            | .wait why => q.1.stallAt x why (.accld f)
      | _ => s.raise x { code := .prot, addr := va, kind := .load }

/-- `accst` (R294). -/
def execAccst (f : F) (s : State) : Host.Outcome State Fault Refusal :=
  issueLate (.accst f) s fun x s =>
    let n := f.a.num.toNat
    let va := x.w.sreg f.b.num.toNat
    let taken := s.slotsTaken x [n]
    if taken ≠ 0 then s.raise x { code := .accfirst, sub := taken }
    else
    let s := (s.correct x (srcWords false f.b)).correctSlots x.core [n]
    if x.srcBad false f.b || (s.core x.core).slotBad n then s.raise x { code := .eccu }
    else if va.toNat % 128 ≠ 0 then s.raise x { code := .misalign, addr := va, kind := .store }
    else match rowOf va with
      | .team =>
        match x.teamOff va 4096, x.tm with
        | some o, some tm =>
          if tm.windows.any fun (w : Nat × Window) => o < w.1 + 128 && w.1 < o + 4096 then
            s.raise x { code := .prot, addr := va, kind := .store }
          else
            ((s.claimSlots x [n]).updTeam x.w.team fun t => t.putBytes o ((s.core x.core).slotBytes n)).advance x
        | _, _ => s.raise x { code := .prot, addr := va, kind := .store }
      | .global =>
        if 0x0100000000000000 < va.toNat + 4096 then s.raise x { code := .prot, addr := va, kind := .store }
        else
          let r := s.waveKeys x .store va 4096
          match r.2, (match r.2 with | .keys ks => r.1.storeHeld x.key ks | _ => none) with
          | .fault fi, _ => r.1.raise x fi
          | .wait why, _ | .keys _, some why => r.1.stallAt x why (.accst f)
          | .keys ks, none =>
            let bs := (r.1.core x.core).slotBytes n
            let ls := (ks.map lineOf).dedup
            let s := ((List.range ls.length).zip ls).foldl (fun s p =>
              s.bufferStore x.key (128 * p.2) ((bs.drop (128 * p.1)).take 128)) r.1
            (s.claimSlots x [n]).advance x
      | _ => s.raise x { code := .prot, addr := va, kind := .store }

/-- `acczero` (R294). -/
def execAcczero (f : F) (s : State) : Host.Outcome State Fault Refusal :=
  issueLate (.acczero f) s fun x s =>
    let n := f.d.num.toNat
    let taken := s.slotsTaken x [n]
    if taken ≠ 0 then s.raise x { code := .accfirst, sub := taken }
    else ((s.claimSlots x [n]).updCore x.core fun c => c.setSlot n []).advance x

end Sys2Proof.Machine
end

