-- ==== Sys2Proof/Machine/Teams.lean ====
section
/-! DEFINITION. The end of a wave and of a team (R43, R57, R59, R60, R266, R274, R296): ending lanes, retirement, and the
completion of a grid. -/
namespace Sys2Proof.Machine

/-- check of R274. -/
def Bar.check (e : Bar) : Bar := if e.expect ≤ e.arr ∧ e.tx = 0 then { e with ph := e.ph + 1, arr := 0 } else e

/-- A change of TX by the bytes that an engine delivers, or by an arrival (R274). -/
def Bar.addTx (e : Bar) (n : W32) : Bar := { e with tx := e.tx + n }.check

/-- A wave of the team ends: EXPECT falls by 1 in every entry (R274). -/
def Team.waveGone (t : Team) : Team :=
  { t with bars := t.bars.map fun (p : Nat × Bar) => (p.1, { p.2 with expect := p.2.expect - 1 }.check) }

/-- The end of a wave (R59, R60): its buffer drains, and once nothing of it is left its signature joins the retirement signature, its
slot and its block return to its team, and with the last wave the team starts to drain, which frees them (R43). An entry that a
reserved line keeps from draining (R434) holds the end back: the wave stays without lanes until the entry is gone. A store that a
dead home discarded, or that a recovering home holds, poisons the team's arrival (log entry 18). -/
def State.waveEnd (s : State) (wk : Nat) : State :=
  let s := s.drainWave wk
  if (s.core (wk / 64)).wcb.any fun e => e.slot == wk % 64 then s
  else match s.waves.fetch wk with
  | none => s
  | some w =>
    let s := { s with waves := s.waves.del wk }
    match s.teams.fetch w.team with
    | none => s
    | some t =>
      let t := { t.waveGone with
        alive := t.alive - 1, vacant := t.vacant ++ [⟨wk % 64, w.voff, w.lregs⟩], rsig := t.rsig ||| w.sigacc, rfl := min t.rfl w.sigfl
        killed := t.killed || w.deadStore.isSome || !w.heldStores.isEmpty
        clu := t.clu.filter fun c => c.slot != wk % 64 }
      if 0 < t.alive then s.setTeam w.team t
      else
        let s := s.setTeam w.team { t with draining := true, vacant := [], t := [], told := [], tpois := [], tpold := [] }
        if t.children = 0 then s.soon (.teamRetire w.team) else s

/-- Waves that have lost their last lane end, once nothing holds their end back. -/
def State.endGone (s : State) : State := (s.waves.filter fun (p : Nat × Wave) => p.2.live == 0).foldl (fun (s : State) p => s.waveEnd p.1) s

/-- Drops a team's windows and replicas on every team (R266). -/
def State.dropWindows (s : State) (team : Nat) : State :=
  let s := match s.teams.fetch team with
    | some t => t.windows.foldl (fun (s : State) (w : Nat × Window) => s.applyUpdates team w.1) s
    | none => s
  let s := s.teams.foldl (fun (s : State) (p : Nat × Team) =>
    p.2.windows.foldl (fun (s : State) (w : Nat × Window) => if (w.2.subs.fetch team).isSome then s.applyUpdates p.1 w.1 else s) s) s
  { s with teams := s.teams.map fun (p : Nat × Team) =>
      (p.1, { p.2 with
        windows := if p.1 = team then [] else p.2.windows.map fun (w : Nat × Window) => (w.1, { w.2 with subs := w.2.subs.del team })
        replicas := if p.1 = team then [] else p.2.replicas.filter fun (r : Replica) => r.owner != team }) }

/-- Disarms a template as `cpdisarm` mode 1 does once no firing is under way (R296, R299). -/
def Die.freeTpl (d : Die) (n : Nat) : Die :=
  { d with tpls := d.tpls.del n
           queues := d.queues.filter fun (q : Nat × Queue) => q.2.bound != some n }

/-- The completion of a grid on a die: its templates are disarmed and its queues unbound (R296). A firing under way completes
first: the template then has no queue left and goes when the firing is done. -/
def Die.gridDone (d : Die) (grid : Nat) : Die :=
  let d := { d with queues := d.queues.filter fun (q : Nat × Queue) => q.2.grid != grid }
  let idle := (d.tpls.filter fun (p : Nat × Tpl) => p.2.grid == grid && p.2.firing.isNone).map fun (p : Nat × Tpl) => p.1
  idle.foldl Die.freeTpl d

/-- A team of a grid has retired; with the last one the grid is complete (R44),
and its images leave the decks (R351). -/
def State.gridRetire (s : State) (grid : Nat) : State :=
  match s.grids.fetch grid with
  | none => s
  | some g =>
    let g := { g with retired := g.retired + 1 }
    if g.retired < g.lr.nteams then { s with grids := s.grids.ins grid g }
    else
      let stks := s.stks.map fun (p : Nat × Stack) => (p.1, { p.2 with deck := p.2.deck.filter fun (e : DeckEnt) => e.grid != grid })
      (({ s with grids := s.grids.del grid, stks := stks }).updDie 0 fun d => d.gridDone grid).updDie 1 fun d => d.gridDone grid

/-- TEAM_RETIRE (R43): a draining team without children drops what it holds and arrives at its join barrier, with a release that
carries the signatures of its waves. -/
def execTeamRetire (team : Nat) (s : State) : Host.Outcome State Fault Refusal :=
  .next (match s.teams.fetch team with
  | none => s
  | some t =>
    if !(t.draining && t.children == 0 && t.alive == 0) then s
    else
      let s := s.dropWindows team
      let s := { s with teams := s.teams.del team }
      let s := s.arrive (dieOf t.core) 0 t.tag t.join t.jscope t.killed t.rsig t.rfl t.parent t.core
      s.gridRetire t.grid)

/-- Lanes end on a wave (R57, R207): they leave k0, the running state and the saved trap state. The completion of records and
the end of a handler come after. -/
def Wave.strip (w : Wave) (m : W32) : Wave :=
  { w with k := FMap.put 0 w.k 0 (w.live &&& ~~~m), ex := w.ex.dropLanes m, hnd := w.hnd.map fun x => x.dropLanes m }

end Sys2Proof.Machine
end

