-- ==== Sys2Proof/Machine/Rendezvous.lean ====
section
/-! DEFINITION. Rendezvous records: arrival, completion (R54 to R57, R207, R269, R472), and the forms that meet at one (R203,
R267 to R272, R290, R293). -/
namespace Sys2Proof.Machine

/-- What becomes of a group whose record is complete. -/
inductive Done where
  /-- The form has its effect and the group goes on. -/
  | through (s : State)
  | fault (s : State) (fi : Fi)
  /-- The group stands at the form and waits (R293). -/
  | hold (s : State)
  deriving DecidableEq, Repr

/-- The result of a matrix form. -/
def doneOf : State × Option Fi → (State → Done) → Done
  | (s, some fi), _ => .fault s fi
  | (s, none), f => f s

/-- The effect of a rendezvous form over a complete group; nothing for any other form (R472). -/
def State.finishForm (s : State) (x : Ctx) (i : Instr) : Option Done :=
  match i with
  | .join f => some (.through (if f.a.num = 0 then s.updWave x.key fun w => { w with ex := { w.ex with conv := true } } else s))
  | .shflIdx _ => some (.through (s.shuffle x pickIdx))
  | .shflUp _ => some (.through (s.shuffle x pickUp))
  | .shflDn _ => some (.through (s.shuffle x pickDn))
  | .shflXor _ => some (.through (s.shuffle x pickXor))
  | .voteAll _ => some (.through (s.vote x fun _ => (lanesOf x.parts).all x.pred))
  | .voteAny _ => some (.through (s.vote x fun _ => (lanesOf x.parts).any x.pred))
  | .voteUni _ => some (.through (s.vote x fun _ => x.uni))
  | .ballot _ => some (.through (s.ballotAt x))
  | .matchLanes _ => some (.through (s.vote x x.matched))
  | .red op _ => some (.through (s.reduceAt x op))
  | .scan op _ => some (.through (s.scanAt x op false))
  | .scanX op _ => some (.through (s.scanAt x op true))
  | .mma t _ => some (doneOf (s.mmaAt x t) .through)
  | .mmaClu t _ => some (doneOf (s.mmaCluAt x t) .hold)
  | _ => none

/-- A form whose registers are checked by its own completion (R290). -/
def isMatrix : Instr → Bool
  | .mma _ _ | .mmaClu _ _ => true
  | _ => false

/-- A block that is too small for the A fragment (R289). -/
def Ctx.fragOut (x : Ctx) (t : MmaFmt) : Bool := !(x.w.inBlock (x.f.a.num.toNat + mmaLast t) false)

/-- A form that meets at a record (R472). -/
def isMeeting : Instr → Bool
  | .join _ | .shflIdx _ | .shflUp _ | .shflDn _ | .shflXor _ | .voteAll _ | .voteAny _ | .voteUni _ | .ballot _ | .matchLanes _
  | .red _ _ | .scan _ _ | .scanX _ _ | .mma _ _ | .mmaClu _ _ => true
  | _ => false

/-- Completes a group with an instruction (R269, R472): ILLOP for a form that does not meet, its checks with the reads of its
registers, then its effect. -/
def State.finish (s : State) (x : Ctx) (i : Instr) : Done :=
  match Forms.spec i with
  | none => .fault s { code := .illop }
  | some (p, _) =>
    if !isMeeting i then .fault s { code := .illop }
    else
      let ill := match i with | .mma t _ | .mmaClu t _ => x.fragOut t | _ => false
      let r := x.fault p ill false (!isMatrix i)
      let s := s.correct x (x.readBy p (!isMatrix i) r)
      match r with
      | some fi => .fault s fi
      | none => (s.finishForm x i).getD (.fault s { code := .illop })

/-- Changes the execution state that runs. -/
def State.updEx (s : State) (wk : Nat) (f : ExecSt → ExecSt) : State := s.updWave wk fun w => { w with ex := f w.ex }

/-- Drops a record from the running state. -/
def State.dropRdv (s : State) (wk : Nat) (pc : W64) (m : W32) : State :=
  s.updEx wk fun e => { e with rdv := e.rdv.filter fun r => !(r.pc == pc && r.mask == m) }

/-- Marks the group's split as waiting for its cluster group, and tries the operation; or as waiting for another wave of its team
(R293). -/
def State.holdCluster (s : State) (wk : Nat) (pc : W64) (m : W32) (i : Instr) : State :=
  match s.waves.fetch wk with
  | none => s
  | some w =>
    let mine := ((s.teams.fetch w.team).bind fun t => t.clu).any fun c => c.slot == wk % 64
    let why : Stall := if mine then .cluster else .cluBusy
    let s := s.updEx wk fun e => { e with splits := e.splits.map fun (p : Nat × Split) =>
      if p.2.pc == pc && p.2.mask == m then (p.1, { p.2 with stall := why, form := some i }) else p }
    if mine then s.clusterStep w.team else s

/-- A split enters the record of its mask and completes it when it is the last to arrive (R55, R56). DESIGN CHOICE, log entry 45: with
CONV = 1 a fault at completion is raised by the whole split, its lanes outside the mask too, since the wave keeps one split (R74) where
R269 raises the participants as one group. -/
def State.enterRdv (s : State) (x : Ctx) (i : Instr) (m : W32) : State :=
  let pc := x.sp.pc
  let inn := x.sp.mask &&& m
  let out := x.sp.mask &&& ~~~m
  let had := match x.w.ex.rdv.find? fun r => r.pc == pc && r.mask == m with | some r => r.waiting | none => 0
  let wait := had ||| inn
  let s := s.dropRdv x.key pc m
  if wait = m then
    let y := { x with sp := { x.sp with mask := m } }
    match s.finish y i with
    | .through s =>
      s.updEx x.key fun e =>
        if out = 0 then ({ e with splits := e.splits.del x.entry }.place x.next m).takeParked else e.setEntry x.entry x.next (m ||| out)
    | .hold s =>
      (s.updEx x.key fun e =>
        if out = 0 then ({ e with splits := e.splits.del x.entry }.place pc m).takeParked
        else ((e.setEntry x.entry x.next out).place pc m).takeParked).holdCluster x.key pc m i
    | .fault s fi =>
      if x.conv then s.raise x fi
      else
        (s.updEx x.key fun e =>
          if out = 0 then ({ e with splits := e.splits.del x.entry }.place pc m).takeParked
          else ((e.setEntry x.entry x.next out).place pc m).takeParked).raiseAt x.key m pc pc fi
  else
    s.updEx x.key fun e =>
      let e := { e with rdv := e.rdv ++ [({ pc := pc, mask := m, waiting := wait } : Rdv)] }
      if out = 0 then { e with splits := e.splits.del x.entry }.takeParked else e.setEntry x.entry x.next out

/-- A split arrives at a rendezvous form with the mask operand (R55). In a handler the handler's lanes alone take part (R203).
DESIGN CHOICE, log entry 22: with all eight records in use the whole split stalls, its lanes outside the mask too, which step 1 of R55
lets go on; and a SPLITX of step 4 is taken by the whole split. -/
def State.meet (s : State) (x : Ctx) (i : Instr) (mask : W32) : State :=
  let m := mask &&& x.w.liveHere
  let here := x.w.ex.rdv.filter fun r => r.pc == x.sp.pc
  if m = 0 then s.advance x
  else if here.any fun r => r.mask == m then s.enterRdv x i m
  else if here.all fun r => r.mask &&& m == 0 then
    if x.w.ex.rdv.length < 8 then s.enterRdv x i m else s.stallAt x .records i
  else s.raise x { code := .splitx }

/-! ### Completion without an arrival -/

/-- Completes one full record with the instruction that stands at its PC (R472). The matrix engine of a throttled core starts no form in
an idle cc (R468): the record then stays. -/
def State.completeRdv (s : State) (wk : Nat) (r : Rdv) : State :=
  match s.waves.fetch wk with
  | none => s
  | some w =>
    let q := s.fetchInstr wk w r.pc
    let s := q.1
    let stand := fun (s : State) (fi : Fi) =>
      ((s.dropRdv wk r.pc r.mask).updEx wk fun e => (e.place r.pc r.mask).takeParked).raiseAt wk r.mask r.pc r.pc fi
    match q.2 with
    | .wait _ => s
    | .fault fi => stand s fi
    | .instr i =>
      if isMatrix i && !s.coreRuns (wk / 64) then s
      else match Forms.spec i with
      | none => stand s { code := .illop }
      | some (_, f) =>
        let x : Ctx := ⟨wk / 64, wk % 64, 0, w, { pc := r.pc, mask := r.mask }, { f with g := 0, gn := false }, s.teams.fetch w.team, s.cc⟩
        match s.finish x i with
        | .through s => (s.dropRdv wk r.pc r.mask).updEx wk fun e => e.place x.next r.mask
        | .hold s => ((s.dropRdv wk r.pc r.mask).updEx wk fun e => e.place r.pc r.mask).holdCluster wk r.pc r.mask i
        | .fault s fi => stand s fi

/-- Completes full records in ascending order of their PC while the wave runs the same state (R57). -/
def State.completeLoop (wk : Nat) (hnd : Bool) : Nat → State → State
  | 0, s => s
  | n + 1, s =>
    match s.waves.fetch wk with
    | none => s
    | some w =>
      if w.halted || w.hnd.isSome != hnd then s
      else match w.ex.fullRecord with
        | none => s
        | some r => State.completeLoop wk hnd n (s.completeRdv wk r)

/-- Completes every full record, after which parked groups take the entries still free (R47, R56). -/
def State.completeAll (s : State) (wk : Nat) : State :=
  match s.waves.fetch wk with
  | none => s
  | some w => ((State.completeLoop wk w.hnd.isSome 8 s).updEx wk fun e => e.takeParked)

/-- RENDEZVOUS_COMPLETE (R56): a record whose lanes all wait completes. -/
def execRendezvousComplete (w : WRef) (pc : W64) (s : State) : Host.Outcome State Fault Refusal :=
  .next (match s.waves.fetch (wkey w.core w.slot) with
  | none => s
  | some v =>
    match v.ex.rdv.find? fun r => r.pc == pc && r.waiting == r.mask with
    | none => s
    | some r =>
      if v.halted then s else (s.completeRdv (wkey w.core w.slot) r).updEx (wkey w.core w.slot) fun e => e.takeParked)

/-- Return from a handler: the saved state comes back, and records that lost their last missing lanes complete (R207, R210). -/
def State.returnFrom (s : State) (wk : Nat) : State := (s.updWave wk fun w => w.leaveHandler).completeAll wk

/-- Lanes of a wave end (R57, R206, R207). -/
def State.endLanes (s : State) (wk : Nat) (m : W32) : State :=
  match s.waves.fetch wk with
  | none => s
  | some w =>
    let m := m &&& w.live
    if m = 0 then s
    else
      let w' := w.strip m
      let s := s.setWave wk w'
      if w'.live = 0 then s.waveEnd wk
      else if w'.hnd.isSome && w'.liveHere == 0 then s.returnFrom wk
      else s.completeAll wk

/-! ### The forms -/

/-- The mask register that a cross-lane form names (R267). -/
def Ctx.rdvMask (x : Ctx) : W32 := x.k (bits x.f.imm8 0 3)

/-- `join` (R203). -/
def execJoin (f : F) (s : State) : Host.Outcome State Fault Refusal :=
  issueLate (.join f) s fun x s => s.meet x (.join f) (x.k f.a.num.toNat)

/-- A cross-lane form arrives at its record (R268). -/
def State.meetLanes (s : State) (x : Ctx) (i : Instr) : State := s.meet x i x.rdvMask

/-- `shfl.idx` (R270). -/
def execShflIdx (f : F) (s : State) : Host.Outcome State Fault Refusal :=
  issueLate (.shflIdx f) s fun x s => s.meetLanes x (.shflIdx f)

/-- `shfl.up` (R270). -/
def execShflUp (f : F) (s : State) : Host.Outcome State Fault Refusal :=
  issueLate (.shflUp f) s fun x s => s.meetLanes x (.shflUp f)

/-- `shfl.dn` (R270). -/
def execShflDn (f : F) (s : State) : Host.Outcome State Fault Refusal :=
  issueLate (.shflDn f) s fun x s => s.meetLanes x (.shflDn f)

/-- `shfl.xor` (R270). -/
def execShflXor (f : F) (s : State) : Host.Outcome State Fault Refusal :=
  issueLate (.shflXor f) s fun x s => s.meetLanes x (.shflXor f)

/-- `vote.all` (R270). -/
def execVoteAll (f : F) (s : State) : Host.Outcome State Fault Refusal :=
  issueLate (.voteAll f) s fun x s => s.meetLanes x (.voteAll f)

/-- `vote.any` (R270). -/
def execVoteAny (f : F) (s : State) : Host.Outcome State Fault Refusal :=
  issueLate (.voteAny f) s fun x s => s.meetLanes x (.voteAny f)

/-- `vote.uni` (R270). -/
def execVoteUni (f : F) (s : State) : Host.Outcome State Fault Refusal :=
  issueLate (.voteUni f) s fun x s => s.meetLanes x (.voteUni f)

/-- `ballot` (R270). -/
def execBallot (f : F) (s : State) : Host.Outcome State Fault Refusal :=
  issueLate (.ballot f) s fun x s => s.meetLanes x (.ballot f)

/-- `match` (R270). -/
def execMatchLanes (f : F) (s : State) : Host.Outcome State Fault Refusal :=
  issueLate (.matchLanes f) s fun x s => s.meetLanes x (.matchLanes f)

/-- `red` (R271). -/
def execRed (op : RedOp) (f : F) (s : State) : Host.Outcome State Fault Refusal :=
  issueLate (.red op f) s fun x s => s.meetLanes x (.red op f)

/-- `scan` (R271). -/
def execScan (op : RedOp) (f : F) (s : State) : Host.Outcome State Fault Refusal :=
  issueLate (.scan op f) s fun x s => s.meetLanes x (.scan op f)

/-- `scan.x` (R271). -/
def execScanX (op : RedOp) (f : F) (s : State) : Host.Outcome State Fault Refusal :=
  issueLate (.scanX op f) s fun x s => s.meetLanes x (.scanX op f)

/-- `mma`: every live lane takes part (R290). -/
def execMma (t : MmaFmt) (f : F) (s : State) : Host.Outcome State Fault Refusal :=
  issueFull (fun x => x.fragOut t) (fun _ => false) false (.mma t f) s fun x s => s.meet x (.mma t f) (x.k 0)

/-- `mma.clu` (R293). -/
def execMmaClu (t : MmaFmt) (f : F) (s : State) : Host.Outcome State Fault Refusal :=
  issueFull (fun x => x.fragOut t) (fun _ => false) false (.mmaClu t f) s fun x s => s.meet x (.mmaClu t f) (x.k 0)

end Sys2Proof.Machine
end

