-- ==== Sys2Proof/Machine/Control.lean ====
section
/-! DEFINITION. Control flow, masks, system registers and the simple supervisor forms (R46, R178, R197 to R216). -/
namespace Sys2Proof.Machine

/-- `nop` (R197). -/
def execNop (f : F) (s : State) : Host.Outcome State Fault Refusal :=
  issue (.nop f) s fun x s => s.advance x

/-! ### Branches -/

/-- Target of a relative branch (R199). -/
def Ctx.target (x : Ctx) : W64 :=
  if x.f.x then x.sp.pc + x.f.imm32.signExtend 64
  else x.sp.pc + 8 * (x.f.d.num ++ x.f.imm8 : W16).signExtend 64

/-- The lanes of the split move to the PC that each chooses (R46). -/
def State.branchTo (s : State) (x : Ctx) (next : Nat → W64) : State :=
  s.updEx x.key fun e => e.branch x.entry x.sp.mask next

/-- A relative branch for the active lanes that meet a condition (R199). -/
def State.branchIf (s : State) (x : Ctx) (cond : Nat → Bool) : State :=
  s.branchTo x fun l => if bit x.act l && cond l then x.target else x.next

/-- A condition operand at a lane is not zero (R199). -/
def Ctx.condNz (x : Ctx) (l : Nat) : Bool :=
  match x.f.a.file with
  | .k => bit (x.k x.f.a.num.toNat) l
  | _ => x.src false false x.f.a l != 0

/-- `br` (R199). -/
def execBr (f : F) (s : State) : Host.Outcome State Fault Refusal :=
  issue (.br f) s fun x s => s.branchIf x fun _ => true

/-- `br.nz` (R199). -/
def execBrNz (f : F) (s : State) : Host.Outcome State Fault Refusal :=
  issue (.brNz f) s fun x s => s.branchIf x x.condNz

/-- `br.z` (R199). -/
def execBrZ (f : F) (s : State) : Host.Outcome State Fault Refusal :=
  issue (.brZ f) s fun x s => s.branchIf x fun l => !x.condNz l

/-- Absolute target of a lane (R200). -/
def Ctx.absTarget (x : Ctx) (l : Nat) : W64 := x.src false true x.f.a l

/-- An absolute branch of the active lanes, after a change to the state; MISALIGN before anything moves (R200, R409). -/
def State.branchAbs (s : State) (x : Ctx) (link : State → State) : State :=
  let bad := maskWhere fun l => bit x.act l && (x.absTarget l).toNat % 8 != 0
  if bad ≠ 0 then s.raise x { code := .misalign, marked := some bad, addr := x.absTarget (lowLane bad) }
  else (link s).branchTo x fun l => if bit x.act l then x.absTarget l else x.next

/-- `brx` (R200). -/
def execBrx (f : F) (s : State) : Host.Outcome State Fault Refusal :=
  issue (.brx f) s fun x s => s.branchAbs x id

/-- `ret` (R200). -/
def execRet (f : F) (s : State) : Host.Outcome State Fault Refusal :=
  issue (.ret f) s fun x s => s.branchAbs x id

/-- Writes the return address of a call (R201). -/
def State.link (s : State) (x : Ctx) : State :=
  match x.f.d.file with
  | .s => s.writeS x x.next
  | _ => s.writeV x true x.act fun _ => x.next

/-- `call` (R201). -/
def execCall (f : F) (s : State) : Host.Outcome State Fault Refusal :=
  issue (.call f) s fun x s => (s.link x).branchIf x fun _ => true

/-- `call`, indirect (R201). -/
def execCallIndirect (f : F) (s : State) : Host.Outcome State Fault Refusal :=
  issue (.callIndirect f) s fun x s => s.branchAbs x fun s => s.link x

/-! ### Yield, wait, exit, kill -/

/-- `yield` (R204). -/
def execYield (f : F) (s : State) : Host.Outcome State Fault Refusal :=
  issue (.yield f) s fun x s => (s.updWave x.key fun w => { w with yieldTo := s.cc + 16 }).advance x

/-- `wait` (R205). -/
def execWait (f : F) (s : State) : Host.Outcome State Fault Refusal :=
  issue (.wait f) s fun x s =>
    let c := (x.src false false x.f.a 0).toNat % 2 ^ 32
    (s.advance x).updEx x.key fun e =>
      { e with splits := e.splits.upd x.entry fun p => { p with waitTo := if c = 0 then 0 else s.cc + c } }

/-- `exit` (R206). -/
def execExit (f : F) (s : State) : Host.Outcome State Fault Refusal :=
  issue (.exit f) s fun x s => (s.advance x).endLanes x.key x.act

/-- `kill` (R206). -/
def execKill (f : F) (s : State) : Host.Outcome State Fault Refusal :=
  issue (.kill f) s fun x s => (s.advance x).endLanes x.key (x.k x.f.a.num.toNat)

/-! ### Traps -/

/-- `trap` (R208). -/
def execTrap (f : F) (s : State) : Host.Outcome State Fault Refusal :=
  issue (.trap f) s fun x s => s.raiseAt x.key x.sp.mask x.sp.pc x.next { code := .trap, sub := x.f.imm8.toNat }

/-- `bkpt` (R209). -/
def execBkpt (f : F) (s : State) : Host.Outcome State Fault Refusal :=
  issue (.bkpt f) s fun x s => s.raise x { code := .bkpt, sub := x.f.imm8.toNat }

/-- `tret` (R210). -/
def execTret (f : F) (s : State) : Host.Outcome State Fault Refusal :=
  issueWith (fun x => x.w.hnd.isNone) (fun _ => false) (.tret f) s fun x s => s.returnFrom x.key

/-! ### System registers -/

/-- A system register that user mode may not read, or not write (R85). -/
def sysReadS (n : Nat) : Bool := n == 0x30 || n == 0x38
def sysWriteS (n : Nat) : Bool := !(n == 0x09 || n == 0x0A)

/-- The value of a system register other than LANEID (R85, R212). -/
def State.sysValue (s : State) (x : Ctx) (n : Nat) : W64 :=
  let c := s.core x.core
  let tm := fun (g : Team → Nat) => match x.tm with | some t => BitVec.ofNat 64 (g t) | none => (0 : W64)
  if n = 0x01 then BitVec.ofNat 64 x.w.waveId
  else if n = 0x02 then tm fun t => t.teamId
  else if n = 0x03 then BitVec.ofNat 64 x.core
  else if n = 0x04 then tm fun t => t.depth
  else if n = 0x05 then (if x.conv then 1 else 0)
  else if n = 0x08 then x.w.fcm.zeroExtend 64
  else if n = 0x09 then x.w.flags.zeroExtend 64
  else if n = 0x0A then x.w.fpctl.zeroExtend 64
  else if n = 0x10 then c.accown
  else if n = 0x11 then BitVec.ofNat 64 x.w.tag
  else if 0x20 ≤ n ∧ n ≤ 0x2F then BitVec.ofNat 64 (bits x.w.sigacc (64 * (n - 0x20)) 64)
  else if n = 0x30 then x.w.trapvec
  else if n = 0x31 then BitVec.ofNat 64 x.w.wdog
  else if n = 0x38 then BitVec.ofNat 64 (c.ce + 2 ^ 32 * c.ue)
  else 0

/-- A system register that belongs to the core (class C of R85). -/
def sysOfCore (n : Nat) : Bool := n == 0x10 || n == 0x38

/-- The error of a system register, as in `Wave.ypois` (R89). -/
def State.sysError (s : State) (x : Ctx) (n : Nat) : Option Bool :=
  if sysOfCore n then (s.core x.core).ypois.fetch n else x.w.ypois.fetch n

/-- A system register is written, or written back corrected: its error ends (R91, R92). -/
def State.sysClean (s : State) (x : Ctx) (n : Nat) : State :=
  if sysOfCore n then s.updCore x.core fun c => { c with ypois := c.ypois.del n }
  else s.updWave x.key fun w => { w with ypois := w.ypois.del n }

/-- `rdsys` (R212): ECCU for an uncorrectable error of the register (R92), PROT unless no lane is active (R79), its value. -/
def execRdsys (f : F) (s : State) : Host.Outcome State Fault Refusal :=
  issue (.rdsys f) s fun x s =>
    let n := x.f.a.num.toNat
    let e := s.sysError x n
    let s := if e = some false then (s.sysClean x n).countCe x.core 1 else s
    if e = some true then s.raise x { code := .eccu }
    else if sysReadS n && !x.w.supervisor && x.act != 0 then s.raise x { code := .prot }
    else
      let v := s.sysValue x n
      let wide := ((Forms.sysReg n).map fun r => r.2.1).getD false
      (match x.f.d.file with
        | .s => s.writeS x v
        | .a => s.writeA x (if n = 0 then ⟨0, 1⟩ else ⟨v, 0⟩)
        | _ => s.writeV x wide x.act fun l => if n = 0 then BitVec.ofNat 64 l else v).advance x

/-- A signature with one of its 64-bit parts replaced (R85). -/
def sigPart (g : Sig) (i : Nat) (v : W64) : Sig :=
  (g &&& ~~~(BitVec.ofNat 1024 ((2 ^ 64 - 1) * 2 ^ (64 * i)))) ||| BitVec.ofNat 1024 (v.toNat * 2 ^ (64 * i))

/-- Writes a system register (R85, R213, R423). A write to a core-wide register is seen from the next cc (R212). -/
def State.sysWrite (s : State) (x : Ctx) (n : Nat) (v : W64) : State :=
  let low : W32 := v.truncate 32
  if n = 0x10 then s.updCore x.core fun c => { c with ownNext := some v }
  else if n = 0x38 then s.updCore x.core fun c => { c with eccClear := true }
  else s.updWave x.key fun w =>
    if n = 0x08 then { w with fcm := low }
    else if n = 0x09 then { w with flags := low &&& flagsMask }
    else if n = 0x0A then { w with fpctl := low &&& fpctlMask }
    else if 0x20 ≤ n ∧ n ≤ 0x2F then { w with sigacc := sigPart w.sigacc (n - 0x20) v }
    else if n = 0x30 then { w with trapvec := v &&& ~~~0xFF }
    else if n = 0x31 then { w with wdog := low.toNat, wlim := low.toNat }
    else w

/-- A wave-uniform register whose write needs CONV = 1 (R75, R213). -/
def sysUniform (n : Nat) : Bool := n == 0x08 || n == 0x30 || n == 0x31 || (0x20 ≤ n && n ≤ 0x2F)

/-- `wrsys` (R213). -/
def execWrsys (f : F) (s : State) : Host.Outcome State Fault Refusal :=
  issueWith (fun _ => false) (fun x => !x.conv && sysUniform x.f.d.num.toNat) (.wrsys f) s fun x s =>
    let n := x.f.d.num.toNat
    if sysWriteS n && !x.w.supervisor then s.raise x { code := .prot }
    else ((s.sysWrite x n (x.src false false x.f.a 0)).sysClean x n).advance x

/-! ### Masks (R178) -/

/-- The low 32 bits of a source of a mask form. -/
def Ctx.maskSrc (x : Ctx) (o : Src) : W32 := (x.src false false o 0).truncate 32

/-- A mask form writes the bits of the active lanes. -/
def State.maskForm (s : State) (x : Ctx) (v : W32) : State := (s.writeK x x.act v).advance x

/-- `kmov` (R178). -/
def execKmov (f : F) (s : State) : Host.Outcome State Fault Refusal :=
  issue (.kmov f) s fun x s => s.maskForm x (x.maskSrc x.f.a)

/-- `kand` (R178). -/
def execKand (f : F) (s : State) : Host.Outcome State Fault Refusal :=
  issue (.kand f) s fun x s => s.maskForm x (x.maskSrc x.f.a &&& x.maskSrc x.f.b)

/-- `kor` (R178). -/
def execKor (f : F) (s : State) : Host.Outcome State Fault Refusal :=
  issue (.kor f) s fun x s => s.maskForm x (x.maskSrc x.f.a ||| x.maskSrc x.f.b)

/-- `kxor` (R178). -/
def execKxor (f : F) (s : State) : Host.Outcome State Fault Refusal :=
  issue (.kxor f) s fun x s => s.maskForm x (x.maskSrc x.f.a ^^^ x.maskSrc x.f.b)

/-- `kandn` (R178). -/
def execKandn (f : F) (s : State) : Host.Outcome State Fault Refusal :=
  issue (.kandn f) s fun x s => s.maskForm x (x.maskSrc x.f.a &&& ~~~(x.maskSrc x.f.b))

/-- `knot` (R178). -/
def execKnot (f : F) (s : State) : Host.Outcome State Fault Refusal :=
  issue (.knot f) s fun x s => s.maskForm x (~~~(x.maskSrc x.f.a))

/-! ### Supervisor forms -/

/-- A supervisor-only form in user mode raises PROT (R175). -/
def State.privileged (s : State) (x : Ctx) (body : State → State) : State :=
  if x.w.supervisor then body s else s.raise x { code := .prot }

/-- Page size of a code, as the bits of its offset (R215). -/
def pageLog : Nat → Nat
  | 0 => 16 | 1 => 21 | _ => 30

/-- A cached translation serves a byte of a page (R215). -/
def TlbEnt.touches (e : TlbEnt) (va log : Nat) : Bool :=
  let m := max e.log log
  e.page * 2 ^ e.log / 2 ^ m == va / 2 ^ m

/-- Drops the translations of a die that serve a page, or all of them (R215). -/
def State.dropTlb (s : State) (d : Nat) (gone : TlbEnt → Bool) : State :=
  let clean := fun (p : Nat × Core) =>
    if dieOf p.1 == d then (p.1, { p.2 with tlb := p.2.tlb.filter fun (e : TlbEnt) => !gone e }) else p
  let s := { s with cores := s.cores.map clean }
  s.updDie d fun x => { x with stlb := x.stlb.filter fun (e : TlbEnt) => !gone e }

/-- `tlbinv` (R215). -/
def execTlbinv (f : F) (s : State) : Host.Outcome State Fault Refusal :=
  issue (.tlbinv f) s fun x s => s.privileged x fun s =>
    let size := (x.src false false x.f.b 0).toNat
    let va := (x.src false false x.f.a 0).toNat
    (s.dropTlb x.die fun e => decide (3 ≤ size) || e.touches va (pageLog size)).advance x

/-- `l1inv` (R216). -/
def execL1inv (f : F) (s : State) : Host.Outcome State Fault Refusal :=
  issue (.l1inv f) s fun x s => s.privileged x fun s =>
    (s.updCore x.core fun c => { c with l1 := [], icache := [] }).advance x

end Sys2Proof.Machine
end

