-- ==== Sys2Proof/Machine/Barriers.lean ====
section
/-! DEFINITION. Core barriers (R273 to R276) and team-register atomics (R280, R281). -/
namespace Sys2Proof.Machine

/-- The split in an entry of a wave, for a form that an event performs. -/
def State.ctxAt (s : State) (core slot e : Nat) (f : F) : Option Ctx := { s with cur := ⟨core, slot, e⟩ }.here f

/-- The wait that begins a release at scope 1 or above (R116): REMDEAD for a store that a dead home discarded (R255), a stall
while stores are held (R434, R436) or an earlier access of another split is unfinished, else the rest of the form. -/
def State.relBegin (s : State) (x : Ctx) (scope : Nat) (i : Instr) (k : State → State) : State :=
  if scope = 0 then k s
  else
    let s := s.relDrain x.key scope
    match s.waves.fetch x.key with
    | none => s
    | some w =>
      match w.deadStore with
      | some inc => (s.updWave x.key fun w => { w with deadStore := none }).raise x { code := .remdead, kind := .store, inc := inc }
      | none =>
        match s.awaits x with
        | some why => s.stallAt x why i
        | none => k s

/-- The wait of a form that is performed after every earlier access of the wave (R123, R266): a stall while stores are held (R434,
R436) or an earlier access of another split is unfinished, else the rest of the form. -/
def State.afterEarlier (s : State) (x : Ctx) (i : Instr) (k : State → State) : State :=
  let s := s.drainWave x.key
  match s.awaits x with
  | some why => s.stallAt x why i
  | none => k s

/-! ### Core barriers -/

/-- A barrier number beyond the team's entries is no instruction (R273). -/
def Ctx.noBar (x : Ctx) : Bool := match x.tm with | some t => t.nbar ≤ x.f.imm8.toNat | none => true

/-- One arrival of R274, with its release at team scope. -/
def State.barArrive (s : State) (x : Ctx) (b : Nat) (n : W32) : State :=
  let s := s.relTeam x.key
  match (s.teams.fetch x.w.team).bind fun t => t.bars.fetch b with
  | none => s
  | some e =>
    let e1 : Bar := { e with tx := e.tx + n, arr := min (e.arr + 1) 0xFFFF }
    (s.updTeam x.w.team fun t => { t with bars := t.bars.ins b e1.check }).updWave x.key fun w =>
      { w with wt := w.wt.ins b (e.ph + 1) }

/-- The wait of R274 passes. -/
def State.barPasses (s : State) (wk b : Nat) : Bool :=
  match s.waves.fetch wk with
  | none => false
  | some w =>
    match (s.teams.fetch w.team).bind fun t => t.bars.fetch b with
    | none => true
    | some e => decide ((e.ph - FMap.at' 0 w.wt b).toNat < 2 ^ 31)

/-- The lane whose FCM bit marks that the arrivals of a `bar.sync` are done: the split's lowest active lane (R276), or its lowest
lane where none is active. -/
def Ctx.syncLane (x : Ctx) : Nat := lowLane (if x.act = 0 then x.sp.mask else x.act)

/-- The lanes of the split that bear a mark. -/
def Ctx.marked (x : Ctx) : List Nat := lanesOf (x.sp.mask &&& x.w.fcm)

/-- The lanes whose arrivals at a `bar.sync` are done: those of each group that has waited here, whichever groups the split has taken
in (R50, R276). A mark of the lowest active lane that no arrival has left stands for every active lane. -/
def Ctx.arrived (x : Ctx) : W32 :=
  x.marked.foldl (fun m l => m ||| (x.w.synced.fetch l).getD (if l = x.syncLane then x.act else 0)) 0

/-- The arrivals of a `bar.sync` that remain (R51, R276): one for a converged wave, else one for each active lane. -/
def Ctx.toArrive (x : Ctx) : List Nat :=
  if x.conv then (if x.marked.isEmpty then x.performs else []) else x.performs.filter fun l => !bit x.arrived l

/-- Marks that the arrivals of the split are done (R276). -/
def Wave.markSync (w : Wave) (x : Ctx) : Wave :=
  { w with fcm := w.fcm ||| laneBit x.syncLane, synced := w.synced.ins x.syncLane x.act }

/-- The `bar.sync` of a split completes: the marks of all its lanes go (R245, R276). -/
def Wave.clearSync (w : Wave) (m : W32) : Wave := { w with fcm := w.fcm &&& ~~~m, synced := w.synced.dropKeys fun l => bit m l }

/-- A wait that passes: the acquire at team scope, the marks cleared, the split moved on (R274, R276). -/
def State.barPass (s : State) (x : Ctx) (sync : Bool) : State :=
  let s := s.acqStep x.key 1 0
  (if sync then s.updWave x.key fun w => w.clearSync x.sp.mask else s).advance x

/-- The wait of `bar.wait` and `bar.sync`. -/
def State.barWait (s : State) (x : Ctx) (sync : Bool) (i : Instr) : State :=
  let b := x.f.imm8.toNat
  if s.barPasses x.key b then s.barPass x sync else s.stallAt x (.bar b) i

/-- `bar.arr` (R274). -/
def execBarArr (f : F) (s : State) : Host.Outcome State Fault Refusal :=
  issueWith Ctx.noBar (fun _ => false) (.barArr f) s fun x s =>
    s.relBegin x 1 (.barArr f) fun s =>
      (x.performs.foldl (fun s _ => s.barArrive x x.f.imm8.toNat (x.low x.f.a 0)) s).advance x

/-- `bar.wait` (R274). -/
def execBarWait (f : F) (s : State) : Host.Outcome State Fault Refusal :=
  issueWith Ctx.noBar (fun _ => false) (.barWait f) s fun x s => s.barWait x false (.barWait f)

/-- `bar.sync` (R274, R276). -/
def execBarSync (f : F) (s : State) : Host.Outcome State Fault Refusal :=
  issueWith Ctx.noBar (fun _ => false) (.barSync f) s fun x s =>
    if !x.marked.isEmpty && x.toArrive.isEmpty then s.barWait x true (.barSync f)
    else
      s.relBegin x 1 (.barSync f) fun s =>
        let s := x.toArrive.foldl (fun s _ => s.barArrive x x.f.imm8.toNat (x.low x.f.a 0)) s
        (s.updWave x.key fun w => w.markSync x).barWait x true (.barSync f)

/-- One split that stalls at a barrier looks again (R274). -/
def State.barRetry (s : State) (wk e b : Nat) : State :=
  match (s.waves.fetch wk).bind fun w => if w.halted then none else w.ex.splits.fetch e with
  | none => s
  | some sp =>
    if sp.stall == .bar b && s.barPasses wk b then
      match sp.form with
      | some (.barWait f) => match s.ctxAt (wk / 64) (wk % 64) e f with | some x => s.barPass x false | none => s
      | some (.barSync f) => match s.ctxAt (wk / 64) (wk % 64) e f with | some x => s.barPass x true | none => s
      | _ => s
    else s

/-- BAR_PHASE_COMPLETE (R274): the waits that a completed phase ends. -/
def execBarPhaseComplete (team b : Nat) (s : State) : Host.Outcome State Fault Refusal :=
  .next ((s.wavesOf team).foldl (fun s p => (List.range 4).foldl (fun s e => s.barRetry p.1 e b) s) s)

/-! ### Team registers -/

/-- A source of a team-register form: a v source is extended by its sign (R281). -/
def Ctx.tSrc (x : Ctx) (o : Src) (l : Nat) : W64 :=
  match o.file with
  | .v => sext64 (x.low o l)
  | _ => x.src false false o l

/-- The form is performed lane by lane (R280). -/
def Ctx.perLane (x : Ctx) : Bool := x.f.a.file == .v || x.f.c.file == .v

/-- A team-register form: the new value from the old one, A and C, or nothing to write (R281). It takes the value that lower
slots left in the same cc (R81). -/
def State.tregForm (s : State) (x : Ctx) (op : W64 → W64 → W64 → Option W64) : State :=
  let n := bits x.f.imm8 0 4
  let e := (s.teams.fetch x.w.team).bind fun t => t.tpois.fetch n
  let s := if e = some false then (s.updTeam x.w.team fun t => t.fixT n).countCe x.core 1 else s
  if e = some true then s.raise x { code := .eccu }
  else
    let lanes := if x.perLane then lanesOf x.act else x.performs
    ((lanes.foldl (fun (q : State × Ctx) l =>
      let o := q.2.treg n
      let s := match op o (q.2.tSrc x.f.a l) (q.2.tSrc x.f.c l) with | some v => q.1.writeT x n v | none => q.1
      let s := match x.f.d.file with
        | .s => s.writeS x o
        | .v => s.writeV x false (if x.perLane || !x.conv then laneBit l else x.act) fun _ => o
        | _ => s
      (s, q.2.again s n)) (s, x.again s n)).1).advance x

/-- `tadd` (R281). -/
def execTadd (f : F) (s : State) : Host.Outcome State Fault Refusal :=
  issue (.tadd f) s fun x s => s.tregForm x fun o a _ => some (o + a)

/-- `tmin` (R281). -/
def execTmin (f : F) (s : State) : Host.Outcome State Fault Refusal :=
  issue (.tmin f) s fun x s => s.tregForm x fun o a _ => some (if o.toInt ≤ a.toInt then o else a)

/-- `tmax` (R281). -/
def execTmax (f : F) (s : State) : Host.Outcome State Fault Refusal :=
  issue (.tmax f) s fun x s => s.tregForm x fun o a _ => some (if o.toInt ≤ a.toInt then a else o)

/-- `tand` (R281). -/
def execTand (f : F) (s : State) : Host.Outcome State Fault Refusal :=
  issue (.tand f) s fun x s => s.tregForm x fun o a _ => some (o &&& a)

/-- `tor` (R281). -/
def execTor (f : F) (s : State) : Host.Outcome State Fault Refusal :=
  issue (.tor f) s fun x s => s.tregForm x fun o a _ => some (o ||| a)

/-- `txchg` (R281). -/
def execTxchg (f : F) (s : State) : Host.Outcome State Fault Refusal :=
  issue (.txchg f) s fun x s => s.tregForm x fun _ a _ => some a

/-- `tcas` (R281). -/
def execTcas (f : F) (s : State) : Host.Outcome State Fault Refusal :=
  issue (.tcas f) s fun x s => s.tregForm x fun o a c => if o = c then some a else none

end Sys2Proof.Machine
end

