-- ==== Sys2Proof/Machine/Patterns.lean ====
section
/-! DEFINITION. Pattern records (R364 to R366), and the shape that the engine forms share: one performance for a converged wave,
else one for each active lane, with the lanes that are done kept in FCM (R51, R245, R288). -/
namespace Sys2Proof.Machine

/-- Dimension d of a record: its count and its stride. -/
def patDim (bs : List W8) (d : Nat) : Nat × W64 := (field bs (0x40 + 12 * d) 4, BitVec.ofNat 64 (field bs (0x44 + 12 * d) 8))

/-- The conditions of R366 that every reader of a record applies, at an element size. -/
def patShape (bs : List W8) (esz : Nat) : Bool :=
  let nd := field bs 8 1
  let ds := (List.range nd).map (patDim bs)
  1 ≤ nd && nd ≤ 16 && zeros bs 0x0D 0x33 && zeros bs (0x40 + 12 * nd) (0xC0 - 12 * nd)
    && ds.all (fun d => d.1 != 0) && (ds.map fun d => d.1).prod ≤ 2 ^ 40
    && field bs 0 8 % 2 ^ esz == 0 && ds.all (fun d => d.2.toNat % 2 ^ esz == 0)

/-- The conditions of R366 that a stream port adds. -/
def patPort (bs : List W8) : Bool :=
  let nd := field bs 8 1
  let tl := field bs 0x0A 1
  let sl := field bs 0x0B 1
  field bs 9 1 ≤ 3 && 1 ≤ tl && tl ≤ nd && (sl == 0 || (tl ≤ sl && sl ≤ nd)) && field bs 0x0C 1 ≤ 1

/-- A record as it is walked. -/
def patOf (bs : List W8) (esz : Nat) : Pat :=
  { base := BitVec.ofNat 64 (field bs 0 8), esz := esz, tl := field bs 0x0A 1, sl := field bs 0x0B 1, dir := field bs 0x0C 1
    dims := (List.range (field bs 8 1)).map (patDim bs) }

/-- The record of a stream port, or nothing when it is malformed. -/
def portPat (bs : List W8) : Option Pat :=
  if patPort bs && patShape bs (field bs 9 1) then some (patOf bs (field bs 9 1)) else none

/-- The product of the counts of dimensions below d. -/
def Pat.below (p : Pat) (d : Nat) : Nat := ((p.dims.take d).map fun x => x.1).prod
/-- Elements of the whole pattern. -/
def Pat.total (p : Pat) : Nat := p.below p.dims.length
/-- Elements of a trick (R365). -/
def Pat.trick (p : Pat) : Nat := p.below p.tl

/-- Offset of the element of an ordinal, over the dimensions that remain (R365). -/
def dimsOffset : List (Nat × W64) → Nat → W64
  | [], _ => 0
  | (c, st) :: ds, o => BitVec.ofNat 64 (o % c) * st + dimsOffset ds (o / c)

/-- Address of an ordinal (R365). -/
def Pat.addr (p : Pat) (o : Nat) : W64 := p.base + dimsOffset p.dims o

/-- A trick that starts at an ordinal carries SWAP (R365). -/
def Pat.swaps (p : Pat) (o : Nat) : Bool := p.sl != 0 && o % p.below p.sl == 0

/-! ### Engine forms -/

/-- What one performance of a form does. -/
inductive Perf where
  | done (s : State)
  | fault (s : State) (fi : Fi)
  /-- The split is held at the form, which is performed again from its start. -/
  | wait (s : State) (why : Stall)
  deriving DecidableEq, Repr

/-- The FCM bits of a split fall when a form that is performed lane by lane completes; a single performance leaves FCM alone
(R245, log entry 36). -/
def State.lanesDone (s : State) (x : Ctx) (single : Bool) : State :=
  if single then s else s.updWave x.key fun w => { w with fcm := w.fcm &&& ~~~x.sp.mask }

/-- The performances that remain, in lane order (R51, R245, R305). -/
def State.performEach (s : State) (x : Ctx) (i : Instr) (op : Ctx → State → Perf) : List Nat → State
  | [] => (s.lanesDone x x.conv).advance x
  | l :: ls =>
    match op { x with tm := s.teams.fetch x.w.team } s with
    | .done s => State.performEach (if x.conv then s else s.updWave x.key fun w => { w with fcm := w.fcm ||| laneBit l }) x i op ls
    | .fault s fi => s.raise x fi
    | .wait s why => s.stallAt x why i

/-- A single operation of an engine: its performances without those that an earlier issue has done. -/
def State.engineForm (s : State) (x : Ctx) (i : Instr) (op : Ctx → State → Perf) : State :=
  s.performEach x i op (if x.conv then x.performs else x.performs.filter fun l => !bit x.w.fcm l)

/-- An s source or an immediate, limited to n bits (R287). -/
def Ctx.num (x : Ctx) (o : Src) (n : Nat) : Nat := (x.src false false o 0).toNat % 2 ^ n

/-- The rest of a performance, once some memory has been read. -/
def Read.andThen : Read → State → (List W8 → State → Perf) → Perf
  | .bytes bs, s, k => k bs s
  | .fault fi, s, _ => .fault s fi
  | .wait why, s, _ => .wait s why

/-- Reads a descriptor: MISALIGN unless its address is a multiple of its size (R288). -/
def State.withDesc (s : State) (x : Ctx) (va : W64) (n : Nat) (k : List W8 → State → Perf) : Perf :=
  if va.toNat % n ≠ 0 then .fault s { code := .misalign, addr := va, kind := .desc }
  else let r := s.readDesc x .desc va n; r.2.andThen r.1 k

/-- The order in which the outcomes of several reads of one form are taken (R288): PROT, what waits, PAGE, POISON, REMDEAD. -/
def Read.rank : Read → Nat
  | .bytes _ => 5
  | .wait _ => 1
  | .fault fi => match fi.code with | .prot => 0 | .page => 2 | .poison => 3 | _ => 4

/-- Two reads of one form: the bytes of both, or what is taken first (R288). -/
def State.readBoth (s : State) (a b : State → State × Read) (k : List W8 → List W8 → State → Perf) : Perf :=
  let p := a s
  let q := b p.1
  match p.2, q.2 with
  | .bytes x, .bytes y => k x y q.1
  | x, y => (if y.rank < x.rank then y else x).andThen q.1 fun _ s => .done s

/-- Writes a field of a descriptor at its home for a unit; the wave then sees it (R288). -/
def State.putField (s : State) (x : Ctx) (va : W64) (bs : List W8) : State :=
  let r := s.waveKeys x .desc va bs.length
  match r.2 with
  | .keys (k :: _) => r.1.unitWrite x.core k bs
  | _ => r.1

/-- Grid of the issuing team, 0 for a system core (R39). -/
def Ctx.grid (x : Ctx) : Nat := match x.tm with | some t => t.grid | none => 0

end Sys2Proof.Machine
end

