-- ==== Sys2Proof/Machine/ArrayNet.lean ====
section
/-! DEFINITION. Tokens in an array (R314 to R317): buffers, routes, the counts of regions (R338, R344, R363, R448), and the firing
of processing elements, control operators and matrix-vector nodes (R318 to R320, R326 to R328) with the markers that pass them
(R335). The tokens of each configuration are kept apart, and the four places of an input are counted over all of them (R316, R332).
Element e's input or incoming track n is slot 64 e + n: 1 to 16 and 20 to 23 are
the incoming tracks of a router by their source code, 0x20 to 0x26 the inputs of its PE and operator, and 0 to 3 the tracks into an
attached element. -/
namespace Sys2Proof.Machine

/-- A configuration on a stack: partition, context, and whether it is a successor being spliced in (R333). -/
structure ArrH where
  st : Nat
  k : Nat
  c : Nat
  succ : Bool
  deriving DecidableEq, Repr

def ArrH.key (h : ArrH) : Nat := 4 * h.k + h.c

def State.arr (s : State) (h : ArrH) : Option ACtx :=
  let x := s.stk h.st
  if h.succ then (x.splices.fetch h.key).map fun p => p.arr else x.ctxs.fetch h.key

def State.updArr (s : State) (h : ArrH) (f : ACtx → ACtx) : State :=
  s.updStk h.st fun x =>
    if h.succ then { x with splices := x.splices.upd h.key fun p => { p with arr := f p.arr } }
    else { x with ctxs := x.ctxs.upd h.key f }

/-- The plane that a configuration uses. -/
def State.planeFor (s : State) (h : ArrH) : Plane :=
  let x := s.stk h.st
  if h.succ then (match x.splices.fetch h.key with | some p => planeOf p.cfg h.k h.c | none => fun _ _ => 0)
  else fun e f => x.field h.k h.c e f

/-- The array cycle (R8). -/
def State.ac (s : State) : Nat := s.cc / 2

/-- The configuration that an element runs: that of its active plane, and the successor once the element has taken it (R330,
R333). -/
def State.holder (s : State) (st e : Nat) : Option ArrH :=
  let x := s.stk st
  match x.ptab.owner e, x.plane.fetch e with
  | some k, some c =>
    let succ := match x.splices.fetch (4 * k + c) with | some p => FMap.at' false p.taken e | none => false
    let h : ArrH := ⟨st, k, c, succ⟩
    if (s.arr h).isSome then some h else none
  | _, _ => none

/-- The configuration of a context, or of the successor that runs on it. -/
def hctx (st k c : Nat) : ArrH := ⟨st, k, c, false⟩
def hsucc (st k c : Nat) : ArrH := ⟨st, k, c, true⟩

/-- The loaded configurations of a partition, by context. -/
def State.loadedCtxs (s : State) (st k : Nat) : List ArrH :=
  ((List.range 4).flatMap fun c => [hctx st k c, hsucc st k c]).filter fun h => (s.arr h).isSome

/-- Tokens that stand at a slot; those on their way in a pipeline are not yet there (R316, R317). -/
def ACtx.arrived (a : ACtx) (slot ac : Nat) : Nat := ((FMap.at' [] a.bufs slot).filter fun q => decide (q.1 ≤ ac)).length

/-- Tokens of a partition's other configurations that stand at a slot (R316, R332). -/
def State.others (s : State) (h : ArrH) (slot : Nat) : Nat :=
  ((s.loadedCtxs h.st h.k).map fun q => if q = h then 0 else match s.arr q with | some a => a.arrived slot s.ac | none => 0).sum

/-- What the network functions know of a configuration: the partition table, its partition and context, its plane, the ac, whether
it is a successor whose predecessor still stands (R333), and how many places of a slot other configurations hold. -/
structure Net where
  t : PTab
  k : Nat
  c : Nat
  g : Plane
  ac : Nat
  spliced : Bool
  others : Nat → Nat

def State.net (s : State) (h : ArrH) : Net := ⟨(s.stk h.st).ptab, h.k, h.c, s.planeFor h, s.ac, h.succ, s.others h⟩

namespace ACtx

/-- The token at the head of a slot. -/
def head (a : ACtx) (slot ac : Nat) : Option Tok :=
  match FMap.at' [] a.bufs slot with
  | (t, tok) :: _ => if t ≤ ac then some tok else none
  | [] => none

/-- The head, when it is no marker: a marker blocks its input (R335). -/
def token (a : ACtx) (slot ac : Nat) : Option Tok := (a.head slot ac).filter fun t => !t.mark

def marked (a : ACtx) (slot ac : Nat) : Bool := match a.head slot ac with | some t => t.mark | none => false

/-- The ac from which a token is there behind those of its track: a track carries at most one token in an ac (R316). -/
def readyAt (a : ACtx) (slot ready : Nat) : Nat :=
  match (FMap.at' [] a.bufs slot).getLast? with | some q => max ready (q.1 + 1) | none => ready

def push (a : ACtx) (slot ready : Nat) (t : Tok) : ACtx :=
  { a with bufs := a.bufs.ins slot (FMap.at' [] a.bufs slot ++ [(a.readyAt slot ready, t)]) }

def pop (a : ACtx) (slot : Nat) : ACtx := { a with bufs := FMap.put [] a.bufs slot (FMap.at' [] a.bufs slot).tail }

/-- Rounds that a point has passed (R338). -/
def roundsPast (a : ACtx) (pt : Nat) : Nat := (a.passed.fetch pt).getD a.base
/-- The round that a token at a point counts toward (R338). -/
def roundAt (a : ACtx) (pt : Nat) : Nat := a.roundsPast pt + 1
/-- A marker passes a point (R335). -/
def passMark (a : ACtx) (pt : Nat) (t : Tok) (ac : Nat) : ACtx :=
  { a with passed := a.passed.ins pt (a.roundAt pt), finals := if bit t.data 32 then a.finals.ins pt ac else a.finals.del pt }

/-- Adds to the balance of a region in a round (R338, R363). -/
def count (a : ACtx) (region round : Nat) (d : Int) : ACtx :=
  { a with bal := FMap.put 0 a.bal (16 * round + region) (FMap.at' 0 a.bal (16 * round + region) + d) }

/-- Sets ALIGN (1) or CHANERR (2) of a region (R338). -/
def regionErr (a : ACtx) (region b : Nat) : ACtx := { a with rerr := FMap.put 0 a.rerr region (FMap.at' 0 a.rerr region ||| b) }

/-- A function of an element begins at most one firing in an ac (R316). -/
def fresh (a : ACtx) (fn ac : Nat) : Bool := FMap.at' 0 a.busy fn ≤ ac
def fired (a : ACtx) (fn ac : Nat) : ACtx := { a with busy := a.busy.ins fn (ac + 1) }

/-- The configuration may move: it is neither parked nor waiting for a rollback. -/
def moves (a : ACtx) : Bool := !a.parked && a.undo.isNone

end ACtx

/-! ### Routes -/

/-- Counting point of a field that drives a track, and of an element's function (R338). -/
def trackPt (e f : Nat) : Nat := 64 * e + f
def elemPt (e fn : Nat) : Nat := 65536 + 64 * e + fn

/-- Where a field of a router sends its tokens. -/
inductive Dest where
  | slot (n : Nat)
  /-- The link crosses the partition's edge (R344). -/
  | guard
  deriving DecidableEq, Repr

namespace Net

/-- Where an output or input field leads, and the element that receives (R352, R355). -/
def dest (n : Net) (e f : Nat) : Dest × Nat :=
  if 0x10 ≤ f ∧ f < 0x20 then
    let d := (f - 0x10) / 4
    match neighbour e d with
    | some nb => if n.t.owns n.k nb then (.slot (64 * nb + 1 + 4 * ((d + 2) % 4) + (f - 0x10) % 4), nb) else (.guard, e)
    | none => (.guard, e)
  else if 0x28 ≤ f then
    match attTo e with
    | some a => (.slot (64 * a + (f - 0x28)), a)
    | none => (.guard, e)
  else (.slot (64 * e + f), e)

/-- The fields that take their tokens from a source of a router (R352). -/
def fan (n : Net) (e src : Nat) : List Nat := srcFields.filter fun f => n.g.srcOf e f == src

/-- The four places of an input are taken, by tokens of whichever configuration (R316). -/
def full (n : Net) (a : ACtx) (slot : Nat) : Bool := 4 ≤ a.arrived slot n.ac + n.others slot

/-- Every track of a source has room; a guard always has (R316, R448). -/
def room (n : Net) (a : ACtx) (e src : Nat) : Bool :=
  (n.fan e src).all fun f => match (n.dest e f).1 with | .slot q => !n.full a q | .guard => true

/-- Puts a token onto the track of a field: its counts, and the slot or the guard (R338, R344, R363, R448). The number is the
tokens that guards have dropped. -/
def put (n : Net) (q : ACtx × Nat) (e f ready : Nat) (tok : Tok) : ACtx × Nat :=
  let a := q.1
  let d := n.dest e f
  let pt := trackPt e f
  let r := a.roundAt pt
  let wt : Int := n.g.wt e f
  let sreg := n.g.region e
  let rreg := n.g.region d.2
  match d.1 with
  | .slot sl =>
    let a := a.push sl ready tok
    if tok.mark then (a.passMark pt tok n.ac, q.2)
    else if sreg = rreg then (a, q.2)
    else ((a.count sreg r (-wt)).count rreg r wt, q.2)
  | .guard =>
    if tok.mark then (a.passMark pt tok n.ac, q.2)
    else
      let key := 65536 * r + pt
      ({ (a.count sreg r (-wt)) with drops := a.drops.ins key (FMap.at' 0 a.drops key + 1) }, q.2 + 1)

/-- Sends a token on every track of a source. -/
def send (n : Net) (q : ACtx × Nat) (e src ready : Nat) (tok : Tok) : ACtx × Nat :=
  (n.fan e src).foldl (fun q f => n.put q e f ready tok) q

/-- An attached element emits a token into its router (R355, R363). -/
def emit (n : Net) (a : ACtx) (e track ready : Nat) (tok : Tok) : ACtx :=
  let pt := trackPt e (40 + track)
  let r := a.roundAt pt
  let wt : Int := n.g e 1 % 2048
  let sreg := n.g.region e
  let rreg := n.g.region (taker e)
  let a := a.push (64 * taker e + 20 + track) ready tok
  if tok.mark then a.passMark pt tok n.ac
  else
    let a := if e < 832 then a.count sreg r wt else a
    if sreg = rreg then a else (a.count sreg r (-wt)).count rreg r wt

/-- The track of an attached element has room. -/
def emitRoom (n : Net) (a : ACtx) (e track : Nat) : Bool := !n.full a (64 * taker e + 20 + track)

/-- Takes a token from an input of a PE or operator. An element without outputs is a sink (R336 to R338). -/
def take (n : Net) (a : ACtx) (e f fn : Nat) (sink : Bool) : ACtx :=
  match a.head (64 * e + f) n.ac with
  | none => a
  | some t =>
    let a := a.pop (64 * e + f)
    if sink then { (a.count (n.g.region e) (a.roundAt (elemPt e fn)) (-(n.g.wt e f : Int))) with poisoned := a.poisoned || t.psn } else a

/-- A firing that emits nothing counts as absorbed (R319, R338). -/
def absorb (n : Net) (a : ACtx) (e fn : Nat) : ACtx :=
  a.count (n.g.region e) (a.roundAt (elemPt e fn)) (-((n.g 1009 (n.g.region e) % 2048 : Nat) : Int))

/-! ### Processing elements (R318, R319) -/

/-- The configured inputs of a PE, operands first. -/
def peInputs (n : Net) (e : Nat) : List Nat := (inFields ++ [0x23]).filter fun f => n.g.srcOf e f != 0

/-- An operand select (R353). -/
def operand (n : Net) (e fmt sel : Nat) (param : W64) (val : Nat → W64) : W64 :=
  match sel with
  | 0 | 1 | 2 => val sel
  | 3 => widen fmt (n.g e 5 + 65536 * n.g e 6)
  | 4 => widen fmt (n.g e 7 + 65536 * n.g e 8)
  | 5 => param
  | _ => 0

/-- The result of a slot on the values at the inputs (R354). -/
def slotValue (n : Net) (e slot : Nat) (param : W64) (val : Nat → Nat → W64) : W64 :=
  let v := n.g e (1 + 2 * slot)
  let o := n.g e (2 + 2 * slot)
  let fmt := nbits v 8 3
  let arg := fun i => n.operand e fmt (nbits o (3 * i) 3) param (val fmt)
  arrOp (v % 256) fmt (nbits v 11 3) (arg 0) (arg 1) (arg 2)

/-- A firing of a PE, or nothing when it cannot fire (R318, R319). -/
def peFire (n : Net) (a : ACtx) (e : Nat) : Option (ACtx × Nat) :=
  let ins := n.peInputs e
  let toks := ins.filterMap fun f => (a.token (64 * e + f) n.ac).map fun t => (f, t)
  match toks with
  | [] => none
  | (_, lo) :: _ =>
    if !(n.g.pe e && a.fresh (64 * e + 17) n.ac && toks.length == ins.length && n.room a e 17) then none
    else
      let sink := (n.fan e 17).isEmpty
      let a := ins.foldl (fun a f => n.take a e f 17 sink) (a.fired (64 * e + 17) n.ac)
      let ctl := (toks.find? fun q => q.1 == 0x23).map fun q => q.2
      let slot := match ctl with | some t => if t.v && bit t.data 0 then 1 else 0 | none => 0
      let fmt := nbits (n.g e (1 + 2 * slot)) 8 3
      let psn := toks.any fun q => q.2.psn
      let mixed := toks.any fun q => q.2.sot != lo.sot || q.2.eot != lo.eot
      let a := if mixed then a.regionErr (n.g.region e) 1 else a
      let ready := n.ac + opLatency (n.g e (1 + 2 * slot) % 256) fmt
      let base : Tok := { data := 0, v := true, sot := lo.sot, eot := lo.eot, psn := psn, gen := a.gen, ctx := n.c }
      let empty := toks.any fun q => !q.2.v
      let policy := n.g e 0 % 4
      if empty && policy == 0 then
        if toks.any fun q => q.2.sot || q.2.eot || q.2.swap then
          some (n.send (a, 0) e 17 ready
            { base with v := false, sot := toks.any fun q => q.2.sot, eot := toks.any fun q => q.2.eot, swap := toks.any fun q => q.2.swap })
        else some (n.absorb a e 17, 0)
      else if empty && policy == 1 then some (n.send (a, 0) e 17 ready { base with v := false })
      else
        let val := fun fmt i =>
          match (toks.find? fun q => q.1 == 0x20 + i).map fun q => q.2 with
          | some t => if t.v then t.data else widen fmt (n.g e 9 + 65536 * n.g e 10)
          | none => 0
        some (n.send (a, 0) e 17 ready { base with data := n.slotValue e slot a.param val })

/-! ### Control operators (R320) -/

/-- C is true: valid, with DATA[0] = 1. -/
def isTrue (t : Tok) : Bool := t.v && bit t.data 0

/-- State of an operator. -/
def opSt (a : ACtx) (e : Nat) : OpSt := FMap.at' {} a.dyn.ops e
def setOp (a : ACtx) (e : Nat) (o : OpSt) : ACtx := { a with dyn := { a.dyn with ops := FMap.put {} a.dyn.ops e o } }

/-- An operator without outputs. -/
def opSink (n : Net) (e : Nat) : Bool := (n.fan e 18).isEmpty && (n.fan e 19).isEmpty

/-- Takes tokens from inputs of an operator. -/
def takeOp (n : Net) (a : ACtx) (e : Nat) (fs : List Nat) : ACtx :=
  fs.foldl (fun a f => n.take a e f 18 (n.opSink e)) (a.fired (64 * e + 18) n.ac)

/-- An operator of a kind that may fire in this ac, with its control token. -/
def opReady (n : Net) (a : ACtx) (e kind : Nat) : Bool := n.g.oper e == kind && a.fresh (64 * e + 18) n.ac

/-- steer. -/
def steerFire (n : Net) (a : ACtx) (e : Nat) : Option (ACtx × Nat) :=
  if !n.opReady a e 1 then none
  else match a.token (64 * e + 0x24) n.ac, a.token (64 * e + 0x26) n.ac with
    | some d, some c =>
      let out := if isTrue c then 18 else 19
      let other := if isTrue c then 19 else 18
      let d' := { d with psn := d.psn || c.psn }
      if !(n.fan e out).isEmpty then
        if n.room a e out then some (n.send (n.takeOp a e [0x24, 0x26], 0) e out (n.ac + 1) d') else none
      else if d.sot || d.eot || d.swap then
        if n.room a e other then
          some (n.send (n.takeOp a e [0x24, 0x26], 0) e other (n.ac + 1) { d' with v := false, data := 0 })
        else none
      else some (n.absorb (n.takeOp a e [0x24, 0x26]) e 18, 0)
    | _, _ => none

/-- carry. -/
def carryFire (n : Net) (a : ACtx) (e : Nat) : Option (ACtx × Nat) :=
  if !n.opReady a e 2 then none
  else if !(opSt a e).busy then
    match a.token (64 * e + 0x24) n.ac with
    | some t => if n.room a e 18 then some (n.send (setOp (n.takeOp a e [0x24]) e { busy := true }, 0) e 18 (n.ac + 1) t) else none
    | none => none
  else match a.token (64 * e + 0x26) n.ac with
    | none => none
    | some c =>
      if !isTrue c then some (setOp (n.takeOp a e [0x26]) e {}, 0)
      else match a.token (64 * e + 0x25) n.ac with
        | some b =>
          if n.room a e 18 then some (n.send (n.takeOp a e [0x25, 0x26], 0) e 18 (n.ac + 1) { b with psn := b.psn || c.psn }) else none
        | none => none

/-- invariant. -/
def invariantFire (n : Net) (a : ACtx) (e : Nat) : Option (ACtx × Nat) :=
  if !n.opReady a e 3 then none
  else match (opSt a e).held with
    | none =>
      match a.token (64 * e + 0x24) n.ac with
      | some t =>
        if n.room a e 18 then
          some (n.send (setOp (n.takeOp a e [0x24]) e { busy := true, held := some t }, 0) e 18 (n.ac + 1) t)
        else none
      | none => none
    | some h =>
      match a.token (64 * e + 0x26) n.ac with
      | none => none
      | some c =>
        if !isTrue c then some (setOp (n.takeOp a e [0x26]) e {}, 0)
        else if n.room a e 18 then some (n.send (n.takeOp a e [0x26], 0) e 18 (n.ac + 1) { h with psn := h.psn || c.psn })
        else none

/-- merge. -/
def mergeFire (n : Net) (a : ACtx) (e : Nat) : Option (ACtx × Nat) :=
  if !n.opReady a e 4 then none
  else match a.token (64 * e + 0x26) n.ac with
    | none => none
    | some c =>
      let f := if isTrue c then 0x25 else 0x24
      match a.token (64 * e + f) n.ac with
      | some t =>
        if n.room a e 18 then some (n.send (n.takeOp a e [f, 0x26], 0) e 18 (n.ac + 1) { t with psn := t.psn || c.psn }) else none
      | none => none

/-! ### Routers (R316) -/

/-- One hop: the token at the head of an incoming track goes onto every track that takes it. -/
def hop (n : Net) (a : ACtx) (e src : Nat) : Option (ACtx × Nat) :=
  match a.head (64 * e + src) n.ac with
  | none => none
  | some t =>
    if !(n.fan e src).isEmpty && a.fresh (64 * e + src) n.ac && n.room a e src then
      some (n.send ((a.pop (64 * e + src)).fired (64 * e + src) n.ac, 0) e src (n.ac + 1) t)
    else none

/-! ### Matrix-vector nodes (R326 to R328) -/

def nodeSt (a : ACtx) (i : Nat) : NodeSt := FMap.at' {} a.dyn.nodes i
def setNode (a : ACtx) (i : Nat) (x : NodeSt) : ACtx := { a with dyn := { a.dyn with nodes := a.dyn.nodes.ins i x } }

/-- The eight result tokens of R328. -/
def nodeResults (n : Net) (x : NodeSt) (gen : Bool) : List Tok :=
  let part := fun i => if FMap.at' false x.live i then (FMap.at' 0 x.partials i).toNat else 0
  (List.range 8).map fun k =>
    { data := BitVec.ofNat 64 (part (2 * k) + 2 ^ 32 * part (2 * k + 1)), sot := k == 0, eot := k == 7, psn := x.vpsn, gen := gen, ctx := n.c }

/-- A node may emit the tokens of a trick: its buffer and the stage of 8 tokens behind it have room for them (R316, R317). -/
def resultRoom (n : Net) (a : ACtx) (e : Nat) : Bool :=
  (FMap.at' [] a.bufs (64 * taker e + 20)).length + n.others (64 * taker e + 20) ≤ 4

/-- A node fires on a group of four tokens (R327, R328). Its partials are read 4 ac later at the earliest (R317): by its result
tokens, and by the snapshot of `nodeMark`. -/
def mvFire (n : Net) (a : ACtx) (i : Nat) : Option ACtx :=
  let e := 832 + i
  let f := n.g.fmt i
  let toks := (List.range 4).filterMap fun t => a.token (64 * e + t) n.ac
  match toks with
  | [] => none
  | t0 :: _ =>
    if !(f != 0 && toks.length == 4 && a.fresh (64 * e) n.ac && (!t0.eot || n.resultRoom a e)) then none
    else
      let x := nodeSt a i
      if t0.swap && x.loaded < tileTokens f then none
      else
        let a := (List.range 4).foldl (fun (a : ACtx) t => a.pop (64 * e + t)) (a.fired (64 * e) n.ac)
        let mixed := toks.any fun t => t.sot != t0.sot || t.eot != t0.eot || t.swap != t0.swap
        let a := if mixed then a.regionErr (n.g.region e) 1 else a
        let x : NodeSt := if t0.swap then { x with active := x.loading, loading := [], loaded := 0, apsn := x.lpsn, lpsn := false } else x
        let x := { x with vpsn := x.vpsn || x.apsn || toks.any fun t => t.psn }
        let d := fun t => match toks[t]? with | some q => if q.v then q.data.toNat else 0 | none => 0
        let x := if toks.all fun t => !t.v then x else (groupVecs f d).foldl (fun x v => nodeVector f x v) x
        if t0.eot then
          let rs := n.nodeResults x a.gen
          let a := setNode a i { x with partials := [], live := [], vpsn := false }
          some (((List.range 8).zip rs).foldl (fun a q => n.emit a e 0 (n.ac + 8 + q.1) q.2) a)
        else some (setNode a i x)

/-! ### Markers at elements (R335) -/

/-- The marker that an element sends on: FINAL once every marker it has taken is FINAL. -/
def joinMarks (ts : List Tok) : Tok :=
  match ts with
  | [] => { data := 0, mark := true, v := false }
  | t :: _ => { t with data := if ts.all fun q => bit q.data 32 then t.data else t.data &&& 0xFFFFFFFF }

/-- A PE passes a marker that stands at each of its inputs. -/
def peMark (n : Net) (a : ACtx) (e : Nat) : Option (ACtx × Nat) :=
  let ins := n.peInputs e
  if n.g.pe e && a.fresh (64 * e + 17) n.ac && ins.all (fun f => a.marked (64 * e + f) n.ac) && n.room a e 17 then
    let m := joinMarks (ins.filterMap fun f => a.head (64 * e + f) n.ac)
    let a := ins.foldl (fun (a : ACtx) f => a.pop (64 * e + f)) (a.fired (64 * e + 17) n.ac)
    some (n.send (a.passMark (elemPt e 17) m n.ac, 0) e 17 (n.ac + 1) m)
  else none

/-- The inputs at which an operator awaits a marker, and those that drop one (R335). -/
def opAwaits : Nat → List Nat
  | 1 => [0x24, 0x26] | 2 | 3 => [0x24] | 4 => [0x24, 0x25, 0x26] | _ => []
def opBack : Nat → List Nat
  | 2 => [0x25, 0x26] | 3 => [0x26] | _ => []

/-- Drops the markers at the back edges of an operator. -/
def dropBack (n : Net) (a : ACtx) (e : Nat) : ACtx :=
  (opBack (n.g.oper e)).foldl (fun (a : ACtx) f => if a.marked (64 * e + f) n.ac then a.pop (64 * e + f) else a) a

/-- An operator passes a marker. -/
def opMark (n : Net) (a : ACtx) (e : Nat) : Option (ACtx × Nat) :=
  let ins := opAwaits (n.g.oper e)
  if !ins.isEmpty && a.fresh (64 * e + 18) n.ac && ins.all (fun f => a.marked (64 * e + f) n.ac) && n.room a e 18 && n.room a e 19 then
    let m := joinMarks (ins.filterMap fun f => a.head (64 * e + f) n.ac)
    let a := ins.foldl (fun (a : ACtx) f => a.pop (64 * e + f)) (a.fired (64 * e + 18) n.ac)
    let a := { a with next := { a.next with ops := a.next.ops.ins e (opSt a e) } }
    let q := n.send (a.passMark (elemPt e 18) m n.ac, 0) e 18 (n.ac + 1) m
    some (n.send q e 19 (n.ac + 1) m)
  else none

/-- A node passes a marker, once its last group is in its partials (R317): its snapshot holds both tiles and the positions of its
weight ports (R335, R385). -/
def nodeMark (n : Net) (a : ACtx) (i : Nat) : Option ACtx :=
  let e := 832 + i
  if n.g.fmt i != 0 && a.fresh (64 * e) (n.ac - 3) && (List.range 4).all (fun t => a.marked (64 * e + t) n.ac) && n.emitRoom a e 0 then
    let m := joinMarks ((List.range 4).filterMap fun t => a.head (64 * e + t) n.ac)
    let a := (List.range 4).foldl (fun (a : ACtx) t => a.pop (64 * e + t)) (a.fired (64 * e) n.ac)
    let wps := [2 * i, 2 * i + 1].filter fun p => n.t.port n.k p && n.g.mode p == 5
    let a := { a with next := { a.next with
      nodes := a.next.nodes.ins i (nodeSt a i)
      ports := wps.foldl (fun (m : FMap PortSt) p => let q : PortSt := FMap.at' {} a.dyn.ports p; m.ins p { q with fetched := [] }) a.next.ports } }
    some (n.emit (a.passMark (elemPt e 0) m n.ac) e 0 (n.ac + 1) m)
  else none

end Net

/-! ### Steps of the network as events -/

/-- Adds to the counter of dropped tokens of a partition (R360, R448). -/
def Stack.addDrops (x : Stack) (k d : Nat) : Stack :=
  if d = 0 then x
  else
    let v := (x.field 0 0 1011 (16 * k + 3) + 65536 * x.field 0 0 1011 (16 * k + 4) + d) % 2 ^ 32
    (x.setField 0 0 1011 (16 * k + 3) (v % 65536)).setField 0 0 1011 (16 * k + 4) (v / 65536)

/-- A STREAM_FAULT of the configuration is still unwritten, so that it stands stopped (R414). -/
def State.standing (s : State) (h : ArrH) (a : ACtx) : Bool :=
  (s.die (nearDie h.st)).held.any fun r =>
    r.source == 2 && r.code == 0x22 && bits r.srcid 0 4 == h.st && bits r.srcid 10 2 == h.k && bits r.srcid 12 2 == h.c
      && a.pseq.fetch (bits r.srcid 4 6) == some r.seq

/-- The configuration moves in this ac. -/
def State.arrMoves (s : State) (h : ArrH) (a : ACtx) : Bool := a.moves && !s.standing h a

/-- Applies a step of the network to the configuration that an element runs. -/
def State.netStep (s : State) (st e : Nat) (f : Net → ACtx → Option (ACtx × Nat)) : State :=
  match s.holder st e with
  | none => s
  | some h =>
    match s.arr h with
    | none => s
    | some a =>
      if !s.arrMoves h a then s
      else match f (s.net h) a with
        | none => s
        | some r => (s.updArr h fun _ => r.1).updStk st fun x => x.addDrops h.k r.2

/-- PE_FIRE (R318, R319). -/
def execPeFire (stack elem : Nat) (s : State) : Host.Outcome State Fault Refusal :=
  .next (s.netStep stack elem fun n a => n.peFire a elem)

/-- STEER (R320). -/
def execSteer (stack elem : Nat) (s : State) : Host.Outcome State Fault Refusal :=
  .next (s.netStep stack elem fun n a => n.steerFire a elem)

/-- CARRY (R320). -/
def execCarry (stack elem : Nat) (s : State) : Host.Outcome State Fault Refusal :=
  .next (s.netStep stack elem fun n a => n.carryFire a elem)

/-- INVARIANT (R320). -/
def execInvariant (stack elem : Nat) (s : State) : Host.Outcome State Fault Refusal :=
  .next (s.netStep stack elem fun n a => n.invariantFire a elem)

/-- MERGE (R320). -/
def execMerge (stack elem : Nat) (s : State) : Host.Outcome State Fault Refusal :=
  .next (s.netStep stack elem fun n a => n.mergeFire a elem)

/-- ROUTE_HOP (R316, R344, R448). -/
def execRouteHop (stack elem src : Nat) (s : State) : Host.Outcome State Fault Refusal :=
  .next (s.netStep stack elem fun n a => if src = 17 ∨ src = 18 ∨ src = 19 then none else n.hop a elem src)

/-- MV_STEP (R327, R328). -/
def execMvStep (stack node : Nat) (s : State) : Host.Outcome State Fault Refusal :=
  .next (s.netStep stack (832 + node) fun n a => (n.mvFire a node).map fun a => (a, 0))

/-- MARKER_FORWARD (R335, R385): a PE, an operator or a node. -/
def execMarkerForward (stack elem : Nat) (s : State) : Host.Outcome State Fault Refusal :=
  .next (if 832 ≤ elem then s.netStep stack elem fun n a => (n.nodeMark a (elem - 832)).map fun a => (a, 0)
  else
    let s := s.netStep stack elem fun n a => some (n.dropBack a elem, 0)
    let s := s.netStep stack elem fun n a => n.peMark a elem
    s.netStep stack elem fun n a => n.opMark a elem)

end Sys2Proof.Machine
end

