-- ==== Sys2Proof/Machine/ArrayEnd.lean ====
section
/-! DEFINITION. How a configuration ends and how it goes back (R337, R339, R340, R347): completion, stop, the start of a rollback
and the restoring of the committed snapshot. -/
namespace Sys2Proof.Machine

/-- A 32-bit counter that saturates (R466). -/
def satInc (w : W32) : W32 := if w = 0xFFFFFFFF then w else w + 1

/-- One byte of a register of four counters rises and saturates (R340, R467). -/
def satByte (w : W32) (i : Nat) : W32 := if bits w (8 * i) 8 = 255 then w else w + BitVec.ofNat 32 (2 ^ (8 * i))

/-- SRCID of a port or of an array event (R412). -/
def ArrH.src (h : ArrH) (port region : Nat) : W32 :=
  BitVec.ofNat 32 (h.st + 16 * port + 1024 * h.k + 4096 * h.c + 16384 * region)

/-- The incarnation of a stack's array as its contributions carry it (R347). -/
def Stack.ainc' (x : Stack) : Nat := x.ainc.toNat

/-- Ports of a partition in a mode, ascending. -/
def Net.ports (n : Net) (mode : Nat) : List Nat := (List.range 64).filter fun p => n.t.port n.k p && n.g.mode p == mode

/-- Sources that inject markers: read ports and copy-fed ports (R334). -/
def Net.sources (n : Net) : List Nat := (List.range 64).filter fun p => n.t.port n.k p && (n.g.mode p == 1 || n.g.mode p == 3)

/-- Die and tag of a reduction port (R347, R356). -/
def Plane.redTag (g : Plane) (p : Nat) : Nat × Nat := (g (768 + p) 7 % 2, g (768 + p) 6)

/-- The reductions that a configuration takes part in. -/
def Net.redTags (n : Net) : List (Nat × Nat) := ((n.ports 4).map n.g.redTag).dedup

/-- A field of plane c, and of partition k's copies, that a partition's context uses (R349, R358). -/
def ctxKey (t : PTab) (k c key : Nat) : Bool :=
  if key / 65536 < 4 then key / 65536 == c && t.owns k (key / 64 % 1024) else key / 65536 == 4 + 4 * k + c

/-- Takes the fields of a context from another map. -/
def takeCfg (t : PTab) (k c : Nat) (old new : FMap W16) : FMap W16 :=
  (new.filter fun (q : Nat × W16) => ctxKey t k c q.1).foldl (fun m q => FMap.ins m q.1 q.2) (old.dropKeys (ctxKey t k c))

/-- Frees a context, or gives it to the successor that is spliced onto it, with a pre-emption that is still asked for (R333, R337,
R406). A successor that stops leaves its predecessor where it was. -/
def Stack.freeCtx (x : Stack) (h : ArrH) : Stack :=
  if h.succ then { x with splices := x.splices.del h.key }
  else match x.splices.fetch h.key with
    | some p =>
      { x with cfg := takeCfg x.ptab h.k h.c x.cfg p.cfg, splices := x.splices.del h.key
               ctxs := x.ctxs.ins h.key { p.arr with preemptReq := (x.ctxs.fetch h.key).any fun a => a.preemptReq } }
    | none =>
      { x with ctxs := x.ctxs.del h.key
               parts := x.parts.upd h.k fun p => if p.running = some h.c then { p with running := none } else p }

/-- The arrival of a configuration at its join barrier (R122, R337). -/
def State.arrDone (s : State) (h : ArrH) (a : ACtx) (poison : Bool) : State :=
  (s.updStk h.st fun x => x.freeCtx h).arrive (nearDie h.st) 3 a.tag a.join a.scope poison a.sig 6 a.team (dieAnchor (nearDie h.st))

/-- Queues messages for a die's combine unit (R347). -/
def State.contribute (s : State) (die : Nat) (m : ContribMsg) : State := s.updDie die fun d => { d with contribQ := d.contribQ ++ [m] }

/-- Stops a configuration (R337, R347): it arrives poisoned, and what it has not committed is gone. -/
def State.stopArr (s : State) (h : ArrH) : State :=
  match s.arr h with
  | none => s
  | some a =>
    let n := s.net h
    let inc := (s.stk h.st).ainc'
    let s := s.updStk h.st fun x => { x with stops := satInc x.stops }
    let s := n.redTags.foldl (fun (s : State) q => s.contribute q.1 ⟨q.2, h.st, inc, [], true, true⟩) s
    s.arrDone h a true

/-- Restores the committed snapshot (R323, R339): every token in flight, the uncommitted writes, gate entries, elements and
counts go, and copy-fed ports emit their retained words again. -/
def ACtx.restore (a : ACtx) : ACtx :=
  let ports : FMap PortSt := a.dyn.ports.map fun (p : Nat × PortSt) =>
    let sn : PortSt := FMap.at' {} a.snap.ports p.1
    (p.1, { sn with words := p.2.retained ++ p.2.words, retained := [], fault := false, fetched := [] })
  { a with dyn := { a.snap with ports := ports }, next := a.snap, bufs := [], passed := [], finals := [], bal := [], rerr := [], wb := [], wbPois := []
           wbLen := [], gates := [], drops := [], reds := [], wave := none, base := a.round, undo := none, busy := [] }

/-- Whether a record that the array holds is still unwritten (R414). -/
def State.recHeld (s : State) (d source : Nat) (srcid : W32) : Bool :=
  (s.die d).held.any fun r => r.source == source && r.srcid == srcid

/-- A rollback begins (R339, R340): it is counted, its record is queued, and the configuration stands until the record is
written (R414). Causes: 0 imbalance, 1 ALIGN, 2 CHANERR, 3 marker stall. -/
def State.rollbackStart (s : State) (h : ArrH) (a : ACtx) (code cause region : Nat) : State :=
  let s := s.updStk h.st fun x =>
    { x with rollb := satInc x.rollb
             regc := if code = 0x20 then satByte x.regc cause else x.regc
             arue := if code = 0x23 then satInc x.arue else x.arue }
  let s := s.updArr h fun a => { a with undo := some (code, region) }
  s.record (nearDie h.st) .hold
    { code := code, source := 5, srcid := h.src 0 region, tag := a.tag, cause := if code = 0x20 then cause else 0 }

/-- A successor gives back the elements that it has taken, and starts again from its launch (R333, R339). -/
def Splice.restart (p : Splice) : Splice := { p with arr := p.arr.restore, taken := [] }

/-- ROLLBACK (R339) of one configuration, once its record is written: the snapshot comes back, or, if the last commit was
followed by a rollback already, the configuration stops. It stops, too, after a STREAM_FAULT of cause 2 (R343, R414), whose record
names a port in place of a region. -/
def State.rollback (s : State) (h : ArrH) : State :=
  match s.arr h with
  | none => s
  | some a =>
    match a.undo with
    | none => s
    | some (code, region) =>
      if code = 0x22 then
        if s.recHeld (nearDie h.st) 2 (h.src region ((s.planeFor h).region (768 + region))) then s else s.stopArr h
      else if s.recHeld (nearDie h.st) 5 (h.src 0 region) then s
      else if a.rolled then s.stopArr h
      else
        let s := s.updArr h fun a => { a.restore with rolled := true }
        if h.succ then s
        else s.updStk h.st fun x => { x with splices := x.splices.upd h.key Splice.restart }

def execRollback (stack part ctx : Nat) (s : State) : Host.Outcome State Fault Refusal :=
  .next ((s.rollback (hctx stack part ctx)).rollback (hsucc stack part ctx))

/-- ARRAY_UE (R339, R340): an uncorrectable error in an element, buffer, route or snapshot of a configuration, in a region of it. -/
def execArrayUe (stack part : Nat) (hurt : ArrayHurt) (s : State) : Host.Outcome State Fault Refusal :=
  let h : ArrH := ⟨stack, part, hurt.ctx, hurt.succ⟩
  .next (match s.arr h with
  | none => s
  | some a => if a.undo.isSome then s else s.rollbackStart h a 0x23 0 (hurt.region % 16))

end Sys2Proof.Machine
end

