-- ==== Sys2Proof/Machine/ArrayPorts.lean ====
section
/-! DEFINITION. Sources and sinks of an array (R321 to R326, R329, R334, R341, R343, R347): read, weight, copy-fed, store and
reduction ports, bank gates, and the markers that sources inject and sinks take. -/
namespace Sys2Proof.Machine

namespace ACtx

def port (a : ACtx) (p : Nat) : PortSt := FMap.at' {} a.dyn.ports p
def setPort (a : ACtx) (p : Nat) (q : PortSt) : ACtx := { a with dyn := { a.dyn with ports := a.dyn.ports.ins p q } }
/-- A port's part of the snapshot of the round in flight (R335). -/
def snapPort (a : ACtx) (p : Nat) (q : PortSt) : ACtx := { a with next := { a.next with ports := a.next.ports.ins p q } }
def pat (a : ACtx) (p : Nat) : Option Pat := a.pats.fetch p

/-- Bytes that a store port's write-behind holds (R324). -/
def held (a : ACtx) (p : Nat) : Nat := ((a.wbLen.filter fun (q : Nat × Nat) => q.1 % 64 == p).map fun (q : Nat × Nat) => q.2).sum
/-- Tokens that a gate holds (R329). -/
def gateHeld (a : ACtx) (g : Nat) : Nat :=
  ((a.gates.filter fun (q : Nat × List Tok) => q.1 % 64 == g).map fun (q : Nat × List Tok) => q.2.length).sum

/-- A source has injected the marker of the wave in flight (R334). -/
def injected (a : ACtx) (p : Nat) : Bool := match a.wave with | some w => a.roundsPast (elemPt (768 + p) 0) == w.round | none => false

/-- Some port of the configuration holds an unresolved stream fault (R343). -/
def faulted (a : ACtx) : Bool := a.dyn.ports.any fun (q : Nat × PortSt) => q.2.fault

/-- Parks the context at its committed snapshot (R341). -/
def parkBack (a : ACtx) : ACtx := { a.restore with parked := true, preemptReq := false }

end ACtx

/-- The port is a source of its configuration: a read, copy-fed or weight port (R334, R356). -/
def Net.isSource (n : Net) (p : Nat) : Bool := n.g.mode p == 1 || n.g.mode p == 3 || n.g.mode p == 5

/-- A source of the configuration holds an unresolved stream fault (R341). -/
def Net.sourceFault (n : Net) (a : ACtx) : Bool := a.dyn.ports.any fun (q : Nat × PortSt) => q.2.fault && n.isSource q.1

/-- Tricks of a pattern (R365). -/
def Pat.tricks (p : Pat) : Nat := ((p.dims.drop p.tl).map fun x => x.1).prod
/-- Elements packed in a token (R321). -/
def Pat.per (p : Pat) : Nat := 8 / 2 ^ p.esz
/-- Tokens per trick (R365). -/
def Pat.tokens (p : Pat) : Nat := (p.trick * 2 ^ p.esz + 7) / 8
/-- Tokens per track and trick on W tracks (R365). -/
def Pat.perTrack (p : Pat) (w : Nat) : Nat := (p.tokens + w - 1) / w
/-- The ordinals of token j of a trick; none for a padding token. -/
def Pat.ordinals (p : Pat) (trick j : Nat) : List Nat :=
  ((List.range p.per).map fun k => j * p.per + k).filterMap fun o => if o < p.trick then some (trick * p.trick + o) else none

namespace Net

/-- A source has finished its pattern (R334); a copy-fed port has, once every read port has and it holds no whole trick. -/
def finished (n : Net) (a : ACtx) (p : Nat) : Bool :=
  let readDone := fun q => match a.pat q with | some r => r.tricks ≤ (a.port q).pos | none => true
  if n.g.mode p = 1 then readDone p
  else !(n.ports 1).isEmpty && (n.ports 1).all readDone && (a.port p).words.length < n.g.wcount p

/-- Some store port holds more than 32 KiB (R334). -/
def wbHigh (n : Net) (a : ACtx) : Bool := (n.ports 2).any fun p => 32768 < a.held p

/-- A pre-emption that the next wave serves. A source at its pattern's end owes FINAL before that, and the pre-emption is then asked
for during that wave (R387, log entry 43). -/
def askedOut (n : Net) (a : ACtx) : Bool := a.preemptReq && !n.sources.any (n.finished a)

/-- A source owes a marker (R334). A source that has not injected yet joins the wave in flight, and a pre-emption that is asked for
during a wave is served after its commit. A context has one wave in flight, so a successor owes no marker before the wave of its
predecessor has committed (R333, log entry 43). -/
def markDue (n : Net) (a : ACtx) (p : Nat) : Bool :=
  let mint := n.g 1008 1
  let asked := match a.wave with | some w => w.preempt | none => n.askedOut a
  !n.spliced && !a.injected p && (n.finished a p || (mint != 0 && mint ≤ (a.port p).since) || n.wbHigh a || asked)

/-- A source may begin its next trick (R331, R334, R341). -/
def mayStart (n : Net) (a : ACtx) (p : Nat) : Bool :=
  !n.markDue a p && !(a.injected p && (match a.wave with | some w => w.preempt | none => false))

end Net

/-- The context that runs in the partition of a configuration. -/
def State.runs (s : State) (h : ArrH) : Bool :=
  match (s.stk h.st).parts.fetch h.k with | some p => p.running == some h.c | none => false

/-- A pre-emption that a rollback serves: the context is parked at its committed snapshot, and its partition is free (R341). -/
def State.parkAt (s : State) (h : ArrH) : State :=
  (s.updArr h ACtx.parkBack).updStk h.st fun x =>
    { x with parts := x.parts.upd h.k fun q => if q.running = some h.c then { q with running := none } else q
             splices := if h.succ then x.splices else x.splices.upd h.key Splice.restart }

/-- What a source or sink of an array finds: its configuration, when that moves. -/
def State.atPort (s : State) (st e : Nat) : Option (ArrH × ACtx × Net) :=
  match s.holder st e with
  | none => none
  | some h => match s.arr h with
    | none => none
    | some a => if s.arrMoves h a then some (h, a, s.net h) else none

/-! ### Elements in memory (R343) -/

/-- A stream port meets a page that it may not use: the port waits, or, for a page outside the stack, the configuration stops
(R343, R415, R422). A pre-emption that waits is then served by a rollback (R341). A configuration that stops stands until its
record is written, when the ring is full (R414). -/
def State.streamFault (s : State) (h : ArrH) (a : ACtx) (p cause acc : Nat) (va : W64) : State :=
  let n := s.net h
  let key := 64 * h.key + p
  let seq := (FMap.at' 0 (s.stk h.st).portSeq key + 1) % 65536
  let s := (s.updStk h.st fun x => { x with portSeq := x.portSeq.ins key seq }).updArr h fun a => { a with pseq := a.pseq.ins p seq }
  let s := s.record (nearDie h.st) .hold
    { code := 0x22, source := 2, replay := cause != 2, seq := seq, srcid := h.src p (n.g.region (768 + p)), tag := a.tag, cause := cause
      va := va, acc := BitVec.ofNat 32 acc }
  if cause = 2 then
    if s.recHeld (nearDie h.st) 2 (h.src p (n.g.region (768 + p))) then s.updArr h fun a => { a with undo := some (0x22, p) }
    else s.stopArr h
  else if a.preemptReq && n.isSource p then s.parkAt h
  else s.updArr h fun a => a.setPort p { a.port p with fault := true }

/-- Physical addresses of some elements, or the state after a stream fault. R343 stops a configuration for a page outside the stack;
of an element that lies in another port's pseudo-channels (R22, R34, R321) the spec says nothing, and the port reads or writes it
as one of its own (DESIGN CHOICE, log entry 53). -/
def State.streamAddrs (s : State) (h : ArrH) (a : ACtx) (p : Nat) (kind : Kind) : List W64 → State × Option (List Nat)
  | [] => (s, some [])
  | va :: vas =>
    let r := s.translate (nearDie h.st) none a.tag false kind va
    match r.2 with
    | .page _ acc => (r.1.streamFault h a p 0 (kind.code + acc) va, none)
    | .prot => (r.1.streamFault h a p 1 kind.code va, none)
    | .hold _ => (r.1, none)
    | .ok k =>
      if homeOf k = .here ∧ stackOf k = h.st then
        let t := State.streamAddrs r.1 h a p kind vas
        (t.1, t.2.map fun ks => k :: ks)
      else (r.1.streamFault h a p 2 kind.code va, none)

/-- Reads the elements of a token from DRAM: data and PSN (R321, R322, R437). -/
def State.readToken (s : State) (h : ArrH) (a : ACtx) (p : Nat) (pt : Pat) (os : List Nat) : State × Option (W64 × Bool) :=
  let n := s.net h
  let r := s.streamAddrs h a p .load (os.map pt.addr)
  match r.2 with
  | none => (r.1, none)
  | some ks =>
    let bad := ks.filter fun k => r.1.poisoned (lineOf k)
    match bad with
    | [] =>
      let q := ks.foldl (fun (q : State × List W8) k => let x := q.1.readDram k (2 ^ pt.esz); (x.1, q.2 ++ toBytes (2 ^ pt.esz) x.2)) (r.1, [])
      (q.1, some (BitVec.ofNat 64 (ofBytes q.2), false))
    | _ =>
      let s := bad.foldl (fun (s : State) k =>
        s.poisonRead (nearDie h.st) 2 (h.src p (n.g.region (768 + p))) a.tag (lineOf k)) r.1
      (s.tick, some (Config.psnData s.free, true))

/-- The ports of a partition have a slot of the internal path in this ac (R359, R454): DSHARE of every 16 ac (log entry 42). -/
def State.slotOpen (s : State) (st k : Nat) : Bool :=
  (s.ac + (16 - (FMap.at' {} (s.stk st).parts k).phase % 16)) % 16 < (s.stk st).field 0 0 1010 (16 * k + 11) % 32

/-! ### Fetching ahead (R321, R322, R326, R331, R342) -/

/-- Tokens of a trick on all tracks, padding among them (R321). -/
def Pat.dealt (p : Pat) (w : Nat) : Nat := p.perTrack w * w

/-- A read port has fetched the first 8 tokens of each track of its next trick, if it has one (R331; log entry 42). -/
def Net.fetchedNext (n : Net) (a : ACtx) (p : Nat) : Bool :=
  match a.pat p with
  | none => true
  | some pt => pt.tricks ≤ (a.port p).pos || min 8 (pt.perTrack (n.g.width p)) * n.g.width p ≤ (a.port p).fetched.length

/-- Tokens that a port may hold fetched for each of its tracks: those of a window of 16 ac, so that a trick flows at one token a
track and ac whichever the slots of the partition are (R342, R359; DESIGN CHOICE, log entry 42). -/
def fetchDepth : Nat := 16

/-- The next token that a read or weight port fetches, counted from the start of its pattern, and how many there are. -/
def Net.fetchIndex (n : Net) (q : PortSt) (p : Nat) (pt : Pat) : Nat × Nat :=
  let len := if n.g.mode p = 5 then pt.tokens else pt.dealt (n.g.width p)
  ((if n.g.mode p = 5 then q.pos else q.pos * len + q.tok) + q.fetched.length, pt.tricks * len)

/-- Fetches one token ahead of a read or weight port; false in the second place when nothing more is fetched in this ac. -/
def State.fetchToken (s : State) (h : ArrH) (p : Nat) : State × Bool :=
  match s.arr h with
  | none => (s, false)
  | some a =>
    let n := s.net h
    match a.pat p with
    | none => (s, false)
    | some pt =>
      let q := a.port p
      let i := n.fetchIndex q p pt
      let len := i.2 / pt.tricks
      if !((n.g.mode p == 1 || n.g.mode p == 5) && s.arrMoves h a && !q.fault && q.fetched.length < fetchDepth * n.g.width p && i.1 < i.2)
      then (s, false)
      else
        let r := s.readToken h a p pt (pt.ordinals (i.1 / len) (i.1 % len))
        match r.2 with
        | none => (r.1, false)
        | some t => (r.1.updArr h fun a => a.setPort p { a.port p with fetched := (a.port p).fetched ++ [t] }, true)

/-- Fetches up to so many tokens, and ends where one is not fetched. -/
def State.fetchUpTo (s : State) (h : ArrH) (p : Nat) : Nat → State
  | 0 => s
  | m + 1 => let r := s.fetchToken h p; if r.2 then State.fetchUpTo r.1 h p m else r.1

/-- What a port of a configuration fetches in a slot of its partition: what it lacks. -/
def State.fetchAhead (s : State) (p : Nat) (h : ArrH) : State :=
  let n := s.net h
  match s.arr h with
  | none => s
  | some a =>
    if !((n.g.mode p == 1 || n.g.mode p == 5) && a.fresh (64 * (768 + p) + 1) n.ac) then s
    else (s.updArr h fun a => a.fired (64 * (768 + p) + 1) n.ac).fetchUpTo h p (fetchDepth * n.g.width p)

/-- The port of each loaded configuration fetches ahead, when the partition has a slot in this ac. -/
def State.fetchSlot (s : State) (st p : Nat) : State :=
  match (s.stk st).ptab.owner (768 + p) with
  | some k => if s.slotOpen st k then (s.loadedCtxs st k).foldl (State.fetchAhead · p) s else s
  | none => s

/-! ### Read ports (R321, R322, R331) -/

/-- One token of a read port, of those that it has fetched; false in the second place when nothing more is emitted in this ac. -/
def State.emitToken (s : State) (st p : Nat) : State × Bool :=
  match s.atPort st (768 + p) with
  | none => (s, false)
  | some (h, a, n) =>
    match a.pat p, (a.port p).fetched with
    | some pt, (d, psn) :: rest =>
      let q := a.port p
      let w := n.g.width p
      let len := pt.perTrack w
      let track := q.tok % w
      let idx := q.tok / w
      if !(n.g.mode p == 1 && s.runs h && (q.tok != 0 || n.mayStart a p) && n.emitRoom a (768 + p) track) then (s, false)
      else
        let os := pt.ordinals q.pos q.tok
        let tok : Tok :=
          { data := if os.isEmpty then 0 else d, v := !os.isEmpty, sot := idx == 0, eot := idx + 1 == len
            swap := idx == 0 && pt.swaps (q.pos * pt.trick), psn := psn, gen := a.gen, ctx := h.c }
        let last := q.tok + 1 == len * w
        let q := { q with fetched := rest }
        let q' := if last then { q with pos := q.pos + 1, tok := 0, since := q.since + 1 } else { q with tok := q.tok + 1 }
        (s.updArr h fun a => (n.emit a (768 + p) track (s.ac + 1) tok).setPort p q', !last)
    | _, _ => (s, false)

/-- The tokens that a read port emits in one ac, at most one a track. -/
def State.emitTokens (s : State) (st p : Nat) : State :=
  match s.atPort st (768 + p) with
  | none => s
  | some (h, a, n) =>
    if !a.fresh (64 * (768 + p)) n.ac then s
    else
      let s := s.updArr h fun a => a.fired (64 * (768 + p)) n.ac
      ((List.range (n.g.width p)).foldl (fun (q : State × Bool) _ => if q.2 then q.1.emitToken st p else q) (s, true)).1

/-- READ_PORT_EMIT (R321, R322, R331, R343): the port emits, and each loaded configuration's port fetches ahead. -/
def execReadPortEmit (stack port : Nat) (s : State) : Host.Outcome State Fault Refusal :=
  .next ((s.emitTokens stack port).fetchSlot stack port)

/-! ### Weight ports (R326, R356) -/

/-- One token of a node's loading tile, of those that the port whose turn it is has fetched, when that has supplied fewer than its W
in this ac. -/
def State.loadWeight (s : State) (st i : Nat) (used : FMap Nat) : State × Option (FMap Nat) :=
  match s.atPort st (832 + i) with
  | none => (s, none)
  | some (h, a, n) =>
    let ws := [2 * i, 2 * i + 1].filter fun p => n.t.port n.k p && n.g.mode p == 5
    let x := Net.nodeSt a i
    match ws[x.loaded % ws.length]? with
    | none => (s, none)
    | some p =>
      let q := a.port p
      match q.fetched with
      | [] => (s, none)
      | (d, psn) :: rest =>
        if !(s.runs h && n.g.fmt i != 0 && x.loaded < tileTokens (n.g.fmt i) && FMap.at' 0 used p < n.g.width p
            && s.holder st (768 + p) == some h) then (s, none)
        else
          let x := { x with loading := x.loading.ins x.loaded d, loaded := x.loaded + 1, lpsn := x.lpsn || psn }
          (s.updArr h fun a => (Net.setNode a i x).setPort p { q with pos := q.pos + 1, fetched := rest },
            some (used.ins p (FMap.at' 0 used p + 1)))

/-- What a node's bus carries in one ac. -/
def State.loadWeights (s : State) (st i : Nat) : State :=
  match s.atPort st (832 + i) with
  | none => s
  | some (h, a, n) =>
    if !a.fresh (64 * (832 + i) + 1) n.ac then s
    else
      let s := s.updArr h fun a => a.fired (64 * (832 + i) + 1) n.ac
      ((List.range 8).foldl (fun (q : State × Option (FMap Nat)) _ =>
        match q.2 with | some u => q.1.loadWeight st i u | none => q) (s, some [])).1

/-- WEIGHT_LOAD (R326, R356): the bus of a node loads, and its two ports fetch ahead. -/
def execWeightLoad (stack node : Nat) (s : State) : Host.Outcome State Fault Refusal :=
  .next (((s.loadWeights stack node).fetchSlot stack (2 * node)).fetchSlot stack (2 * node + 1))

/-! ### Store and reduction ports (R324, R347) -/

/-- The elements of a token: its 2^ESZ-byte pieces, lowest first. -/
def unpack (esz : Nat) (d : W64) (k : Nat) : List W8 := toBytes (2 ^ esz) (d.toNat / 2 ^ (8 * 2 ^ esz * k))

/-- Takes the token at a track of a sink port (R324, R337, R338, R363). -/
def Net.sinkTake (n : Net) (a : ACtx) (e track : Nat) : ACtx :=
  match a.head (64 * e + track) n.ac with
  | none => a
  | some t =>
    let a := a.pop (64 * e + track)
    { (a.count (n.g.region e) (a.roundAt (elemPt e 0)) (-(n.g.wt (feeder e) (0x28 + track) : Int))) with
      poisoned := a.poisoned || t.psn }

/-- Puts the elements of a token into the write-behind of its port's round (R324). -/
def ACtx.writeBehind (a : ACtx) (p : Nat) (esz : Nat) (t : Tok) (ks : List Nat) : ACtx :=
  let r := a.roundAt (elemPt (768 + p) 0)
  let key := 64 * r + p
  let m := ((List.range ks.length).zip ks).foldl (fun (m : FMap W8) q =>
    ((keysFrom q.2 (2 ^ esz)).zip (unpack esz t.data q.1)).foldl (fun (m : FMap W8) b => m.ins b.1 b.2) m) (FMap.at' [] a.wb key)
  { a with wb := a.wb.ins key m, wbLen := a.wbLen.ins key (FMap.at' 0 a.wbLen key + ks.length * 2 ^ esz)
           wbPois := if t.psn then ks.foldl (fun (m : FMap Bool) k => m.ins (2 ^ 48 * r + lineOf k) true) a.wbPois else a.wbPois }

/-- Puts the elements of a token among those that a reduction port sends at the commit (R347). -/
def ACtx.reduceElems (a : ACtx) (p base : Nat) (t : Tok) (os : List Nat) : ACtx :=
  let key := 64 * a.roundAt (elemPt (768 + p) 0) + p
  let es := ((List.range os.length).zip os).map fun (q : Nat × Nat) => (base + q.2, BitVec.ofNat 32 (ofBytes (unpack 2 t.data q.1)), t.psn)
  { a with reds := a.reds.ins key (FMap.at' [] a.reds key ++ es) }

/-- The track that a sink port takes from next: its turn, passing over tracks that stand at a marker. -/
def Net.nextTrack (n : Net) (a : ACtx) (e w trk : Nat) : Option Nat :=
  ((List.range w).map fun i => (trk + i) % w).find? fun u => !a.marked (64 * e + u) n.ac

/-- One token of a sink port, or its markers (R324, R335, R347); false when nothing more is taken in this ac. -/
def State.consumeToken (s : State) (st p : Nat) : State × Bool :=
  let e := 768 + p
  match s.atPort st e with
  | none => (s, false)
  | some (h, a, n) =>
    match a.pat p with
    | none => (s, false)
    | some pt =>
      let q := a.port p
      let w := n.g.width p
      let red := n.g.mode p == 4
      if !((n.g.mode p == 2 || red) && !q.fault) then (s, false)
      else match n.nextTrack a e w q.trk with
        | none =>
          let m := Net.joinMarks ((List.range w).filterMap fun u => a.head (64 * e + u) n.ac)
          let a := (List.range w).foldl (fun (a : ACtx) u => a.pop (64 * e + u)) a
          let q := { q with trk := 0 }
          (s.updArr h fun _ => ((a.setPort p q).snapPort p q).passMark (elemPt e 0) m n.ac, false)
        | some u =>
          match a.token (64 * e + u) n.ac with
          | none => (s, false)
          | some t =>
            let trk := (u + 1) % w
            if pt.tricks ≤ q.pos then
              (s.updArr h fun _ => ((n.sinkTake a e u).regionErr (n.g.region e) 1).setPort p { q with trk := trk }, true)
            else
              let os := pt.ordinals q.pos q.tok
              let q' := if q.tok + 1 = pt.perTrack w * w then { q with pos := q.pos + 1, tok := 0, trk := trk }
                else { q with tok := q.tok + 1, trk := trk }
              if !t.v || os.isEmpty then (s.updArr h fun _ => (n.sinkTake a e u).setPort p q', true)
              else if red then
                (s.updArr h fun _ => ((n.sinkTake a e u).reduceElems p (n.g e 8 + 65536 * n.g e 9) t os).setPort p q', true)
              else if 65536 < a.held p + os.length * 2 ^ pt.esz then (s, false)
              else
                let r := s.streamAddrs h a p .store (os.map pt.addr)
                match r.2 with
                | none => (r.1, false)
                | some ks => (r.1.updArr h fun a => ((n.sinkTake a e u).writeBehind p pt.esz t ks).setPort p q', true)

/-- STORE_PORT_CONSUME (R324, R325, R347): what a port takes in one ac. It writes to DRAM at a commit alone. -/
def execStorePortConsume (stack port : Nat) (s : State) : Host.Outcome State Fault Refusal :=
  .next (match s.atPort stack (768 + port) with
  | none => s
  | some (h, a, n) =>
    if !a.fresh (64 * (768 + port)) n.ac then s
    else
      let s := s.updArr h fun a => a.fired (64 * (768 + port)) n.ac
      ((List.range (n.g.width port)).foldl (fun (q : State × Bool) _ => if q.2 then q.1.consumeToken stack port else q) (s, true)).1)

/-! ### Copy-fed ports (R323) -/

/-- Gives the first word that waits at a port to a context (R323). A word whose tag no context's port holds sets CHANERR. -/
def State.deliverWord (s : State) (st p : Nat) : State :=
  match FMap.at' [] (s.stk st).inbox p, (s.stk st).ptab.owner (768 + p) with
  | (tag, d) :: rest, some k =>
    let fed := (s.loadedCtxs st k).filter fun h => (s.planeFor h).mode p == 3
    let drop := s.updStk st fun x => { x with inbox := x.inbox.ins p rest }
    match fed.find? fun h => s.planeFor h (768 + p) 2 == tag.toNat with
    | some h =>
      match s.arr h with
      | none => s
      | some a =>
        let q := a.port p
        if 4096 ≤ q.words.length + q.retained.length then s
        else drop.updArr h fun a => a.setPort p { q with words := q.words ++ [d] }
    | none =>
      match (fed.find? s.runs).or fed.head? with
      | some h => drop.updArr h fun a => a.regionErr ((s.planeFor h).region (768 + p)) 2
      | none => drop
  | (_, _) :: rest, none => s.updStk st fun x => { x with inbox := x.inbox.ins p rest }
  | [], _ => s

/-- Emits one token of a copy-fed port. -/
def State.emitWord (s : State) (st p : Nat) : State :=
  match s.atPort st (768 + p) with
  | none => s
  | some (h, a, n) =>
    let q := a.port p
    let wc := n.g.wcount p
    match q.words with
    | [] => s
    | d :: ds =>
      if !(n.g.mode p == 3 && s.runs h && a.fresh (64 * (768 + p)) n.ac && n.emitRoom a (768 + p) 0
          && (q.tok != 0 || (wc ≤ q.words.length && n.mayStart a p))) then s
      else
        let last := q.tok + 1 == wc
        let tok : Tok := { data := d, sot := q.tok == 0, eot := last, gen := a.gen, ctx := h.c }
        let q' := { q with words := ds, retained := q.retained ++ [d], tok := if last then 0 else q.tok + 1
                           pos := if last then q.pos + 1 else q.pos, since := if last then q.since + 1 else q.since }
        s.updArr h fun a => (n.emit (a.fired (64 * (768 + p)) n.ac) (768 + p) 0 (s.ac + 1) tok).setPort p q'

/-- COPY_FED_WORD (R323): a word comes in, and a token goes out. -/
def execCopyFedWord (stack port : Nat) (s : State) : Host.Outcome State Fault Refusal :=
  .next ((s.deliverWord stack port).emitWord stack port)

/-! ### Bank gates (R329) -/

/-- A gate takes its next token or marker. -/
def Net.gateTake (n : Net) (a : ACtx) (i : Nat) : Option ACtx :=
  let e := 864 + i
  match a.head (64 * e) n.ac with
  | none => none
  | some t =>
    if !(n.g.gateOn i && a.fresh (64 * e) n.ac) then none
    else if t.mark then some (((a.pop (64 * e)).fired (64 * e) n.ac).passMark (elemPt e 0) t n.ac)
    else if 64 ≤ a.gateHeld i then none
    else
      let key := 64 * a.roundAt (elemPt e 0) + i
      let b := (n.sinkTake a e 0).fired (64 * e) n.ac
      if !t.v then some b
      else if bits t.data 20 12 ≠ 0 then some (b.regionErr (n.g.region e) 1)
      else if t.psn then some b
      else some { b with gates := b.gates.ins key (FMap.at' [] b.gates key ++ [t]) }

/-- GATE_TOKEN (R329). -/
def execGateToken (stack gate : Nat) (s : State) : Host.Outcome State Fault Refusal :=
  .next (s.netStep stack (864 + gate) fun n a => (n.gateTake a gate).map fun a => (a, 0))

/-! ### Markers of the sources (R334, R341) -/

/-- The marker of a round (R314). -/
def markTok (h : ArrH) (a : ACtx) (round : Nat) (final preempt : Bool) : Tok :=
  { data := BitVec.ofNat 64 (round % 2 ^ 32 + if final then 2 ^ 32 else 0), v := false, mark := true, preempt := preempt
    gen := a.gen, ctx := h.c }

/-- A source at the end of a trick injects the marker that it owes, on every track (R334). A port in weight mode injects none. -/
def Net.inject (n : Net) (h : ArrH) (a : ACtx) (p : Nat) : Option ACtx :=
  let q := a.port p
  let w := if n.g.mode p = 3 then 1 else n.g.width p
  if !(q.tok == 0 && !q.fault && a.fresh (64 * (768 + p)) n.ac && n.markDue a p && (List.range w).all fun t => n.emitRoom a (768 + p) t) then none
  else
    let fin := n.finished a p
    let wv := match a.wave with
      | some v => { v with final := v.final && fin }
      | none => { round := a.round + 1, final := fin, preempt := n.askedOut a, since := n.ac }
    let tok := markTok h a wv.round fin wv.preempt
    let q := { q with since := 0 }
    let a := { ((a.setPort p q).fired (64 * (768 + p)) n.ac) with wave := some wv }
    let a := (a.snapPort p { q with words := q.retained, retained := [], fetched := [] }).passMark (elemPt (768 + p) 0) tok n.ac
    some ((List.range w).foldl (fun (a : ACtx) t => n.emit a (768 + p) t (n.ac + 1) tok) a)

/-- Every source of a configuration that holds its element injects what it owes. -/
def State.injectAll (s : State) (h : ArrH) : State :=
  (s.net h).sources.foldl (fun (s : State) p =>
    match s.atPort h.st (768 + p) with
    | none => s
    | some (h', a, n) =>
      if h' = h ∧ s.runs h then (match n.inject h a p with | some a => s.updArr h fun _ => a | none => s) else s) s

/-- MARKER_INJECT (R334, R341): the sources of the running context. A successor that is spliced onto it injects once it has the
context (R333). -/
def execMarkerInject (stack part : Nat) (s : State) : Host.Outcome State Fault Refusal :=
  .next (match ((s.stk stack).parts.fetch part).bind fun p => p.running with
  | none => s
  | some c => s.injectAll (hctx stack part c))

end Sys2Proof.Machine
end

