-- ==== Sys2Proof/Machine/Bank.lean ====
section
/-! DEFINITION. Near-bank operations (R311 to R313, R345, R346, R367 to R370): rows, microprogram words, gate operations, `bnkop`,
its run and its combine. -/
namespace Sys2Proof.Machine

/-- Address of a row: stack, row, bank, pseudo-channel (R345). -/
def rowPa (st row bank pch : Nat) : Nat := st * 2 ^ 36 + row * 2 ^ 22 + bank * 2 ^ 18 + pch * 2 ^ 10

/-- Some line of a row reads poisoned, or the row is marked failed (R346, R362). -/
def State.rowBad (s : State) (pa : Nat) : Option Nat := ((List.range 8).map fun i => pa / 128 + i).find? s.poisoned

def State.readRow (s : State) (pa : Nat) : State × BitVec 8192 := let r := s.readDram pa 1024; (r.1, BitVec.ofNat 8192 r.2)
def State.writeRow (s : State) (pa : Nat) (v : BitVec 8192) : State := s.writeDram pa (toBytes 1024 v.toNat)

/-- A bit column set to a value. -/
def setCol (r : BitVec 8192) (c : Nat) (b : Bool) : BitVec 8192 :=
  let m := BitVec.ofNat 8192 (2 ^ c)
  if b then r ||| m else r &&& ~~~m

/-- A row built from its columns. -/
def ofCols (f : Nat → Bool) : BitVec 8192 :=
  BitVec.ofNat 8192 ((List.range 8192).foldl (fun n c => if f c then n + 2 ^ c else n) 0)

/-- A 32-bit word of a row replaced. -/
def setRowWord (r : BitVec 8192) (i : Nat) (v : W32) : BitVec 8192 :=
  (r &&& ~~~(BitVec.ofNat 8192 (0xFFFFFFFF * 2 ^ (32 * i)))) ||| BitVec.ofNat 8192 (v.toNat * 2 ^ (32 * i))

/-- A gate operation on a row (R370). -/
def gateRow (op : Nat) (v : W32) (r : BitVec 8192) : BitVec 8192 :=
  match op with
  | 0x30 => setCol r (bits v 0 13) true
  | 0x31 => setCol r (bits v 0 13) false
  | 0x32 => setRowWord r (bits v 0 8) (BitVec.ofNat 32 (bits r (32 * bits v 0 8) 32) + 1)
  | _ => BitVec.ofNat 8192 ((List.range 256).foldl (fun n i => n + v.toNat * 2 ^ (32 * i)) 0)

/-! ### Microprogram words -/

def opcOf (w : W64) : Nat := bits w 58 6
def rdOf (w : W64) : Nat := bits w 44 14
def raOf (w : W64) : Nat := bits w 30 14
def rbOf (w : W64) : Nat := bits w 16 14
def nOf (w : W64) : Nat := bits w 10 6

/-- The rows that a word names: destinations, then sources (R368). -/
def wordRows (w : W64) : List Nat × List Nat :=
  let d := rdOf w
  let a := raOf w
  let b := rbOf w
  let n := nOf w
  match opcOf w with
  | 0x00 => ([], [])
  | 0x01 | 0x06 => (keysFrom d n, keysFrom a n)
  | 0x09 => (keysFrom d n, [])
  | 0x0A => ([d], keysFrom a n ++ keysFrom b n)
  | 0x0B => (keysFrom d 32, keysFrom d 32 ++ keysFrom a 8)
  | 0x0C | 0x0D => (keysFrom d 32, keysFrom a 32)
  | _ => (keysFrom d n, keysFrom a n ++ keysFrom b n)

/-- A word obeys R367 and R368, but for the range of its rows. -/
def wordOk (w : W64) : Bool :=
  let n := nOf w
  let width := 1 ≤ n && n ≤ 32
  bits w 0 10 == 0 &&
    match opcOf w with
    | 0x00 => w == 0
    | 0x01 | 0x06 => width && rbOf w == 0
    | 0x02 | 0x03 | 0x04 | 0x05 | 0x07 | 0x08 | 0x0A => width
    | 0x09 => width && raOf w == 0
    | 0x0B => n == 0 && rbOf w < 256
    | 0x0C => n == 0 && rbOf w < 255
    | 0x0D => n == 0 && rbOf w == 0 && (rdOf w + 32 ≤ raOf w || raOf w + 32 ≤ rdOf w)
    | _ => false

/-- The banks of a range, each with the rows it holds, ascending. A bank is 256 times the bank number plus the pseudo-channel; a
page of 64 KiB holds one row of 64 pseudo-channels (R31, R345, R367). -/
def BankOp.sites (b : BankOp) : FMap (List Nat) :=
  let m : FMap (List Nat) := b.pages.foldl (fun m p => (List.range 64).foldl (fun m i =>
    let q := p % 2 ^ 36 + 1024 * i
    FMap.ins m (q / 2 ^ 10 % 4096) (q / 2 ^ 22 :: FMap.at' [] m (q / 2 ^ 10 % 4096))) m) []
  m.map fun (x : Nat × List Nat) => (x.1, sortBy (fun a b => decide (a ≤ b)) x.2.dedup)

/-- The operation touches a row of its stack, named as `rowOfPa` numbers it (R345, R362, R367): some word names it in its bank. -/
def BankOp.touches (b : BankOp) (row : Nat) : Bool :=
  let rows := FMap.at' [] b.sites (row % 4096)
  b.words.any fun w =>
    let named := (wordRows w).1 ++ (wordRows w).2
    named.all (fun k => decide (k < rows.length)) && named.any fun k => rows[k]? == some (row / 4096)

/-- The rows of the largest bank of a range. -/
def BankOp.depth (b : BankOp) : Nat := b.sites.foldl (fun n x => max n x.2.length) 0

/-! ### Vertical values: the rows of a value, lowest bit first (R345) -/

abbrev Rows := List (BitVec 8192)

def Rows.row (v : Rows) (i : Nat) : BitVec 8192 := v.getD i 0

/-- Sum of two values of n bits with a carry in, and the carry out. -/
def Rows.add (a b : Rows) (cy : BitVec 8192) (n : Nat) : Rows × BitVec 8192 :=
  (List.range n).foldl (fun (q : Rows × BitVec 8192) i =>
    let x := a.row i
    let y := b.row i
    (q.1 ++ [x ^^^ y ^^^ q.2], (x &&& y) ||| (x &&& q.2) ||| (y &&& q.2))) ([], cy)

def Rows.compl (a : Rows) : Rows := a.map fun r => ~~~r

/-- Difference of two values of n bits, and the carry out. -/
def Rows.sub (a b : Rows) (n : Nat) : Rows × BitVec 8192 := a.add b.compl (BitVec.allOnes 8192) n

/-- A value extended by its sign to n bits. -/
def Rows.sext (a : Rows) (n : Nat) : Rows := (List.range n).map fun i => if i < a.length then a.row i else a.getLastD 0

/-- The value in a column. -/
def Rows.col (a : Rows) (c : Nat) : Nat := ((List.range a.length).filter fun i => bit (a.row i) c).foldl (fun n i => n + 2 ^ i) 0

/-- A value of n bits from its columns. -/
def Rows.ofCol (n : Nat) (f : Nat → Nat) : Rows :=
  (List.range n).map fun i => ofCols fun c => f c / 2 ^ i % 2 == 1

/-- A value times a signed constant, 32 bits (R368). -/
def Rows.mul (a : Rows) (k : Int) : Rows :=
  let m := wrapInt 32 k
  (List.range 32).foldl (fun (t : Rows) i =>
    if m / 2 ^ i % 2 = 1 then (t.add (List.replicate i 0 ++ a) 0 32).1 else t) (List.replicate 32 0)

/-- CVTF of one column (R368). -/
def cvtfCol (v e : Nat) : Nat :=
  let x := sextNat 32 v
  (roundFp .f32 .rne 0 false false (.fin (x < 0) x.natAbs ((e : Int) - 127))).1

/-- What a word writes, from its source rows, and the carry row after it (R368). -/
def wordEffect (w : W64) (row : Nat → BitVec 8192) : Rows × BitVec 8192 :=
  let n := nOf w
  let val := fun (r m : Nat) => ((List.range m).map fun i => row (r + i) : Rows)
  let a := val (raOf w) n
  let b := val (rbOf w) n
  let zip := fun (f : BitVec 8192 → BitVec 8192 → BitVec 8192) => ((List.range n).map fun i => f (Rows.row a i) (Rows.row b i) : Rows)
  match opcOf w with
  | 0x01 => (a, 0)
  | 0x02 => (zip (· &&& ·), 0)
  | 0x03 => (zip (· ||| ·), 0)
  | 0x04 => (zip (· ^^^ ·), 0)
  | 0x05 => (zip fun x y => x &&& ~~~y, 0)
  | 0x06 => (Rows.compl a, 0)
  | 0x07 => Rows.add a b 0 n
  | 0x08 => Rows.sub a b n
  | 0x09 => ((List.range n).map fun i => if bit w (16 + min i 13) then BitVec.allOnes 8192 else 0, 0)
  | 0x0A => let d := Rows.sub (Rows.sext a (n + 1)) (Rows.sext b (n + 1)) (n + 1); ([Rows.row d.1 n], d.2)
  | 0x0B => Rows.add (val (rdOf w) 32) (Rows.mul (Rows.sext (val (raOf w) 8) 32) (sextNat 8 (rbOf w))) 0 32
  | 0x0C => (Rows.ofCol 32 fun c => cvtfCol (Rows.col (val (raOf w) 32) c) (rbOf w % 256), 0)
  | 0x0D =>
    ((List.range 32).map fun r =>
      BitVec.ofNat 8192 ((List.range 256).foldl (fun n j => n + Rows.col (val (raOf w) 32) (256 * r + j) * 2 ^ (32 * j)) 0), 0)
  | _ => ([], 0)

/-! ### Running a microprogram -/

/-- One word in one bank: nothing where a row it names is missing; a bad row makes its number the second answer (R346, R367). -/
def State.bankSite (s : State) (st : Nat) (w : W64) (site : Nat) (rows : List Nat) : State × Option Nat × List Nat :=
  let named := wordRows w
  let pa := fun k => rowPa st (rows.getD k 0) (site / 256) (site % 256)
  if (named.1 ++ named.2).any fun k => rows.length ≤ k then (s, none, [])
  else match (named.1 ++ named.2).findSome? fun k => s.rowBad (pa k) with
    | some l => (s, some l, [])
    | none =>
      let r := named.2.foldl (fun (q : State × FMap (BitVec 8192)) k =>
        if (q.2.fetch k).isSome then q else let x := q.1.readRow (pa k); (x.1, q.2.ins k x.2)) (s, [])
      let e := wordEffect w fun k => FMap.at' 0 r.2 k
      let s := ((named.1).zip e.1).foldl (fun s q => s.writeRow (pa q.1) q.2) r.1
      let s := s.updStk st fun x =>
        { x with cy := FMap.put 0 x.cy site e.2
                 latchA := (match named.2 with | [] => x.latchA | k :: _ => FMap.put 0 x.latchA site (FMap.at' 0 r.2 k))
                 latchB := FMap.put 0 x.latchB site (FMap.at' 0 r.2 (named.2.getLastD 0)) }
      (s, none, named.1.map pa)

/-- Lines of a row. -/
def rowLines (pa : Nat) : List Nat := (List.range 8).map fun i => pa / 128 + i

/-- One word on every bank of the range (R345, R367). A bad row ends the run, poisoned, with a record (R312, R346). -/
def State.bankWord (s : State) (st : Nat) (w : W64) (b : BankOp) : State :=
  let r := b.sites.foldl (fun (q : State × Option Nat × List Nat) x =>
    let t := q.1.bankSite st w x.1 x.2
    (t.1, (match q.2.1 with | some l => some l | none => t.2.1), q.2.2 ++ t.2.2)) (s, none, [])
  let s := r.1
  let sig := (r.2.2.flatMap rowLines).foldl (fun g l => sigInsert g (s.lineKey l)) b.sig
  let b := { b with sig := sig, wrote := b.wrote ++ r.2.2.filter fun p => !b.wrote.contains p }
  match r.2.1 with
  | none => s.updStk st fun x => { x with bankRun := some { b with idx := b.idx + 1 } }
  | some l =>
    (s.poisonRead (nearDie st) 3 (BitVec.ofNat 32 st) b.tag l).updStk st fun x =>
      { x with bankRun := some { b with idx := b.words.length, poisoned := true } }

/-- A microprogram operation, when it is the running program's next word. -/
def bankStep (st : Nat) (w : W64) (s : State) : Host.Outcome State Fault Refusal :=
  .next (match (s.stk st).bankRun with
  | none => s
  | some b => if b.words[b.idx]? = some w then s.bankWord st w b else s)

/-- An operation word (R367). -/
def opWord (opc rd ra rb n : Nat) : W64 :=
  BitVec.ofNat 64 (opc % 64 * 2 ^ 58 + rd % 16384 * 2 ^ 44 + ra % 16384 * 2 ^ 30 + rb % 16384 * 2 ^ 16 + n % 64 * 2 ^ 10)

/-- NOP (R368). -/
def execBankNop (stack : Nat) (s : State) : Host.Outcome State Fault Refusal := bankStep stack 0 s
/-- COPY (R368). -/
def execBankCopy (stack rd ra n : Nat) (s : State) : Host.Outcome State Fault Refusal := bankStep stack (opWord 0x01 rd ra 0 n) s
/-- AND (R368). -/
def execBankAnd (stack rd ra rb n : Nat) (s : State) : Host.Outcome State Fault Refusal := bankStep stack (opWord 0x02 rd ra rb n) s
/-- OR (R368). -/
def execBankOr (stack rd ra rb n : Nat) (s : State) : Host.Outcome State Fault Refusal := bankStep stack (opWord 0x03 rd ra rb n) s
/-- XOR (R368). -/
def execBankXor (stack rd ra rb n : Nat) (s : State) : Host.Outcome State Fault Refusal := bankStep stack (opWord 0x04 rd ra rb n) s
/-- ANDN (R368). -/
def execBankAndn (stack rd ra rb n : Nat) (s : State) : Host.Outcome State Fault Refusal := bankStep stack (opWord 0x05 rd ra rb n) s
/-- NOT (R368). -/
def execBankNot (stack rd ra n : Nat) (s : State) : Host.Outcome State Fault Refusal := bankStep stack (opWord 0x06 rd ra 0 n) s
/-- ADD (R368). -/
def execBankAdd (stack rd ra rb n : Nat) (s : State) : Host.Outcome State Fault Refusal := bankStep stack (opWord 0x07 rd ra rb n) s
/-- SUB (R368). -/
def execBankSub (stack rd ra rb n : Nat) (s : State) : Host.Outcome State Fault Refusal := bankStep stack (opWord 0x08 rd ra rb n) s
/-- SETC (R368). -/
def execBankSetc (stack rd imm n : Nat) (s : State) : Host.Outcome State Fault Refusal := bankStep stack (opWord 0x09 rd 0 imm n) s
/-- LT (R368). -/
def execBankLt (stack rd ra rb n : Nat) (s : State) : Host.Outcome State Fault Refusal := bankStep stack (opWord 0x0A rd ra rb n) s
/-- MAC8 (R368). -/
def execBankMac8 (stack rd ra imm : Nat) (s : State) : Host.Outcome State Fault Refusal := bankStep stack (opWord 0x0B rd ra imm 0) s
/-- CVTF (R368). -/
def execBankCvtf (stack rd ra imm : Nat) (s : State) : Host.Outcome State Fault Refusal := bankStep stack (opWord 0x0C rd ra imm 0) s
/-- XPOSE (R368). -/
def execBankXpose (stack rd ra : Nat) (s : State) : Host.Outcome State Fault Refusal := bankStep stack (opWord 0x0D rd ra 0 0) s

/-- The event that runs a word. -/
def bankInstr (st : Nat) (w : W64) : Instr :=
  let d := rdOf w
  let a := raOf w
  let b := rbOf w
  let n := nOf w
  match opcOf w with
  | 0x01 => .bankCopy st d a n | 0x02 => .bankAnd st d a b n | 0x03 => .bankOr st d a b n | 0x04 => .bankXor st d a b n
  | 0x05 => .bankAndn st d a b n | 0x06 => .bankNot st d a n | 0x07 => .bankAdd st d a b n | 0x08 => .bankSub st d a b n
  | 0x09 => .bankSetc st d b n | 0x0A => .bankLt st d a b n | 0x0B => .bankMac8 st d a b | 0x0C => .bankCvtf st d a b
  | 0x0D => .bankXpose st d a | _ => .bankNop st

/-! ### The combine (R313) -/

/-- Physical address of a byte of a range whose 64 KiB pages are known. -/
def pageByte (pages : List Nat) (va : W64) (i : Nat) : Nat :=
  pages.getD ((va.toNat % 65536 + i) / 65536) 0 + (va.toNat + i) % 65536

/-- STATUS of a join barrier, as a unit reads it under a tag (R277). -/
def State.joinStatus (s : State) (d tag : Nat) (join : W64) : State × Nat :=
  let r := s.unitRead d tag (join + 0x10) 4
  (r.1, match r.2 with | .bytes bs => ofBytes bs % 4 | _ => 0)

/-- The elements of the combine, or the first bad line: a line of CBUF or of the result that reads poisoned, or a line of COUT in a
row that is marked failed (R346, R362). -/
def State.combine (s : State) (b : BankOp) : State × Option Nat :=
  let groups := List.range b.clen
  let lines := groups.flatMap fun i => [pageByte b.cbuf b.cbufVa (128 * i) / 128, pageByte b.res 0 (128 * i) / 128]
  let outs := groups.map fun i => pageByte b.cout b.coutVa (128 * i) / 128
  match (lines.filter s.poisoned ++ outs.filter s.failedLine).head? with
  | some l => (s, some l)
  | none =>
    ((List.range (32 * b.clen)).foldl (fun (s : State) i =>
      let l := s.readDram (pageByte b.cbuf b.cbufVa (4 * i)) 4
      let r := l.1.readDram (pageByte b.res 0 (4 * i)) 4
      r.1.writeDram (pageByte b.cout b.coutVa (4 * i)) (toBytes 4 (addF32 l.2 r.2))) s, none)

/-- The oldest combine whose JOIN barrier has a status (R313), with that status. -/
def State.dueCombine (s : State) (stack : Nat) : State × Option (BankOp × Nat) :=
  (s.stk stack).combines.foldl (fun (q : State × Option (BankOp × Nat)) b =>
    match q.2 with
    | some _ => q
    | none =>
      let t := q.1.joinStatus (nearDie stack) b.tag b.join
      (t.1, if t.2 = 0 then none else some (b, t.2))) (s, none)

/-- A combine acts on the status of its JOIN barrier (R313). -/
def State.combineActs (s : State) (stack : Nat) (b : BankOp) (status : Nat) : State :=
  let d := nearDie stack
  let s := s.updStk stack fun x => { x with combines := x.combines.erase b }
  let done := fun (s : State) (poison : Bool) (sig : Sig) => s.arrive d 4 b.tag b.cjoin b.scope poison sig 6 0 (dieAnchor d)
  if status ≠ 1 then done s true 0
  else
    let t := s.combine b
    match t.2 with
    | some l => done (s.poisonRead d 3 (BitVec.ofNat 32 stack) b.tag l) true 0
    | none =>
      let sig := (List.range b.clen).foldl (fun g i => sigInsert g (t.1.lineKey (pageByte b.cout b.coutVa (128 * i) / 128))) 0
      done t.1 false sig

/-- BANK_COMBINE (R313). -/
def execBankCombine (stack : Nat) (s : State) : Host.Outcome State Fault Refusal :=
  .next (if (s.stk stack).bankRun.isSome then s
  else
    let r := s.dueCombine stack
    match r.2 with
    | none => r.1
    | some (b, status) => r.1.combineActs stack b status)

/-- BANK_RUN (R312, R345): the next accepted operation starts with clear latches, after every combine whose barrier has a status
(R313); a run whose words are done drops the home's copies of its rows, arrives at JOIN, and leaves its combine waiting. -/
def execBankRun (stack : Nat) (s : State) : Host.Outcome State Fault Refusal :=
  let x := s.stk stack
  .next (match x.bankRun with
  | some b =>
    if b.idx < b.words.length then s
    else
      let s := b.wrote.foldl (fun s p => (rowLines p).foldl State.dropCopies s) s
      let s := s.updStk stack fun x => { x with bankRun := none, combines := if b.cbuf.isEmpty then x.combines else x.combines ++ [b] }
      s.arrive (nearDie stack) 4 b.tag b.join b.scope b.poisoned b.sig 6 0 (dieAnchor (nearDie stack))
  | none =>
    match x.bankq with
    | [] => s
    | b :: q =>
      let r := s.dueCombine stack
      match r.2 with
      | some (c, status) => r.1.combineActs stack c status
      | none => r.1.updStk stack fun x => { x with bankq := q, bankRun := some b, latchA := [], latchB := [], cy := [] })

/-! ### bnkop -/

/-- What a form takes first, where several of its reads and translations fail (R288). -/
def Read.first (rs : List Read) : Read := rs.foldl (fun a b => if b.rank < a.rank then b else a) (.bytes [])

/-- How the translation of an access ends, as a read. -/
def Keys.read : Keys → Read
  | .keys _ => .bytes []
  | .fault fi => .fault { fi with kind := .desc }
  | .wait why => .wait why

/-- The 64 KiB pages of a range, as physical addresses, and how their translations end (R312); an empty range has none. -/
def State.rangePages (s : State) (x : Ctx) (va : W64) (n : Nat) : State × List Nat × Read :=
  let first := va.toNat / 65536
  let count := if n = 0 then 0 else (va.toNat % 65536 + n + 65535) / 65536
  (List.range count).foldl (fun (q : State × List Nat × Read) i =>
    let r := q.1.waveKeys x .atomic (BitVec.ofNat 64 ((first + i) * 65536)) 1
    (r.1, (match r.2 with | .keys ks => q.2.1 ++ ks | _ => q.2.1), Read.first [q.2.2, r.2.read])) (s, [], .bytes [])

/-- The fields of a descriptor of R311 that can be malformed. -/
def bankDescOk (bs : List W8) : Bool :=
  let f := fun o n => field bs o n
  f 0 8 % 64 == 0 && f 8 8 % 65536 == 0 && f 0x10 8 != 0 && f 0x10 8 % 65536 == 0 && f 0x18 8 % 64 == 0 && f 0x20 8 % 128 == 0
    && f 0x28 8 % 128 == 0 && f 0x30 8 % 64 == 0 && 1 ≤ f 0x38 2 && f 0x38 2 ≤ 1024 && f 0x3A 1 ≤ 11 && 3 ≤ f 0x3B 1
    && f 0x3B 1 ≤ 6 && 1 ≤ f 0x3C 2

/-- A list of pages lies in a stack of this device. -/
def inStack (st : Nat) (ps : List Nat) : Bool := ps.all fun p => homeOf p == .here && stackOf p == st

/-- One performance of `bnkop` (R311 to R313). -/
def State.bnkopAt (s : State) (x : Ctx) : Perf :=
  let va := x.w.sreg x.f.a.num.toNat
  s.withDesc x va 64 fun bs s =>
    let status := fun (s : State) (n : Nat) => Perf.done (s.putField x (va + 0x3E) (toBytes 2 n))
    let w := fun o => BitVec.ofNat 64 (field bs o 8)
    let n := field bs 0x38 2
    let st := field bs 0x3A 1
    let clen := field bs 0x3C 2
    let comb := w 0x20 != 0
    if !bankDescOk bs then status s 1
    else
      let r := s.readDesc x .desc (w 0) (8 * n)
      let words := match r.2 with
        | .bytes pb => (List.range n).map fun i => BitVec.ofNat 64 (field pb (8 * i) 8)
        | _ => []
      if !words.all wordOk then status r.1 1
      else
        let q := r.1.rangePages x (w 8) (field bs 0x10 8)
        let q2 := q.1.rangePages x (w 8) (if comb then 128 * clen else 0)
        let q3 := q2.1.rangePages x (w 0x20) (if comb then 128 * clen else 0)
        let q4 := q3.1.rangePages x (w 0x28) (if comb then 128 * clen else 0)
        (Read.first [r.2, q.2.2, q2.2.2, q3.2.2, q4.2.2]).andThen q4.1 fun _ s =>
          let b : BankOp := { words := words, pages := q.2.1, res := q2.2.1, cbuf := q3.2.1, cout := q4.2.1, cbufVa := w 0x20
                              coutVa := w 0x28, join := w 0x18, cjoin := w 0x30, scope := field bs 0x3B 1, clen := clen, tag := x.w.tag }
          if !inStack st (b.pages ++ b.res ++ b.cbuf ++ b.cout) then status s 2
          else if words.any fun v => ((wordRows v).1 ++ (wordRows v).2).any fun k => b.depth ≤ k then status s 1
          else status (s.updStk st fun y => { y with bankq := y.bankq ++ [b] }) 0

/-- `bnkop` (R311 to R313). -/
def execBnkop (f : F) (s : State) : Host.Outcome State Fault Refusal :=
  issue (.bnkop f) s fun x s => s.engineForm x (.bnkop f) fun x s => s.bnkopAt x

end Sys2Proof.Machine
end

