-- ==== Sys2Proof/Machine/ArrayRun.lean ====
section
/-! DEFINITION. The running of array contexts (R330 to R341): predicates, trick boundaries and plane changes, splicing, commits
and marker stalls, the command area (R406), and `alaunch` and `asplice` (R306 to R308, R349 to R351, R373). -/
namespace Sys2Proof.Machine

/-! ### The scheduler of a partition (R331, R332) -/

/-- The predicate of a loaded context (R331). A read port that has no next trick asks for none (log entry 43). -/
def Net.predicate (n : Net) (a : ACtx) : Bool :=
  a.moves && !a.preemptReq && (n.ports 1).all (n.fetchedNext a)
    && (n.ports 3).all (fun p => n.g.wcount p ≤ (a.port p).words.length)
    && (n.ports 2).all (fun p => a.held p ≤ 32768) && (List.range 64).all fun g => !(n.t.gate n.k g && n.g.gateOn g) || a.gateHeld g ≤ 32

/-- Priority of a context (R358). -/
def State.ctxPrio (s : State) (st k c : Nat) : Nat := (s.stk st).field k c 1008 0 % 4

/-- A context is eligible. -/
def State.eligible (s : State) (st k c : Nat) : Bool :=
  match s.arr (hctx st k c) with
  | none => false
  | some a => (s.net (hctx st k c)).predicate a

/-- A context that a pre-emption is requested for, and which must run to its next boundary to inject its marker. -/
def State.wantsOut (s : State) (st k c : Nat) : Bool :=
  match s.arr (hctx st k c) with | none => false | some a => a.moves && a.preemptReq

/-- The context that a scheduler chooses (R331): after the one that ran last, among those of highest priority. -/
def State.chooseNew (s : State) (st k last : Nat) : Option Nat :=
  let order := (List.range 4).map fun i => (last + 1 + i) % 4
  match order.find? (s.wantsOut st k) with
  | some c => some c
  | none =>
    let es := order.filter (s.eligible st k)
    let top := es.foldl (fun n c => max n (s.ctxPrio st k c)) 0
    es.find? fun c => s.ctxPrio st k c == top

/-- Gives the partition to a context, or to none. -/
def State.setRunning (s : State) (st k : Nat) (c : Option Nat) : State :=
  s.updStk st fun x =>
    let p := FMap.at' {} x.parts k
    { x with parts := x.parts.ins k { p with running := c, tricks := 0, last := c.getD p.last } }

/-- Tricks that the sources of a context have emitted. -/
def Net.progress (n : Net) (a : ACtx) : Nat := n.sources.foldl (fun m p => max m (a.port p).pos) 0

/-- The context stands at a trick boundary at which nothing is owed to a marker wave (R330, R334). -/
def Net.atBoundary (n : Net) (a : ACtx) : Bool :=
  n.sources.all (fun p => (a.port p).tok == 0 && ((a.port p).fault || !n.markDue a p))
    && (a.wave.isNone || n.sources.all fun p => a.injected p)

/-- No source of a successor that is spliced onto a context stands within a trick (R330, R333). -/
def State.succAtBoundary (s : State) (h : ArrH) : Bool :=
  match s.arr (hsucc h.st h.k h.c) with
  | none => true
  | some b => (s.net (hsucc h.st h.k h.c)).sources.all fun p => (b.port p).tok == 0

/-- TRICK_BOUNDARY (R331): the scheduler acts at a boundary of the running context. -/
def execTrickBoundary (stack part : Nat) (s : State) : Host.Outcome State Fault Refusal :=
  .next (match s.stk stack |>.parts.fetch part with
  | none => s
  | some p =>
    match p.running with
    | none => s
    | some c =>
      let h := hctx stack part c
      match s.arr h with
      | none => s.setRunning stack part none
      | some a =>
        let n := s.net h
        if !(n.atBoundary a && s.succAtBoundary h) then s
        else
          let ran := p.tricks + (n.progress a - a.bcount)
          let s := (s.updArr h fun a => { a with bcount := n.progress a }).updStk stack fun x =>
            { x with parts := x.parts.ins part { p with tricks := ran } }
          let tq := (s.stk stack).field 0 0 1010 (16 * part + 12)
          let others := (List.range 4).filter fun d => d != c && s.eligible stack part d
          let mine := s.ctxPrio stack part c
          let stays := s.wantsOut stack part c ||
            (s.eligible stack part c && others.all (fun d => s.ctxPrio stack part d ≤ mine)
              && !(List.range 4).any (s.wantsOut stack part)
              && (tq == 0 || ran < tq || others.all fun d => s.ctxPrio stack part d != mine))
          if stays then s else s.setRunning stack part (s.chooseNew stack part c))

/-- PREDICATE_TRUE (R331): an idle partition takes up a context whose predicate has become true. -/
def execPredicateTrue (stack part : Nat) (s : State) : Host.Outcome State Fault Refusal :=
  let p := FMap.at' {} (s.stk stack).parts part
  .next (match p.running with
  | some _ => s
  | none => match s.chooseNew stack part p.last with | some c => s.setRunning stack part (some c) | none => s)

/-- The function of an element that takes the tokens of a slot: the outputs of a router's incoming track, of its PE or of its
operator (R352). -/
def outputsOf (f : Nat) : List Nat :=
  if f < 24 then [f] else if f ≤ 0x23 then [17] else [18, 19]

/-- The slots to which the tokens of a slot, or what an element makes of them, go next on the configured routes. -/
def Net.after (n : Net) (slot : Nat) : List Nat :=
  let e := slot / 64
  if e < 768 then
    ((outputsOf (slot % 64)).flatMap (n.fan e)).filterMap fun f => match (n.dest e f).1 with | .slot q => some q | .guard => none
  else if 832 ≤ e ∧ e < 864 then [64 * taker e + 20]
  else []

/-- The slots that the tokens of some slots can still reach, with those slots. -/
def Net.downstream (n : Net) : Nat → List Nat → List Nat → List Nat
  | 0, _, seen => seen
  | q + 1, front, seen =>
    let next := ((front.flatMap n.after).dedup).filter fun e => !seen.contains e
    if next.isEmpty then seen else Net.downstream n q next (seen ++ next)

/-- The element from which the tokens at a slot come. -/
def senderOf (slot : Nat) : Nat :=
  let e := slot / 64
  let f := slot % 64
  if 768 ≤ e then feeder e
  else if 1 ≤ f ∧ f ≤ 16 then (neighbour e ((f - 1) / 4)).getD e
  else if 20 ≤ f ∧ f < 24 then (attFrom e).getD e
  else e

/-- The elements that hold a token of a configuration: at an input, or in a pipeline from which it has not come out yet (R317). -/
def ACtx.holding (a : ACtx) (ac : Nat) : List Nat :=
  (a.bufs.flatMap fun (q : Nat × List (Nat × Tok)) =>
    if q.2.isEmpty then [] else (q.1 / 64) :: if q.2.any fun x => ac < x.1 then [senderOf q.1] else []).dedup

/-- The slots at which a configuration has tokens, those still in a pipeline among them. -/
def ACtx.slots (a : ACtx) : List Nat := (a.bufs.filter fun (q : Nat × List (Nat × Tok)) => !q.2.isEmpty).map fun q => q.1

/-- The last token of a context has left an element: it holds none, and none can reach it any more on the routes of the
configuration, so that it has emitted EOT on every output that is to carry one (R332). -/
def State.leftBy (s : State) (st k c e : Nat) : Bool :=
  [hctx st k c, hsucc st k c].all fun h =>
    match s.arr h with
    | none => true
    | some a =>
      !(a.holding s.ac).contains e && ((s.net h).downstream (64 * 928) a.slots a.slots).all fun q => q / 64 != e

/-- PLANE_CHANGE (R332): an element takes the plane of the running context once the last token of the outgoing context has left
it. The sources of the outgoing context have stopped at its boundary. -/
def execPlaneChange (stack part elem : Nat) (s : State) : Host.Outcome State Fault Refusal :=
  let x := s.stk stack
  .next (match (x.parts.fetch part).bind fun p => p.running with
  | none => s
  | some c =>
    if !x.ptab.owns part elem then s
    else match x.plane.fetch elem with
      | none => s.setStk stack { x with plane := x.plane.ins elem c }
      | some o => if o != c && s.leftBy stack part o elem then s.setStk stack { x with plane := x.plane.ins elem c } else s)

/-! ### Splicing (R333) -/

/-- The points of an element that a marker passes: its functions, and the tracks that it drives. -/
def Net.points (n : Net) (e : Nat) : List Nat :=
  if e < 768 then
    (if n.g.pe e then [elemPt e 17] else []) ++ (if n.g.oper e = 0 then [] else [elemPt e 18])
      ++ (srcFields.filter fun f => n.g.srcOf e f != 0).map fun f => trackPt e f
  else if e < 832 then
    match n.g.mode (e - 768) with
    | 0 => []
    | 5 => []
    | _ => [elemPt e 0]
  else if e < 864 then (if n.g.fmt (e - 832) = 0 then [] else [elemPt e 0])
  else if n.g.gateOn (e - 864) then [elemPt e 0] else []

/-- The elements' own points, without the tracks (R336). -/
def Net.functionPoints (n : Net) : List Nat := ((n.t.elems n.k).flatMap n.points).filter fun pt => 65536 ≤ pt

/-- No token or marker of a round hops on: every marker has left the tracks between routers (R336, R448). -/
def Net.tracksClear (n : Net) (a : ACtx) : Bool :=
  a.bufs.all fun (q : Nat × List (Nat × Tok)) =>
    768 ≤ q.1 / 64 || 24 ≤ q.1 % 64 || (n.fan (q.1 / 64) (q.1 % 64)).isEmpty || q.2.all fun x => !x.2.mark

/-- A FINAL marker passed a point in an earlier ac (R333). -/
def ACtx.pastFinal (a : ACtx) (ac pt : Nat) : Bool := match a.finals.fetch pt with | some t => decide (t < ac) | none => false

/-- SPLICE_RECONFIG (R333): an element that the predecessor does not use, or that has forwarded its FINAL marker at least 1 ac
before, takes the successor's configuration. A wave for which some source has injected a marker without FINAL ends nothing
(log entry 43). -/
def execSpliceReconfig (stack part ctx elem : Nat) (s : State) : Host.Outcome State Fault Refusal :=
  let h := hctx stack part ctx
  .next (match (s.stk stack).splices.fetch h.key, s.arr h with
  | some p, some a =>
    let n := s.net h
    if !n.t.owns part elem || FMap.at' false p.taken elem then s
    else
      let pts := n.points elem
      let weight := 768 ≤ elem && elem < 832 && n.g.mode (elem - 768) == 5
      let final := (a.wave.any fun w => w.final)
        && (if weight then [elemPt (832 + (elem - 768) / 2) 0] else pts).all (a.pastFinal s.ac)
      if (pts.isEmpty && !weight) || final then
        s.updStk stack fun x => { x with splices := x.splices.ins h.key { p with taken := p.taken.ins elem true } }
      else s
  | _, _ => s)

/-! ### Commit (R336 to R338) -/

/-- The region whose check fails, lowest first, with its cause (R338, R340): ALIGN, then CHANERR, then imbalance. -/
def ACtx.badRegion (a : ACtx) (round : Nat) : Option (Nat × Nat) :=
  (List.range 16).findSome? fun r =>
    let e := FMap.at' 0 a.rerr r
    if nbit e 0 then some (r, 1) else if nbit e 1 then some (r, 2)
    else if FMap.at' 0 a.bal (16 * round + r) ≠ 0 then some (r, 0) else none

/-- Commits the write-behind of a store port (R336): the lines that it wrote. -/
def State.commitPort (s : State) (bytes : FMap W8) : State × List Nat :=
  (bytes.foldl (fun (s : State) q => s.writeDram q.1 [q.2]) s, (bytes.map fun q => lineOf q.1).dedup)

/-- Runs one held operation of a gate (R329, R346, R370): the lines of its row, or its bad line. -/
def State.gateRun (s : State) (st g op : Nat) (t : Tok) : State × (List Nat ⊕ Nat) :=
  let pa := rowPa st (bits t.data 0 14) (bits t.data 14 4) (4 * g + bits t.data 18 2)
  match s.rowBad pa with
  | some l => (s, .inr l)
  | none =>
    let r := s.readRow pa
    let s := r.1.writeRow pa (gateRow op (BitVec.ofNat 32 (bits t.data 32 32)) r.2)
    (s.updStk st fun x => { x with latchA := [], latchB := [], cy := [] }, .inl (rowLines pa))

/-- A notify token finds its queue bound by the configuration's grid (R325). -/
def Die.notifies (d : Die) (q grid : Nat) : Bool :=
  match d.queues.fetch q with | some x => x.bound.isSome && x.grid == grid | none => false

/-- A queue that takes a token (R299). -/
def Die.putTok (d : Die) (q : Nat) (t : QTok) : Die :=
  { d with queues := d.queues.upd q fun x => { x with tokens := x.tokens ++ [t] } }

/-- The queue that a store port notifies (R356). -/
def Plane.notify (g : Plane) (p : Nat) : Option Nat := if nbit (g (768 + p) 5) 8 then some (g (768 + p) 5 % 64) else none

/-- Store ports that write in a round. -/
def Net.writers (n : Net) (a : ACtx) (round : Nat) : List Nat :=
  (n.ports 2).filter fun p => !(FMap.at' [] a.wb (64 * round + p)).isEmpty

/-- Step 1 of R336. -/
def State.commitStores (s : State) (n : Net) (a : ACtx) (round : Nat) : State × FMap (List Nat) :=
  let r := (n.writers a round).foldl (fun (q : State × FMap (List Nat)) p =>
    let t := q.1.commitPort (FMap.at' [] a.wb (64 * round + p))
    (t.1, q.2.ins p t.2)) (s, [])
  (((a.wbPois.filter fun (q : Nat × Bool) => q.1 / 2 ^ 48 == round).foldl (fun (s : State) q => s.setPoison (q.1 % 2 ^ 48) true) r.1), r.2)

/-- Step 2 of R336: the lines written, and whether some token did not run (R337). -/
def State.commitGates (s : State) (h : ArrH) (n : Net) (a : ACtx) (round : Nat) : State × List Nat × Bool :=
  (List.range 64).foldl (fun (q : State × List Nat × Bool) g =>
    (FMap.at' [] a.gates (64 * round + g)).foldl (fun (q : State × List Nat × Bool) t =>
      let r := q.1.gateRun h.st g (n.g (864 + g) 0 % 64) t
      match r.2 with
      | .inl ls => (r.1, q.2.1 ++ ls, q.2.2)
      | .inr l => (r.1.poisonRead (nearDie h.st) 3 (BitVec.ofNat 32 h.st) a.tag l, q.2.1, true)) q) (s, [], false)

/-- Step 3 of R336 (R347). -/
def State.commitReductions (s : State) (h : ArrH) (n : Net) (a : ACtx) (round : Nat) (final : Bool) : State :=
  let inc := (s.stk h.st).ainc'
  n.redTags.foldl (fun (s : State) q =>
    let es := ((n.ports 4).filter fun p => n.g.redTag p == q).flatMap fun p => FMap.at' [] a.reds (64 * round + p)
    s.contribute q.1 ⟨q.2, h.st, inc, es.map fun (e : Nat × W32 × Bool) => (e.1, e.2.1), es.any fun (e : Nat × W32 × Bool) => e.2.2, final⟩) s

/-- Step 4 of R336 (R325, R340). -/
def State.commitNotify (s : State) (h : ArrH) (n : Net) (a : ACtx) (wrote : FMap (List Nat)) : State :=
  let d := nearDie h.st
  wrote.foldl (fun (s : State) w =>
    match n.g.notify w.1 with
    | none => s
    | some q =>
      if (s.die d).notifies q a.grid then
        let sig := w.2.foldl (fun g l => sigInsert g (s.lineKey l)) 0
        s.updDie d fun x => x.putTok q ⟨BitVec.ofNat 64 (FMap.at' {} a.next.ports w.1).pos, sig, 6, s.cc⟩
      else s.record d .drop { code := 0x24, source := 5, srcid := h.src w.1 (n.g.region (768 + w.1)), tag := a.tag }) s

/-- GUARD_DROP records of a round (R448, R449). -/
def State.guardRecords (s : State) (h : ArrH) (n : Net) (a : ACtx) (round : Nat) : State :=
  (a.drops.filter fun (q : Nat × Nat) => q.1 / 65536 == round).foldl (fun (s : State) q =>
    let e := q.1 % 65536 / 64
    let f := q.1 % 64 - 0x10
    s.record (nearDie h.st) .drop
      { code := 0x21, source := 5, seq := round % 65536, srcid := h.src 0 (n.g.region e), tag := a.tag, lanes := BitVec.ofNat 32 q.2
        va := BitVec.ofNat 64 (e + 1024 * (f / 4) + 4096 * (f % 4)) }) s

/-- A configuration after the commit of a round: the snapshot stands, and what belonged to the round is gone (R323, R335, R336). -/
def ACtx.committed (a : ACtx) (round : Nat) : ACtx :=
  let keep64 := fun {α : Type} (m : FMap α) => m.dropKeys fun k => k / 64 == round
  let ports : FMap PortSt := a.dyn.ports.map fun (p : Nat × PortSt) =>
    (p.1, { p.2 with retained := p.2.retained.drop (FMap.at' {} a.next.ports p.1).words.length })
  let next : Dyn := { a.next with ports := a.next.ports.map fun (p : Nat × PortSt) => (p.1, { p.2 with words := [] }) }
  { a with dyn := { a.dyn with ports := ports }, next := next, snap := next, round := round, wave := none, rolled := false, finals := []
           bal := a.bal.dropKeys fun k => k / 16 == round, wb := keep64 a.wb, wbLen := keep64 a.wbLen, gates := keep64 a.gates
           reds := keep64 a.reds, drops := a.drops.dropKeys fun k => k / 65536 == round
           wbPois := a.wbPois.dropKeys fun k => k / 2 ^ 48 == round }

/-- The commit of a complete wave, and what follows it (R336, R337, R341). -/
def State.commitWave (s : State) (h : ArrH) (a : ACtx) (w : MWave) : State :=
  let n := s.net h
  match a.badRegion w.round with
  | some (r, cause) => s.rollbackStart h a 0x20 cause r
  | none =>
    let full := (n.writers a w.round).any fun p =>
      match n.g.notify p with
      | some q => (s.die (nearDie h.st)).notifies q a.grid
          && 256 ≤ ((s.die (nearDie h.st)).queues.fetch q).elim 0 (fun x => x.tokens.length)
      | none => false
    if full then s
    else
      let st := s.commitStores n a w.round
      let gt := st.1.commitGates h n a w.round
      let s := (gt.1.commitReductions h n a w.round w.final).commitNotify h n a st.2
      let lines := (st.2.flatMap fun (q : Nat × List Nat) => q.2) ++ gt.2.1
      let sig := lines.foldl (fun g l => sigInsert g (s.lineKey l)) a.sig
      let s := s.guardRecords h n a w.round
      let a := { a.committed w.round with sig := sig, poisoned := a.poisoned || gt.2.2 }
      if w.final then (s.updArr h fun _ => a).arrDone h a a.poisoned
      else if w.preempt then
        (s.updArr h fun _ => { a with parked := true, preemptReq := false }).updStk h.st fun x =>
          { x with parts := x.parts.upd h.k fun q => if q.running = some h.c then { q with running := none } else q }
      else s.updArr h fun _ => a

/-- WAVE_COMMIT (R334, R336, R337): a wave whose markers have passed every element and reached every sink. A configuration
without a source that injects markers completes at once. -/
def execWaveCommit (stack part ctx : Nat) (s : State) : Host.Outcome State Fault Refusal :=
  let h := hctx stack part ctx
  .next (match s.arr h with
  | none => s
  | some a =>
    let n := s.net h
    if !s.arrMoves h a then s
    else if n.sources.isEmpty then (s.commitReductions h n a 0 true).arrDone h a a.poisoned
    else match a.wave with
      | none => s
      | some w =>
        if n.sources.all (fun p => a.injected p) && n.functionPoints.all (fun pt => a.roundsPast pt == w.round) && n.tracksClear a then s.commitWave h a w
        else s)

/-- MARKTO of a context (R358). -/
def Plane.markto (g : Plane) : Nat :=
  let v := g 1008 2 + 65536 * g 1008 3
  if v = 0 then 2 ^ 20 else max v 1024

/-- MARKER_STALL (R335, R343): the wave has not completed in time. Its time does not run while a port waits for a command. -/
def execMarkerStall (stack part ctx : Nat) (s : State) : Host.Outcome State Fault Refusal :=
  let h := hctx stack part ctx
  .next (match s.arr h with
  | none => s
  | some a =>
    match a.wave with
    | none => s
    | some w =>
      if a.faulted then s.updArr h fun a => { a with wave := some { w with since := s.ac } }
      else if a.undo.isNone && (s.planeFor h).markto < s.ac - w.since then s.rollbackStart h a 0x20 3 0
      else s)

/-! ### The command area (R341, R406) -/

/-- The command in progress ends with a status. -/
def State.cmdDone (s : State) (st k v : Nat) : State :=
  s.updStk st fun x => { x with parts := x.parts.upd k fun p => { p with stat := BitVec.ofNat 32 v, busy := none } }

/-- The command in progress is this one. -/
def State.cmdIs (s : State) (st k op c : Nat) : Bool :=
  match (s.stk st).parts.fetch k with | some p => p.busy == some (op, c) | none => false

/-- PREEMPT (R341, R406): the command of the supervisor, or a request of the partition's scheduler. -/
def execPreempt (stack part : Nat) (ask : ParkAsk) (s : State) : Host.Outcome State Fault Refusal :=
  let h := hctx stack part ask.ctx
  let ends := fun (s : State) (n : Nat) => if ask.sched then s else s.cmdDone stack part n
  .next (if !ask.sched && !s.cmdIs stack part 1 ask.ctx then s
  else match s.arr h with
    | none => ends s 2
    | some a =>
      if a.parked then ends s 2
      else if a.undo.isNone && (s.net h).sourceFault a then ends (s.parkAt h) 0
      else s.updArr h fun a => { a with preemptReq := true })

/-- ARRAY_COMMAND_DONE (R406): a pre-emption has parked its context, or finds that it is no longer loaded. -/
def execArrayCommandDone (stack part : Nat) (s : State) : Host.Outcome State Fault Refusal :=
  .next (match ((s.stk stack).parts.fetch part).bind fun p => p.busy with
  | some (1, c) =>
    match s.arr (hctx stack part c) with
    | none => s.cmdDone stack part 2
    | some a => if a.parked then s.cmdDone stack part 0 else s
  | _ => s)

/-- The masks of a partition, PPRT0 to PGAT3 (R359). -/
def Stack.masks (x : Stack) (k : Nat) : List W16 := (List.range 10).map fun i => BitVec.ofNat 16 (x.field 0 0 1010 (16 * k + 1 + i))

/-- A save area that is misaligned or does not lie in this device's memory (R406, R411). -/
def badArea (addr : Nat) : Bool := addr % 4096 != 0 || memTop < addr + (Config.saveLen addr).toNat || memTop ≤ addr

/-- SAVE (R406): a successor that is spliced onto the context goes with it. -/
def execSave (stack part ctx : Nat) (s : State) : Host.Outcome State Fault Refusal :=
  let h := hctx stack part ctx
  let x := s.stk stack
  let addr := (FMap.at' {} x.parts part).saveAddr.toNat
  .next (if !s.cmdIs stack part 2 ctx then s
  else match s.arr h with
    | none => s.cmdDone stack part 2
    | some a =>
      if !a.parked then s.cmdDone stack part 2
      else if badArea addr then s.cmdDone stack part 3
      else
        let cfg : FMap W16 := (x.cfg.filter fun (q : Nat × W16) => ctxKey x.ptab part ctx q.1).foldl
          (fun (m : FMap W16) q => m.ins (q.1 % 65536) q.2) []
        let sv : SavedArr := ⟨stack, BitVec.ofNat 16 (x.field 0 0 1010 (16 * part)), x.masks part, cfg, a,
          (x.splices.fetch h.key).map Splice.restart⟩
        let s := s.writeHere addr (toBytes 8 (Config.saveLen addr).toNat)
        let s := { s with saves := s.saves.ins addr sv }
        (s.updStk stack fun x => { x with ctxs := x.ctxs.del h.key, splices := x.splices.del h.key }).cmdDone stack part 0)

/-- RESTORE (R406). -/
def execRestore (stack part ctx : Nat) (s : State) : Host.Outcome State Fault Refusal :=
  let h := hctx stack part ctx
  let x := s.stk stack
  let addr := (FMap.at' {} x.parts part).saveAddr.toNat
  .next (if !s.cmdIs stack part 3 ctx then s
  else if (s.arr h).isSome then s.cmdDone stack part 2
  else if badArea addr then s.cmdDone stack part 3
  else match s.saves.fetch addr with
    | none => s.cmdDone stack part 2
    | some v =>
      if v.stack ≠ stack ∨ v.pcol.toNat ≠ x.field 0 0 1010 (16 * part) ∨ v.masks ≠ x.masks part then s.cmdDone stack part 2
      else
        let cfg := v.cfg.foldl (fun (m : FMap W16) q => m.ins (fieldKey part ctx (q.1 / 64) (q.1 % 64)) q.2)
          (x.cfg.dropKeys (ctxKey x.ptab part ctx))
        (s.setStk stack { x with cfg := cfg, ctxs := x.ctxs.ins h.key v.arr
                                 splices := match v.next with | some p => x.splices.ins h.key p | none => x.splices }).cmdDone stack part 0)

/-- RESUME (R406). -/
def execResume (stack part ctx : Nat) (s : State) : Host.Outcome State Fault Refusal :=
  let h := hctx stack part ctx
  .next (if !s.cmdIs stack part 4 ctx then s
  else match s.arr h with
    | none => s.cmdDone stack part 2
    | some a =>
      if a.parked then (s.updArr h fun a => { a with parked := false }).cmdDone stack part 0 else s.cmdDone stack part 2)

/-- STOP (R337, R406). -/
def execStop (stack part ctx : Nat) (s : State) : Host.Outcome State Fault Refusal :=
  let h := hctx stack part ctx
  .next (if !s.cmdIs stack part 5 ctx then s
  else if (s.arr h).isNone then s.cmdDone stack part 2
  else (s.stopArr h).cmdDone stack part 0)

/-! ### `alaunch` and `asplice` (R306 to R308) -/

/-- The fields of a descriptor that can be malformed (R306, R307, R351). -/
def launchDescOk (bs : List W8) : Bool :=
  let f := fun o n => field bs o n
  f 0 8 % 256 == 0 && f 0x0E 1 ≤ 11 && f 0x0F 1 < 16 && f 0x10 8 % 64 == 0 && 3 ≤ f 0x18 1 && f 0x18 1 ≤ 6 && f 0x19 1 ≤ 64
    && zeros bs 0x1A 2 && f 0x20 8 % 8 == 0 && zeros bs 0x28 24 && !(f 0 8 == 0 && f 0x0C 2 == 0xFFFF)

/-- A pattern suits the mode of its port (R356, R366). -/
def patSuits (mode : Nat) (p : Pat) : Bool :=
  match mode with
  | 1 | 5 => p.dir == 0
  | 2 => p.dir == 1
  | 4 => p.dir == 1 && p.esz == 2
  | _ => false

/-- The first page of an entry has a valid translation that leads out of the stack and allows what the port does there (R373): a
reduction port takes nothing but ordinals from its pattern (R356). -/
def State.leavesStack (s : State) (st tag mode : Nat) (base : W64) : State × Bool :=
  let r := s.translate (nearDie st) none tag false (if mode = 2 then .store else if mode = 4 then .none else .load) base
  (r.1, match r.2 with | .ok k => !(homeOf k == .here && stackOf k == st) | _ => false)

/-- The status of PATTAB (R373), or the patterns by port. An entry is its port, its bits [7:6] and its record. -/
def State.checkPats (s : State) (st k tag : Nat) (g : Plane) (es : List (Nat × Nat × List W8)) : State × (Nat ⊕ FMap Pat) :=
  let t := (s.stk st).ptab
  let far := es.foldl (fun (q : State × Bool) e =>
    match portPat e.2.2 with
    | none => q
    | some p => let r := q.1.leavesStack st tag (g.mode e.1) p.base; (r.1, q.2 || r.2)) (s, false)
  let ports := es.map fun e => e.1
  let needed := (List.range 64).filter fun p => t.port k p && [1, 2, 4, 5].contains (g.mode p)
  let pats := es.filterMap fun e => (portPat e.2.2).map fun p => (e.1, p)
  (far.1,
    if far.2 || ports.any fun p => !t.port k p then .inl 4
    else if es.any (fun e => e.2.1 != 0) || ports.dedup.length != ports.length || needed.any (fun p => !ports.contains p)
        || pats.length != es.length || pats.any fun q => !patSuits (g.mode q.1) q.2 then .inl 1
    else .inr (pats.foldl (fun (m : FMap Pat) q => m.ins q.1 q.2) []))

/-- Reads the pattern records that PATTAB names, and how the reads end. -/
def State.readPats (s : State) (x : Ctx) : List Nat → State × List (Nat × Nat × List W8) × Read
  | [] => (s, [], .bytes [])
  | v :: vs =>
    let r := s.readDesc x .desc (BitVec.ofNat 64 (v / 256 * 256)) 256
    let t := State.readPats r.1 x vs
    (t.1, (match r.2 with | .bytes bs => (v % 64, v / 64 % 4, bs) :: t.2.1 | _ => t.2.1), Read.first [r.2, t.2.2])

/-- The deck with an accepted image (R351), and the entry that configures the context. -/
def Stack.deckTake (y : Stack) (grid imgid : Nat) (fromDeck : Bool) (words : List W32) : Stack × Option Nat :=
  let y := if fromDeck then y.deckUse grid imgid else if imgid = 0xFFFF then y else y.deckPut grid imgid words
  (y, if imgid = 0xFFFF then none else (y.deckGet grid imgid).map fun e => e.born)

/-- The rest of a launch, once its image, its table and its records are read: the status, and on 0 the loaded context (R307,
R308, R333, R349 to R351, R371, R373). An accepted image is kept though PATTAB fails (R351). -/
def State.loadArr (s : State) (x : Ctx) (bs : List W8) (h : ArrH) (param : W64) (words : List W32) (es : List (Nat × Nat × List W8)) :
    State × Nat :=
  let y := s.stk h.st
  let fromDeck := field bs 0 8 == 0
  match y.checkImage h.k h.c words fromDeck with
  | .inl r => (s.setStk h.st (y.imageError h.k r), 1)
  | .inr cfg =>
    let g := planeOf cfg h.k h.c
    let y := y.deckTake x.grid (field bs 0x0C 2) fromDeck words
    let q := (s.setStk h.st y.1).checkPats h.st h.k x.w.tag g es
    match q.2 with
    | .inl n => (q.1, n)
    | .inr pats =>
      let a : ACtx := { tag := x.w.tag, grid := x.grid, team := x.w.team, join := BitVec.ofNat 64 (field bs 0x10 8)
                        scope := field bs 0x18 1, param := param, pats := pats, img := y.2
                        gen := match y.1.ctxs.fetch h.key with | some p => h.succ && !p.gen | none => false }
      let ac := s.ac
      let s := q.1.updStk h.st fun y =>
        if h.succ then { y with splices := y.splices.ins h.key ⟨cfg, a, []⟩ }
        else
          let p := FMap.at' {} y.parts h.k
          let idle := (List.range 4).all fun c => (y.ctxs.fetch (4 * h.k + c)).isNone
          { y with cfg := cfg, ctxs := y.ctxs.ins h.key a, parts := y.parts.ins h.k (if idle then { p with phase := ac } else p) }
      (s.childAdd x.w.team, 0)

/-- One performance of `alaunch` or `asplice`. -/
def State.launchAt (s : State) (x : Ctx) (splice : Option Nat) (param : W64) : Perf :=
  let va := x.w.sreg x.f.a.num.toNat
  s.withDesc x va 64 fun bs s =>
    let status := fun (s : State) (n : Nat) => Perf.done (s.putField x (va + 0x1C) (toBytes 4 n))
    let st := field bs 0x0E 1
    let k := field bs 0x0F 1 % 4
    let h : ArrH := match splice with | some c => ⟨st, k, c, true⟩ | none => ⟨st, k, field bs 0x0F 1 / 4, false⟩
    let y := s.stk st
    let n := field bs 8 4
    let ctx := y.ctxs.fetch h.key
    if !launchDescOk bs then status s 1
    else if y.hold then status s 5
    else if !y.ptab.valid k then status s 1
    else if if splice.isSome then ctx.all (fun a => a.parked) || (y.splices.fetch h.key).isSome else ctx.isSome then status s 2
    else
      let deck := y.deckGet x.grid (field bs 0x0C 2)
      if field bs 0 8 = 0 ∧ deck.isNone then status s 3
      else
        let image := fun (s : State) =>
          if field bs 0 8 ≠ 0 ∧ 2 ≤ n ∧ n ≤ 65536 then s.readDesc x .desc (BitVec.ofNat 64 (field bs 0 8)) (4 * n) else (s, .bytes [])
        let table := fun (s : State) =>
          let r := s.readDesc x .desc (BitVec.ofNat 64 (field bs 0x20 8)) (8 * field bs 0x19 1)
          match r.2 with
          | .bytes tb => let q := r.1.readPats x ((List.range (tb.length / 8)).map fun i => field tb (8 * i) 8); (q.1, q.2.1, q.2.2)
          | e => (r.1, [], e)
        let ri := image s
        let rt := table ri.1
        (Read.first [ri.2, rt.2.2]).andThen rt.1 fun _ s =>
          let words := match deck, field bs 0 8, ri.2 with
            | some e, 0, _ => e.words
            | _, _, .bytes ib => (List.range (ib.length / 4)).map fun i => BitVec.ofNat 32 (field ib (4 * i) 4)
            | _, _, _ => []
          let q := s.loadArr x bs h param words rt.2.1
          status q.1 q.2

/-- `alaunch` (R307). -/
def execAlaunch (f : F) (s : State) : Host.Outcome State Fault Refusal :=
  issue (.alaunch f) s fun x s => s.engineForm x (.alaunch f) fun x s => s.launchAt x none (x.src false false x.f.b 0)

/-- `asplice` (R308). The form does not give the successor's parameter, which is a free value (log entry 30). -/
def execAsplice (f : F) (s : State) : Host.Outcome State Fault Refusal :=
  issue (.asplice f) s fun x s => s.engineForm x (.asplice f) fun x s =>
    s.tick.launchAt x (some (x.num x.f.b 2)) (Config.spliceParam s.free)

end Sys2Proof.Machine
end

