-- ==== Sys2Proof/Machine/Copy.lean ====
section
/-! DEFINITION. Copy engines and named queues (R121, R296 to R302, R422), and cross-stack reductions (R157, R309, R310, R347). -/
namespace Sys2Proof.Machine

/-! ### Templates and queues (R296 to R299) -/

/-- A template is armed by another grid's team (R296). -/
def Die.foreignTpl (d : Die) (n grid : Nat) : Bool := match d.tpls.fetch n with | some t => t.armed && t.grid != grid | none => false
/-- A queue belongs to another grid (R296). -/
def Die.foreignQueue (d : Die) (n grid : Nat) : Bool := match d.queues.fetch n with | some q => q.bound.isSome && q.grid != grid | none => false

/-- The first checks of a copy descriptor (R298, status 1). -/
def copyDescOk (bs : List W8) : Bool :=
  let f := fun o n => field bs o n
  let kind := f 0x10 1 % 4
  f 0 8 % 256 == 0 && f 8 8 % 256 == 0 && (kind != 2 || f 8 8 == 0) && f 0x10 1 < 8 && kind != 3 && f 0x11 1 < 4 && 3 ≤ f 0x12 1
    && f 0x12 1 ≤ 6 && (f 0x13 1 < 64 || f 0x13 1 == 255) && f 0x15 1 < 4
    && (kind != 2 || (f 0x16 2 < 1024 && f 0x16 2 % 16 ≤ 11 && f 0x18 4 < 65536)) && f 0x20 8 % 64 == 0 && zeros bs 0x28 24

/-- A fault of the form that names what another grid owns, or what is not there (R296, R299). -/
def protFault : Fi := { code := .prot }

/-- One performance of `cparm` (R298). -/
def State.cparmAt (s : State) (x : Ctx) (t : Nat) : Perf :=
  let va := x.w.sreg x.f.a.num.toNat
  if va.toNat % 64 = 0 ∧ (s.die x.die).foreignTpl t x.grid then .fault s protFault
  else s.withDesc x va 64 fun bs s =>
    let f := fun o n => field bs o n
    let status := fun (s : State) (n : Nat) => Perf.done (s.putField x (va + 0x1C) (toBytes 4 n))
    let kind := f 0x10 1 % 4
    let cb := nbit (f 0x10 1) 2
    let old := (s.die x.die).tpls.fetch t
    let book := old.bind fun o => o.book
    if !copyDescOk bs then status s 1
    else if old.any fun o => o.armed then status s 2
    else
      s.readBoth (fun s => s.readDesc x .desc (BitVec.ofNat 64 (f 0 8)) 256)
        (fun s => if kind = 2 then (s, Read.bytes []) else s.readDesc x .desc (BitVec.ofNat 64 (f 8 8)) 256) fun sb db s =>
          let se := f 0x11 1 % 4
          let de := if cb then (match book with | some k => k.ewl | none => se) else se
          let src := patOf sb se
          let dst := patOf db de
          if !patShape sb se || (kind != 2 && !(patShape db de && src.total == dst.total)) then status s 3
          else if kind = 1 ∧ f 0x14 1 ≠ 255 ∧ (match x.tm with | some tm => tm.nbar | none => 0) ≤ f 0x14 1 then status s 4
          else if cb && (book.isNone || 1 < se) then status s 5
          else
            let tp : Tpl :=
              { armed := true, grid := x.grid, team := x.w.team, core := x.core, tag := x.w.tag, src := src, dst := dst, kind := kind, cb := cb
                esize := se, scope := f 0x12 1, cq := if f 0x13 1 = 255 then none else some (f 0x13 1)
                bar := if kind = 1 ∧ f 0x14 1 ≠ 255 then some (f 0x14 1) else none, tok := f 0x15 1, stack := f 0x16 2 % 16
                port := f 0x16 2 / 16 % 64, chan := BitVec.ofNat 16 (f 0x18 4), join := BitVec.ofNat 64 (f 0x20 8), sig := 0, floor := 6
                book := book, firing := none }
            status (s.updDie x.die fun d => { d with tpls := d.tpls.ins t tp }) 0

/-- `cparm` (R298). -/
def execCparm (f : F) (s : State) : Host.Outcome State Fault Refusal :=
  issue (.cparm f) s fun x s => s.engineForm x (.cparm f) fun x s => s.cparmAt x (x.num x.f.b 8)

/-- Bytes that the codebooks of a template's engine take, but for its own (R298). -/
def Die.bookBytes (d : Die) (t : Nat) : Nat :=
  (d.tpls.map fun (q : Nat × Tpl) =>
    if q.1 % 8 == t % 8 && q.1 != t then (match q.2.book with | some b => b.nent * 2 ^ b.ewl | none => 0) else 0).sum

/-- One performance of `cpbook` (R298, R301). -/
def State.cpbookAt (s : State) (x : Ctx) (t : Nat) : Perf :=
  let va := x.w.sreg x.f.a.num.toNat
  if va.toNat % 64 = 0 ∧ (s.die x.die).foreignTpl t x.grid then .fault s protFault
  else s.withDesc x va 64 fun bs s =>
    let status := fun (s : State) (n : Nat) => Perf.done (s.putField x (va + 0x3C) (toBytes 4 n))
    let nent := field bs 0 4
    let ewl := field bs 4 1
    let n := nent * 2 ^ ewl
    let old := (s.die x.die).tpls.fetch t
    if !(1 ≤ nent && nent ≤ 65536 && 2 ≤ ewl && ewl ≤ 8 && n ≤ 65536 && zeros bs 5 0x37) then status s 1
    else if old.any fun o => o.armed then status s 2
    else if 262144 < (s.die x.die).bookBytes t + n then status s 3
    else
      let r := s.readDesc x .desc (va + 0x40) n
      r.2.andThen r.1 fun es s =>
        let data : FMap W8 := (List.range n).zip es
        let tp : Tpl := { (old.getD { src := ⟨0, 0, 0, 0, 0, []⟩, dst := ⟨0, 0, 0, 0, 0, []⟩ }) with book := some ⟨nent, ewl, data⟩ }
        status (s.updDie x.die fun d => { d with tpls := d.tpls.ins t tp }) 0

/-- `cpbook` (R298). -/
def execCpbook (f : F) (s : State) : Host.Outcome State Fault Refusal :=
  issue (.cpbook f) s fun x s => s.engineForm x (.cpbook f) fun x s => s.cpbookAt x (x.num x.f.b 8)

/-- One performance of `cpbind` (R299). -/
def State.cpbindAt (s : State) (x : Ctx) (t q : Nat) : Perf :=
  let d := s.die x.die
  if d.foreignTpl t x.grid || d.foreignQueue q x.grid || !(d.tpls.fetch t).any fun p => p.armed then .fault s protFault
  else .done (s.updDie x.die fun d =>
    { d with queues := d.queues.ins q { (d.queues.fetch q).getD {} with bound := some t, grid := x.grid } })

/-- `cpbind` (R299). -/
def execCpbind (f : F) (s : State) : Host.Outcome State Fault Refusal :=
  issue (.cpbind f) s fun x s => s.engineForm x (.cpbind f) fun x s => s.cpbindAt x (x.num x.f.a 8) (x.num x.f.b 6)

/-- The wait and the flush of R116 at a scope, as part of a performance (R255, R434, R436). -/
def State.relPerf (s : State) (x : Ctx) (scope : Nat) (k : State → Perf) : Perf :=
  let s := s.relDrain x.key scope
  match s.waves.fetch x.key with
  | none => .done s
  | some w =>
    match w.deadStore with
    | some inc => .fault (s.updWave x.key fun w => { w with deadStore := none }) { code := .remdead, kind := .store, inc := inc }
    | none =>
      match s.awaits x with
      | some why => .wait s why
      | none => k (s.relFlush x.key scope)

/-- One performance of `cpfire` (R299). -/
def State.cpfireAt (s : State) (x : Ctx) (q : Nat) : Perf :=
  match (s.die x.die).queues.fetch q with
  | none => .fault s protFault
  | some u =>
    match u.bound.bind fun t => (s.die x.die).tpls.fetch t with
    | none => .fault s protFault
    | some tp =>
      if u.grid != x.grid then .fault s protFault
      else if 256 ≤ u.tokens.length then .wait s (.queue q)
      else s.relPerf x tp.scope fun s =>
        match s.waves.fetch x.key with
        | none => .done s
        | some w => .done (s.updDie x.die fun d => d.putTok q ⟨x.w.sreg x.f.a.num.toNat, w.sigacc, w.sigfl, s.cc⟩)

/-- `cpfire` (R299). -/
def execCpfire (f : F) (s : State) : Host.Outcome State Fault Refusal :=
  issue (.cpfire f) s fun x s => s.engineForm x (.cpfire f) fun x s => s.cpfireAt x (x.num x.f.b 6)

/-- One performance of `cpdisarm` (R299). -/
def State.cpdisarmAt (s : State) (x : Ctx) (t mode : Nat) : Perf :=
  let d := s.die x.die
  match d.tpls.fetch t with
  | none => .done s
  | some tp =>
    if !tp.armed then .done s
    else if tp.grid != x.grid then .fault s protFault
    else
      let s := if mode = 0 then s else s.updDie x.die fun d =>
        { d with queues := d.queues.map fun (q : Nat × Queue) => if q.2.bound == some t then (q.1, { q.2 with tokens := [] }) else q }
      let waits := mode = 0 && d.queues.any fun (q : Nat × Queue) => q.2.bound == some t && !q.2.tokens.isEmpty
      if tp.firing.isSome || waits then .wait s (.disarm t (mode == 0)) else .done (s.updDie x.die fun d => d.freeTpl t)

/-- `cpdisarm` (R299). -/
def execCpdisarm (f : F) (s : State) : Host.Outcome State Fault Refusal :=
  issue (.cpdisarm f) s fun x s => s.engineForm x (.cpdisarm f) fun x s => s.cpdisarmAt x (x.num x.f.a 8) (x.num x.f.b 1)

/-! ### Firings (R300 to R302) -/

/-- The queue whose first token fires a template next: the earliest arrival, of one cc the lowest queue (R300). -/
def Die.nextQueue (d : Die) (t : Nat) : Option (Nat × QTok) :=
  d.queues.foldl (fun (b : Option (Nat × QTok)) q =>
    match q.2.bound == some t, q.2.tokens with
    | true, k :: _ => (match b with | none => some (q.1, k) | some c => if k.arr < c.2.arr then some (q.1, k) else b)
    | _, _ => b) none

/-- What becomes of an element of a firing. -/
inductive Elem where
  | done
  /-- Skipped, with the completion poisoned. -/
  | skip
  /-- Tried again later. -/
  | wait
  /-- Suspended until a command comes. -/
  | suspend
  deriving DecidableEq, Repr

/-- SRCID of a template's engine (R296, R412). -/
def engineSrc (d t : Nat) : W32 := BitVec.ofNat 32 (8 * d + t % 8)

/-- SEQ of a template's engine (R415). -/
def Die.engineSeq (d : Die) (t : Nat) : Nat := FMap.at' 0 d.engSeq (t % 8)

/-- A record of a firing (R302, R422). One that suspends the engine raises its SEQ (R415). -/
def State.copyRecord (s : State) (d t : Nat) (tp : Tpl) (code : Nat) (replay : Bool) (va : W64) (acc : Nat) (inc : Nat := 0) : State :=
  let seq := if replay then ((s.die d).engineSeq t + 1) % 65536 else (s.die d).engineSeq t
  let s := if !replay then s else s.updDie d fun x =>
    { x with engSeq := x.engSeq.ins (t % 8) seq
             tpls := x.tpls.upd t fun p => { p with firing := p.firing.map fun f => { f with seq := seq } } }
  s.record d .hold { code := code, source := 1, replay := replay, seq := seq, srcid := engineSrc d t, tag := tp.tag, va := va, inc := inc
                     acc := BitVec.ofNat 32 acc }

/-- Keys of an element in global memory whose homes answer, translated page by page, or what becomes of it (R29, R302). -/
def State.copyKeys (s : State) (d t : Nat) (tp : Tpl) (kind : Kind) (va : W64) (n : Nat) : State × (List Nat ⊕ Elem) :=
  let r := s.translateBytes d none tp.tag false kind va n
  match r.2 with
  | .inr (.page _ acc, _) => (r.1.copyRecord d t tp 5 true va (kind.code + acc), .inr .suspend)
  | .inr (.hold _, _) => (r.1, .inr .wait)
  | .inr (_, _) => (r.1.copyRecord d t tp 6 false va kind.code, .inr .skip)
  | .inl ks =>
    match if kind = .load then r.1.reachAll d ks else
        match r.1.reachAll d ks with | (.poison, _) => (.ok, 0) | e => e with
    | (.ok, _) => (r.1, .inl ks)
    | (.hold _, _) => (r.1, .inr .wait)
    | (.dead, k) => (r.1.copyRecord d t tp 8 false va kind.code (r.1.incAt d k), .inr .skip)
    | (.poison, k) => (r.1.poisonRead d 1 (engineSrc d t) tp.tag (lineOf k), .inr .skip)

/-- Writes bytes of a firing into the arming team's memory (R125, R274, R300): words made full once in a cc (R126). DESIGN CHOICE,
log entry 24: the full bits of a transfer, which R125 sets in no order, rise in pattern order, those of one element together. -/
def State.copyTeam (s : State) (team : Nat) (tm : Team) (off : Nat) (bar : Option Nat) (bs : List W8) : State × Elem :=
  let ws := ((keysFrom off bs.length).map fun o => o / 4).dedup
  if ws.any fun w => !FMap.at' false tm.full w && FMap.at' 0 tm.feLast w == s.cc + 1 then (s, .wait)
  else
    let t := ws.foldl (fun (t : Team) w =>
      if FMap.at' false t.full w then t else { t with full := t.full.ins w true, feLast := t.feLast.ins w (s.cc + 1) }) (tm.putBytes off bs)
    let t := match bar with
      | some b => { t with bars := t.bars.upd b fun e => e.addTx (-(BitVec.ofNat 32 bs.length)) }
      | none => t
    (s.setTeam team t, .done)

/-- Writes one destination element (R300). -/
def State.copyWrite (s : State) (d t : Nat) (tp : Tpl) (va : W64) (bs : List W8) : State × Elem :=
  match tp.kind with
  | 0 =>
    let r := s.copyKeys d t tp .store va bs.length
    match r.2 with
    | .inr e => (r.1, e)
    | .inl ks =>
      let s := (ks.zip bs).foldl (fun (s : State) p => s.writeHome p.1 [p.2]) r.1
      let sig := (ks.map lineOf).dedup.foldl (fun g l => if homeOf (128 * l) = .host then g else sigInsert g (s.lineKey l)) 0
      (s.updDie d fun x => { x with tpls := x.tpls.upd t fun p => { p with sig := p.sig ||| sig } }, .done)
  | 1 =>
    match s.teams.fetch tp.team with
    | none => (s, if (s.kept.fetch tp.team).isSome then .wait else .skip)
    | some tm =>
      let off := va.toNat - 0x0100000000000000
      if rowOf va ≠ .team ∨ tm.teammem < off + bs.length then (s.copyRecord d t tp 6 false va 2, .skip)
      else s.copyTeam tp.team tm off tp.bar bs
  | _ =>
    let inbox := FMap.at' [] (s.stk tp.stack).inbox tp.port
    if !inbox.isEmpty then (s, .wait)
    else
      let ws := (List.range ((bs.length + 7) / 8)).map fun i => (tp.chan, BitVec.ofNat 64 (field bs (8 * i) 8))
      (s.updStk tp.stack fun x => { x with inbox := x.inbox.ins tp.port ws }, .done)

/-- One element of the firing under way (R300, R301). -/
def State.copyElem (s : State) (d t : Nat) (tp : Tpl) (fi : Firing) : State × Elem :=
  let sv := tp.src.addr fi.pos + if nbit tp.tok 0 then fi.tok.val else 0
  let dv := tp.dst.addr fi.pos + if nbit tp.tok 1 then fi.tok.val else 0
  let r := s.copyKeys d t tp .load sv (2 ^ tp.esize)
  match r.2 with
  | .inr e => (r.1, e)
  | .inl ks =>
    let bs := ks.map (r.1.farByte d)
    if tp.cb then
      match tp.book with
      | none => (r.1, .skip)
      | some b =>
        let n := ofBytes bs
        if b.nent ≤ n then (r.1, .skip)
        else r.1.copyWrite d t tp dv ((keysFrom (n * 2 ^ b.ewl) (2 ^ b.ewl)).map fun i => FMap.at' 0 b.data i)
    else r.1.copyWrite d t tp dv bs

/-- Changes the firing of a template. -/
def State.updFiring (s : State) (d t : Nat) (f : Firing → Firing) : State :=
  s.updDie d fun x => { x with tpls := x.tpls.upd t fun p => { p with firing := p.firing.map f } }

/-- The firing goes past its element. -/
def Firing.pass (f : Firing) (total : Nat) (bad : Bool) : Firing :=
  { f with pos := f.pos + 1, walked := f.pos + 1 == total, poisoned := f.poisoned || bad, waiting := false }

/-- COPY_FIRE (R300): a waiting token starts a firing, or the firing under way walks its next element. -/
def execCopyFire (die tpl : Nat) (s : State) : Host.Outcome State Fault Refusal :=
  .next (match (s.die die).tpls.fetch tpl with
  | none => s
  | some tp =>
    if !tp.armed then s
    else match tp.firing with
      | none =>
        match (s.die die).nextQueue tpl with
        | none => s
        | some (q, k) =>
          s.updDie die fun x =>
            { x with queues := x.queues.upd q fun u => { u with tokens := u.tokens.tail }
                     tpls := x.tpls.ins tpl { tp with sig := tp.sig ||| k.sig, floor := min tp.floor k.floor
                                                      firing := some ⟨k, 0, false, false, 0, false⟩ } }
      | some fi =>
        if fi.waiting || fi.walked then s
        else
          let r := s.copyElem die tpl tp fi
          match r.2 with
          | .done => r.1.updFiring die tpl fun f => f.pass tp.src.total false
          | .skip => r.1.updFiring die tpl fun f => f.pass tp.src.total true
          | .wait => r.1
          | .suspend => r.1.updFiring die tpl fun f => { f with waiting := true })

/-- COPY_COMPLETE (R121, R296, R302): the release at JOIN, then the token on the completion queue, with signature and floor as the
release has left them (R116). A full queue holds the completion back. -/
def execCopyComplete (die tpl : Nat) (s : State) : Host.Outcome State Fault Refusal :=
  .next (match (s.die die).tpls.fetch tpl with
  | none => s
  | some tp =>
    match tp.firing with
    | none => s
    | some fi =>
      let cq := tp.cq.filter fun q => (s.die die).notifies q tp.grid
      let full := match cq with
        | some q => 256 ≤ ((s.die die).queues.fetch q).elim 0 (fun u => u.tokens.length)
        | none => false
      if !fi.walked || full then s
      else
        let s := if tp.join = 0 then s else s.arrive die 2 tp.tag tp.join tp.scope fi.poisoned tp.sig tp.floor 0 (dieAnchor die)
        let pair := if tp.join = 0 then (tp.sig, tp.floor) else releasePair tp.sig tp.floor tp.scope
        let gone := tp.grid != 0 && (s.grids.fetch tp.grid).isNone
        s.updDie die fun x =>
          let x := match cq with | some q => x.putTok q ⟨fi.tok.val, pair.1, pair.2, s.cc⟩ | none => x
          let x := { x with tpls := x.tpls.ins tpl { tp with sig := 0, floor := 6, firing := none } }
          if gone then x.freeTpl tpl else x)

/-! ### Reductions (R157, R309, R310, R347) -/

/-- The fields of a descriptor of R309 that can be malformed. -/
def xredDescOk (bs : List W8) : Bool :=
  let f := fun o n => field bs o n
  f 0 8 % 128 == 0 && 1 ≤ f 8 4 && f 8 4 ≤ 2 ^ 24 && f 0x0C 2 != 0 && f 0x0C 2 < 4096 && f 0x0E 1 ≤ 1 && 3 ≤ f 0x0F 1 && f 0x0F 1 ≤ 6
    && f 0x10 8 % 64 == 0 && zeros bs 0x24 28

/-- One performance of `xred` (R309, R310). -/
def State.xredAt (s : State) (x : Ctx) (tag : Nat) : Perf :=
  let va := x.w.sreg x.f.a.num.toNat
  s.withDesc x va 64 fun bs s =>
    let f := fun o n => field bs o n
    let status := fun (s : State) (n : Nat) => Perf.done (s.putField x (va + 0x1C) (toBytes 4 n))
    let reds := (s.die x.die).reds
    if !xredDescOk bs then status s 1
    else if (reds.fetch tag).isSome then status s 2
    else if 64 ≤ reds.length then status s 3
    else
      let r : Reduction :=
        { dest := BitVec.ofNat 64 (f 0 8), len := f 8 4, mask := BitVec.ofNat 16 (f 0x0C 2), int32 := f 0x0E 1 == 1, scope := f 0x0F 1
          join := BitVec.ofNat 64 (f 0x10 8), deadline := if f 0x18 4 = 0 then 0 else s.cc + 256 * f 0x18 4, tag := x.w.tag, desc := va }
      status (s.updDie x.die fun d => { d with reds := d.reds.ins tag r }) 0

/-- `xred` (R310). -/
def execXred (f : F) (s : State) : Host.Outcome State Fault Refusal :=
  issue (.xred f) s fun x s => s.engineForm x (.xred f) fun x s => s.xredAt x (x.num x.f.b 16)

/-- One level of the tree: adjacent results, a lone one passing up (R157). -/
def pairUp (add : Nat → Nat → Nat) : List (Option Nat) → List (Option Nat)
  | a :: b :: rest =>
    (match a, b with
      | some x, some y => some (add x y)
      | some x, none => some x
      | none, y => y) :: pairUp add rest
  | l => l

/-- The tree over twelve stacks (R157). -/
def treeSum (int32 : Bool) (vs : List (Option Nat)) : Nat :=
  let add := fun a b => if int32 then (a + b) % 2 ^ 32 else addF32 a b
  let l := pairUp add (pairUp add (pairUp add (pairUp add vs)))
  (l.headD none).getD 0

/-- The stacks that a mask names, ascending. -/
def maskStacks (m : W16) : List Nat := (List.range 12).filter fun i => bit m i

/-- The contributions that count: those that are complete. -/
def Reduction.present (r : Reduction) : FMap Contrib := r.contribs.filter fun (q : Nat × Contrib) => q.2.complete

/-- Element i of the result. -/
def Reduction.element (r : Reduction) (i : Nat) : W32 :=
  BitVec.ofNat 32 (treeSum r.int32 ((List.range 12).map fun st =>
    (r.present.fetch st).bind fun c => (c.elems.fetch i).map fun v => v.toNat))

/-- Writes one line of the result, with its mark (R310, R437); a line that cannot be written puts a record in the ring. -/
def State.reduceLine (s : State) (d tag : Nat) (r : Reduction) (l : Nat) (bad : Bool) : State × Sig × Bool :=
  let va := r.dest + BitVec.ofNat 64 (128 * l)
  let n := min 32 (r.len - 32 * l)
  let t := s.translate d none r.tag false .store va
  let fail := fun (s : State) (code acc : Nat) =>
    (s.record d .hold { code := code, source := 4, srcid := BitVec.ofNat 32 tag, tag := r.tag, va := va, acc := BitVec.ofNat 32 (2 + acc) },
      (0 : Sig), true)
  match t.2 with
  | .page _ acc => fail t.1 5 acc
  | .prot | .hold _ => fail t.1 6 0
  | .ok k =>
    if homeOf k ≠ .here then fail t.1 6 0
    else
      let s := t.1.writeHere k ((List.range n).flatMap fun i => toBytes 4 (r.element (32 * l + i)).toNat)
      (if bad then s.setPoison (lineOf k) true else s, sigInsert 0 (s.lineKey (lineOf k)), false)

/-- Writes a field of a unit's descriptor at its home, under the unit's tag. -/
def State.unitField (s : State) (d tag : Nat) (va : W64) (bs : List W8) : State :=
  let r := s.translate d none tag false .store va
  match r.2 with | .ok k => r.1.writeHome k bs | _ => r.1

/-- A line of the result or of the descriptor, or an entry of its translation, is reserved: the end waits (R434). -/
def State.reduceHeld (s : State) (d : Nat) (r : Reduction) : Bool :=
  (r.desc :: (List.range ((r.len + 31) / 32)).map fun l => r.dest + BitVec.ofNat 64 (128 * l)).any fun va =>
    match (s.translate d none r.tag false .store va).2 with
    | .hold _ => true
    | .ok k => (s.shut d (lineOf k)).isSome
    | _ => false

/-- The end of a reduction (R310). -/
def State.reduceEnd (s : State) (d tag : Nat) (r : Reduction) (timeout : Bool) : State :=
  let s := s.updDie d fun x => { x with reds := x.reds.del tag }
  let missing := (maskStacks r.mask).filter fun st => (r.present.fetch st).isNone
  let bad := (r.present.filter fun (q : Nat × Contrib) => q.2.poisoned).map fun (q : Nat × Contrib) => q.1
  let lines := (List.range ((r.len + 31) / 32)).foldl (fun (q : State × Sig × Bool) l =>
    let t := q.1.reduceLine d tag r l (timeout || !bad.isEmpty)
    (t.1, q.2.1 ||| t.2.1, q.2.2 || t.2.2)) (s, 0, false)
  let num := fun (ls : List Nat) => (ls.map fun i => 2 ^ i).sum
  let s := (lines.1.unitField d r.tag (r.desc + 0x20) (toBytes 2 (num missing))).unitField d r.tag (r.desc + 0x22) (toBytes 2 (num bad))
  s.arrive d 5 r.tag r.join r.scope (!missing.isEmpty || !bad.isEmpty || lines.2.2) lines.2.1 6 0 (dieAnchor d)

/-- What a contribution becomes with a message (R347): an index that was sent before keeps its value, and poisons it. -/
def Contrib.take (c : Contrib) (len : Nat) (m : ContribMsg) : Contrib :=
  let c := m.elems.foldl (fun (c : Contrib) e =>
    if len ≤ e.1 then c
    else if (c.elems.fetch e.1).isSome then { c with poisoned := true } else { c with elems := c.elems.ins e.1 e.2 }) c
  { c with complete := m.final, poisoned := c.poisoned || m.poisoned || (m.final && c.elems.length < len) }

/-- XRED_CONTRIBUTION (R310, R347): the combine unit takes the next message, and ends the reduction with the last one. -/
def execXredContribution (die : Nat) (s : State) : Host.Outcome State Fault Refusal :=
  .next (match (s.die die).contribQ with
  | [] => s
  | m :: q =>
    let held := s
    let s := s.updDie die fun x => { x with contribQ := q }
    match (s.die die).reds.fetch m.tag with
    | none => s
    | some r =>
      let c := FMap.at' {} r.contribs m.stack
      let c := if c.complete ∨ c.ainc = m.ainc then c else { ainc := m.ainc }
      if !bit r.mask m.stack || m.ainc != (s.stk m.stack).ainc' || c.complete then s
      else
        let r := { r with contribs := r.contribs.ins m.stack (c.take r.len m) }
        if (maskStacks r.mask).all fun st => (r.present.fetch st).isSome then (if s.reduceHeld die r then held else s.reduceEnd die m.tag r false)
        else s.updDie die fun x => { x with reds := x.reds.ins m.tag r })

/-- XRED_TIMEOUT (R310). -/
def execXredTimeout (die tag : Nat) (s : State) : Host.Outcome State Fault Refusal :=
  .next (match (s.die die).reds.fetch tag with
  | none => s
  | some r => if r.deadline != 0 && r.deadline ≤ s.cc && !s.reduceHeld die r then s.reduceEnd die tag r true else s)

end Sys2Proof.Machine
end

