-- ==== Sys2Proof/Machine/Launch.lean ====
section
/-! DEFINITION. Launch records (R388 to R392), submission queues (R393 to R395), placement on cores (R396 to R400), and tasks:
`spawn`, hands, stealing and the kitty (R303 to R305, R401 to R404). A hand lists its entries from bottom to top. -/
namespace Sys2Proof.Machine

/-! ### Launch records -/

/-- A role entry (R389, R390), or nothing when it is out of range. -/
def parseRole (e : W32) : Option Role :=
  let r : Role := ⟨bits e 24 3, bits e 16 4, bits e 8 6, bits e 0 2⟩
  if bits e 27 5 = 0 ∧ bits e 20 4 = 0 ∧ bits e 14 2 = 0 ∧ bits e 2 6 = 0 ∧ r.prio ≤ 6 ∧ 3 ≤ r.lregs ∧ r.lregs ≤ 8 ∧ 1 ≤ r.waves ∧ r.waves ≤ 32
  then some r else none

/-- Waves of some roles. -/
def roleWaves (rs : List Role) : Nat := (rs.map fun r => r.waves).sum
/-- Wave-registers of some roles. -/
def roleRegs (rs : List Role) : Nat := (rs.map fun r => r.waves * 2 ^ r.lregs).sum

/-- A launch record at an address, or nothing when R390 rejects it. -/
def parseLRec (va : W64) (task : Bool) (bs : List W8) : Option LRec :=
  let f := fun o n => field bs o n
  let roles := (List.range (f 0x0F 1)).filterMap fun i => parseRole (BitVec.ofNat 32 (f (0x20 + 4 * i) 4))
  let dies := f 0x0E 1 / 2 % 4
  let coop := nbit (f 0x0E 1) 0
  let group := f 0x0C 2
  let nteams := f 8 4
  let ok :=
    va.toNat % 256 == 0 && f 0 8 % 8 == 0 && f 0 8 < 2 ^ 56 && f 0x0E 1 < 8 && dies != 0 && 1 ≤ f 0x0F 1 && f 0x0F 1 ≤ 4
      && roles.length == f 0x0F 1 && zeros bs (0x20 + 4 * f 0x0F 1) (16 - 4 * f 0x0F 1) && f 0x10 4 % 128 == 0 && f 0x10 4 ≤ 524288
      && f 0x14 1 ≤ 64 && f 0x15 1 < 8 && f 0x16 1 ≤ 24 && f 0x17 1 == 0 && f 0x30 8 % 256 == 0 && f 0x30 8 < 2 ^ 56 && zeros bs 0x38 8
      && (roles.map fun r => r.name).dedup.length == roles.length && roleWaves roles ≤ 32 && roleRegs roles ≤ 4096
      && (if task then group == 1 && !coop
        else 1 ≤ nteams && 1 ≤ group && group ≤ 256 && nteams % group == 0 && (!coop || group == 16) && 3 ≤ f 0x15 1 && f 0x15 1 ≤ 6
          && f 0x18 8 % 64 == 0)
  if ok then
    some { addr := va, entry := BitVec.ofNat 64 (f 0 8), nteams := if task then 1 else nteams, group := group, coop := coop, dies := dies
           teammem := f 0x10 4, nbar := f 0x14 1, jscope := f 0x15 1, join := BitVec.ofNat 64 (f 0x18 8), roles := roles
           trapvec := BitVec.ofNat 64 (f 0x30 8), args := (List.range (f 0x16 1)).map fun i => BitVec.ofNat 64 (f (0x40 + 8 * i) 8) }
  else none

/-! ### Free counts and fit (R396) -/

/-- Free wave slots, wave-registers, granules and barrier entries; or what a team needs of them. -/
structure Room where
  w : Nat
  v : Nat
  m : Nat
  b : Nat
  deriving DecidableEq, Repr

def LRec.need (r : LRec) : Room := ⟨roleWaves r.roles, roleRegs r.roles, (r.teammem + 4095) / 4096, r.nbar⟩

/-- What the ended waves of running teams leave to their teams on a core (R43). -/
def State.vacantOf (s : State) (g : Nat) : List Vacant := (s.teams.filter fun (p : Nat × Team) => p.2.core == g).flatMap fun p => p.2.vacant

/-- The blocks of a core: wave slot, offset and size; running teams keep those of their ended waves (R43, R400). -/
def State.blocksOf (s : State) (g : Nat) : List (Nat × Nat × Nat) :=
  ((s.coreWaves g).map fun (p : Nat × Wave) => (p.1 % 64, p.2.voff, 2 ^ p.2.lregs)) ++ (s.vacantOf g).map fun v => (v.slot, v.voff, 2 ^ v.lregs)

/-- What a core has free. -/
def State.freeOf (s : State) (g : Nat) : Room :=
  let bs := s.blocksOf g
  let ts := s.teams.filter fun (p : Nat × Team) => p.2.core == g
  ⟨64 - bs.length, 4096 - (bs.map fun b => b.2.2).sum,
    128 - (ts.map fun (p : Nat × Team) => (p.2.teammem + 4095) / 4096).sum, 64 - (ts.map fun (p : Nat × Team) => p.2.nbar).sum⟩

def Room.holds (f n : Room) : Bool := n.w ≤ f.w && n.v ≤ f.v && n.m ≤ f.m && n.b ≤ f.b
def Room.less (f n : Room) : Room := ⟨f.w - n.w, f.v - n.v, f.m - n.m, f.b - n.b⟩
/-- Score S of a core (R396). -/
def Room.score (f : Room) : Nat := max (max (64 - f.w) ((4096 - f.v) / 64)) (max ((128 - f.m) / 2) (64 - f.b))

/-- A core takes placements: its cluster is neither drained nor retired (R470). -/
def State.coreOpen (s : State) (g : Nat) : Bool :=
  let m := FMap.at' 0 (s.die (dieOf g)).marg (clusterOf g % 10)
  !bit m 18 && !bit m 17

/-- The free counts of some open cores. -/
def State.roomsOf (s : State) (gs : List Nat) : FMap Room := (gs.filter s.coreOpen).map fun g => (g, s.freeOf g)

/-- The fitting core of lowest score, ties to the lowest number (R396). -/
def bestCore (rooms : FMap Room) (n : Room) : Option Nat :=
  (rooms.foldl (fun (b : Option (Nat × Nat)) q =>
    if !q.2.holds n then b
    else match b with | none => some (q.1, q.2.score) | some c => if q.2.score < c.2 then some (q.1, q.2.score) else b) none).map fun c => c.1

/-- The trial of a group in one cluster: the core of each rank in turn (R397). -/
def trial (n : Room) : Nat → FMap Room → Option (List Nat)
  | 0, _ => some []
  | k + 1, rooms =>
    match bestCore rooms n with
    | none => none
    | some g => (trial n k (rooms.upd g fun f => f.less n)).map fun gs => g :: gs

/-- The cores that a group would take in a cluster. -/
def State.clusterPlan (s : State) (c : Nat) (lr : LRec) : Option (List Nat) :=
  let gs := coresFrom (16 * c) 16
  let rooms := s.roomsOf gs
  if lr.coop then (if rooms.length == 16 && rooms.all fun q => q.2.holds lr.need then some gs else none)
  else trial lr.need lr.group rooms

/-- The cores that the next cluster group of a record takes on a die (R396, R397). -/
def State.groupPlan (s : State) (d : Nat) (lr : LRec) : Option (List Nat) :=
  if lr.group = 1 ∧ !lr.coop then (bestCore (s.roomsOf (coresFrom (160 * d) 160)) lr.need).map fun g => [g]
  else
    ((List.range 10).foldl (fun (b : Option (Nat × List Nat)) i =>
      let c := 10 * d + i
      match s.clusterPlan c lr with
      | none => b
      | some gs =>
        let sc := ((coresFrom (16 * c) 16).map fun g => (s.freeOf g).score).sum
        match b with | none => some (sc, gs) | some q => if sc < q.1 then some (sc, gs) else b) none).map fun q => q.2

/-! ### Register blocks (R400) -/

/-- The blocks of a core: offset and size. -/
def State.blocks (s : State) (g : Nat) : List (Nat × Nat) := (s.blocksOf g).map fun b => b.2

/-- No block lies in a range. -/
def unused (live : List (Nat × Nat)) (o n : Nat) : Bool := live.all fun b => b.1 + b.2 ≤ o || o + n ≤ b.1

/-- The lowest free block of exactly a size: free, and not half of a larger free block. -/
def freeBlock (live : List (Nat × Nat)) (n : Nat) : Option Nat :=
  ((List.range (4096 / n)).map fun i => i * n).find? fun o => unused live o n && (n == 256 || !unused live (o / (2 * n) * (2 * n)) (2 * n))

/-- The offset that a request takes: in the free block of its size, or else of the next larger size that has one. -/
def allocBlock (live : List (Nat × Nat)) (n : Nat) : Option Nat := ([8, 16, 32, 64, 128, 256].filter fun m => n ≤ m).findSome? (freeBlock live)

/-- The offsets of a team's requests, in WAVEID order. -/
def allocBlocks (live : List (Nat × Nat)) : List Nat → Option (List Nat)
  | [] => some []
  | n :: ns =>
    match allocBlock live n with
    | none => none
    | some o => (allocBlocks ((o, n) :: live) ns).map fun os => o :: os

/-- What the compaction engine packs: a block by its wave slot, or a request by its index. -/
inductive Packed where
  | live (slot off n : Nat)
  | ask (i n : Nat)
  deriving DecidableEq, Repr

def Packed.size : Packed → Nat
  | .live _ _ n => n
  | .ask _ n => n

/-- Blocks and requests in packing order. -/
def packOrder (live : List (Nat × Nat × Nat)) (req : List Nat) : List Packed :=
  let ls := sortBy (fun a b => match a, b with | .live _ x _, .live _ y _ => x ≤ y | _, _ => true)
    (live.map fun b => Packed.live b.1 b.2.1 b.2.2)
  let as := ((List.range req.length).zip req).map fun q => Packed.ask q.1 q.2
  [256, 128, 64, 32, 16, 8].flatMap fun n => (ls ++ as).filter fun p => p.size == n

/-- Moves a block of a core: that of a wave, which does not issue until it is in place, or one that an ended wave has left. -/
def State.moveBlock (s : State) (g slot off till : Nat) : State :=
  let s := s.updWave (wkey g slot) fun w => { w with voff := off, movingTo := max w.movingTo till }
  { s with teams := s.teams.map fun (p : Nat × Team) =>
      (p.1, if p.2.core = g then { p.2 with vacant := p.2.vacant.map fun v => if v.slot = slot then { v with voff := off } else v } else p.2) }

/-- The cc of a core's die that count for its compaction (R471). -/
def State.packNow (s : State) (g : Nat) : Nat := (s.die (dieOf g)).ucc

/-- The compaction engine of a core is at work (R400). -/
def State.packing (s : State) (g : Nat) : Bool := s.packNow g < (s.core g).packEnd

/-- The end of a core's compaction, 0 when none is under way. -/
def State.packTill (s : State) (g : Nat) : Nat := if s.packing g then (s.core g).packEnd else 0

/-- Repacks a core with the requests that its placement waits for, after what its engine is at: waves whose block moves do not issue
until it is in place. -/
def State.compact (s : State) (g : Nat) (req : List Nat) : State × List Nat × Nat :=
  let order := packOrder (s.blocksOf g) req
  let placed := (order.foldl (fun (q : List (Packed × Nat) × Nat) p => (q.1 ++ [(p, q.2)], q.2 + p.size)) ([], 0)).1
  let moved := (placed.map fun q => match q.1 with | .live _ o n => if o = q.2 then 0 else n | _ => 0).sum
  let till := max (s.packNow g) (s.core g).packEnd + 32 + (moved + 3) / 4
  let s := placed.foldl (fun (s : State) q =>
    match q.1 with
    | .live sl o _ => if o = q.2 then s else s.moveBlock g sl q.2 till
    | _ => s) (s.updCore g fun c => { c with packEnd := till })
  (s, (List.range req.length).map fun i => (placed.findSome? fun q => match q.1 with | .ask j _ => if i = j then some q.2 else none | _ => none).getD 0,
    till)

/-- COMPACTION (R400): the engine of a core serves the placement that waits for it. -/
def execCompaction (core : Nat) (s : State) : Host.Outcome State Fault Refusal :=
  let req := (s.core core).packReq
  .next (if req.isEmpty then s
  else
    let r := s.compact core req
    r.1.updCore core fun c => { c with packReq := [], packOff := r.2.1 })

/-! ### Placement of one team (R392, R398, R404) -/

/-- What a placement needs to know of a team. -/
structure Place where
  lr : LRec
  grid : Nat
  teamId : Nat
  depth : Nat
  tag : Nat
  join : W64
  jscope : Nat
  parent : Nat
  isTask : Bool
  args : List W64
  sig : Sig
  floor : Nat
  deriving DecidableEq, Repr

/-- The waves of a record, in WAVEID order (R62). -/
def LRec.waves (r : LRec) : List Role := r.roles.flatMap fun x => List.replicate x.waves x

/-- The slot of the next wave of a priority: in the quadrant with the fewest waves of it (R398). -/
def State.slotFor (s : State) (g prio : Nat) : Nat :=
  let ws := s.coreWaves g
  let used := (s.blocksOf g).map fun b => b.1
  let free := fun q => ((List.range 16).map fun i => 4 * i + q).find? fun sl => !used.contains sl
  ((List.range 4).foldl (fun (b : Option (Nat × Nat)) q =>
    match free q with
    | none => b
    | some sl =>
      let n := (ws.filter fun (p : Nat × Wave) => p.1 % 4 == q && p.2.prio == prio).length
      match b with | none => some (n, sl) | some c => if n < c.1 then some (n, sl) else b) none).elim 0 fun c => c.2

/-- A wave at its start (R38, R84, R392, R423); a task's waves have acquired the entry's pair (R304). -/
def startWave (p : Place) (team wid voff wdlim till : Nat) (r : Role) : Wave :=
  { team := team, tag := p.tag, waveId := wid, role := r.name, prio := r.prio, lregs := r.lregs, voff := voff
    s := ((List.range p.args.length).zip p.args).foldl (fun m q => FMap.put 0 m q.1 q.2) []
    k := [(0, 0xFFFFFFFF)], trapvec := p.lr.trapvec, wdog := wdlim, wlim := wdlim, ex := ExecSt.start p.lr.entry, movingTo := till
    sigacc := if p.isTask then p.sig else 0, sigfl := if p.isTask then min 6 p.floor else 6 }

/-- Places a team on a core whose free counts hold it, at the block offsets given. -/
def State.placeAt (s : State) (g : Nat) (p : Place) (offs : List Nat) (till : Nat) : State :=
  let team := s.nextId
  let roles := p.lr.waves
  let n := roles.length
  let t : Team :=
    { core := g, grid := p.grid, teamId := p.teamId, rank := p.teamId % p.lr.group, group := p.teamId / p.lr.group, groupSize := p.lr.group
      coop := p.lr.coop, depth := p.depth, tag := p.tag, join := p.join, jscope := p.jscope, lrec := p.lr.addr
      teammem := p.lr.teammem, nbar := p.lr.nbar, alive := n, parent := p.parent, isTask := p.isTask
      bars := (List.range p.lr.nbar).map fun b => (b, ⟨0, 0, n, 0⟩) }
  let s := { s.setTeam team t with nextId := team + 1 }
  let s := s.invalidateHits g p.sig
  let wdlim := (s.die (dieOf g)).wdlim.toNat
  let s := ((List.range n).zip (roles.zip offs)).foldl (fun (s : State) q =>
    s.setWave (wkey g (s.slotFor g q.2.1.prio)) (startWave p team q.1 q.2.2 wdlim till q.2.1)) s
  s.updCore g fun c => { c with packOff := [], packReq := [] }

/-- Places a team on a core, or has the core compacted first: `again` is then the event that comes back to the placement, with no
other turn between (R400). -/
def State.placeOn (s : State) (g : Nat) (p : Place) (again : Instr) : State × Bool :=
  let sizes := p.lr.waves.map fun r => 2 ^ r.lregs
  let c := s.core g
  if c.packOff.length = sizes.length ∧ sizes ≠ [] then (s.placeAt g p c.packOff c.packEnd, true)
  else match allocBlocks (s.blocks g) sizes with
    | some offs => (s.placeAt g p offs (s.packTill g), true)
    | none => (((s.updCore g fun c => { c with packReq := sizes }).soon again).soon (.compaction g), false)

/-! ### Submission queues (R393, R394) -/

/-- Writes ERR of a queue's descriptor. -/
def State.sqErr (s : State) (p bit : Nat) : State := s.writeHome (p + 0x20) (toBytes 4 (s.homeNat (p + 0x20) 4 ||| bit))

/-- A descriptor that is malformed (R393). -/
def sqBad (bs : List W8) : Bool :=
  let f := fun o n => field bs o n
  f 8 1 < 1 || 12 < f 8 1 || 3 < f 9 1 || f 0x0A 1 == 0 || !zeros bs 0x0B 5 || 7 < f 0x20 4 || !zeros bs 0x24 28

/-- Takes one entry that can be read: its STATUS, its grid, and HEAD (R394). -/
def State.sqTake (s : State) (d q p k head : Nat) (bs : List W8) : State :=
  let es := s.homeBytes (keysFrom k 64)
  let tag := field bs 0x0A 1
  let va := BitVec.ofNat 64 (field es 0 8)
  let r := s.unitRead d tag va 256
  if r.2 == .wait then r.1
  else
    let lr := match r.2 with | .bytes b => parseLRec va false b | _ => none
    let s := match r.2 with
      | .poison l => r.1.poisonRead d 8 (BitVec.ofNat 32 d) tag l
      | _ => r.1
    let lr := if zeros es 0x0C 0x34 then lr else none
    let status := match lr with | none => 1 | some l => if nbit l.dies d then 0 else 2
    let s := s.writeHome (k + 8) (toBytes 4 status)
    let u : SubQ := FMap.at' {} (s.die d).sq q
    let s := match lr with
      | some l =>
        if status = 0 then
          let g : Grid := { tag := tag, lr := l, die := d, sq := q, qprio := field bs 9 1, waitSince := (s.die d).ucc, sig := u.sig, floor := u.floor }
          { s with grids := s.grids.ins s.nextId g, nextId := s.nextId + 1 }
        else s
      | none => s
    let s := s.writeHome (p + 0x18) (toBytes 8 (head + 1))
    s.deviceRelease (lineOf p) false (sigInsert 0 (s.lineKey (lineOf k))) 6 6 (dieAnchor d)

/-- Replaces a submission queue of a die. -/
def State.setSq (s : State) (die sq : Nat) (u : SubQ) : State := s.updDie die fun d => { d with sq := d.sq.ins sq u }

/-- A descriptor line that a distributor has waited for has been written: every queue that stopped at it reads it again (R394). -/
def State.wakeQueues (s : State) (line : Nat) : State :=
  [0, 1].foldl (fun (s : State) d => s.updDie d fun x =>
    { x with sq := x.sq.map fun (q : Nat × SubQ) => (q.1, if lineOf (bits q.2.sqd 6 58 * 64) = line then { q.2 with stopped := false } else q.2) })
    { s with watch := s.watch.del line }

/-- A re-read of TAIL with an acquire, once it has been written: the pair is for the entries below it that are not taken (R394). -/
def State.sqAcquire (s : State) (die sq p : Nat) (bs : List W8) : State :=
  let u := FMap.at' {} (s.die die).sq sq
  let tail := BitVec.ofNat 64 (field bs 0x10 8)
  if u.tail = some tail then s
  else
    let q := s.slotAcquire (lineOf p)
    let left := u.tail.any fun t => t != BitVec.ofNat 64 (field bs 0x18 8)
    s.setSq die sq { u with tail := some tail, sig := if left then u.sig ||| q.1 else q.1, floor := if left then min u.floor q.2 else q.2 }

/-- The next entry of a queue whose descriptor can be read (R393, R394). -/
def State.sqNext (s : State) (die sq p : Nat) (bs : List W8) : State :=
  let n := 2 ^ field bs 8 1
  let tail := BitVec.ofNat 64 (field bs 0x10 8)
  let head := BitVec.ofNat 64 (field bs 0x18 8)
  if field bs 0x20 4 % 8 ≠ 0 then s
  else if sqBad bs then s.sqErr p 2
  else if n < (tail - head).toNat then s.sqErr p 1
  else if tail = head then s
  else
    let va := BitVec.ofNat 64 (field bs 0 8) + BitVec.ofNat 64 (64 * (head.toNat % n))
    let r := s.translate die none (field bs 0x0A 1) false .atomic va
    match r.2 with
    | .ok k =>
      match r.1.reach die (lineOf k) with
      | .ok => r.1.sqTake die sq p k head.toNat bs
      | .poison => (r.1.poisonRead die 8 (BitVec.ofNat 32 die) (field bs 0x0A 1) (lineOf k)).sqErr p 4
      | .dead => r.1.sqErr p 4
      | .hold _ => r.1
    | .hold _ => r.1
    | _ => r.1.sqErr p 4

/-- SQ_TAKE_ENTRY (R393, R394, R411, R434, R465). -/
def execSqTakeEntry (die sq : Nat) (s : State) : Host.Outcome State Fault Refusal :=
  let d := s.die die
  let u := FMap.at' {} d.sq sq
  let p := bits u.sqd 6 58 * 64
  .next (if !(bit d.run 0 && bit u.sqd 0) || u.lost then s
  else if memTop ≤ p then s.setSq die sq { u with lost := true }
  else if s.isReserved (lineOf p) || (u.stopped && s.watch.fetch (lineOf p) != some true) then s
  else
    let s := if u.stopped then s.wakeQueues (lineOf p) else s
    if s.poisoned (lineOf p) then
      let s := (s.poisonRead die 8 (BitVec.ofNat 32 die) 0 (lineOf p)).setSq die sq { u with stopped := true }
      { s with watch := s.watch.ins (lineOf p) false }
    else
      let bs := s.homeBytes (keysFrom p 64)
      (s.sqAcquire die sq p bs).sqNext die sq p bs)

/-! ### Placement of grids (R395) -/

/-- A grid has groups that no die has placed. -/
def Grid.waiting (g : Grid) : Bool := !g.isTask && g.nextGroup * g.lr.group < g.lr.nteams

/-- The place of a grid among a die's queues: its own queue, or the seventeenth (R395). -/
def Grid.queueOn (g : Grid) (d : Nat) : Option Nat := if g.die = d then some g.sq else if g.lr.dies = 3 then some 16 else none

/-- Two grids stand in one queue of a die: in their submission queue, or in the seventeenth queue of their priority (R395). -/
def Grid.queuedWith (g h : Grid) (d : Nat) : Bool :=
  (g.die == h.die && g.sq == h.sq) || (g.queueOn d == some 16 && h.queueOn d == some 16 && g.qprio == h.qprio)

/-- The grid at the head of each queue of a die: the first in it that is not all placed. -/
def State.waitingGrids (s : State) (d : Nat) : List (Nat × Grid) :=
  s.grids.filter fun (p : Nat × Grid) =>
    p.2.waiting && (p.2.queueOn d).isSome && s.grids.all fun (q : Nat × Grid) => !(q.1 < p.1 && q.2.queuedWith p.2 d && q.2.waiting)

/-- The order in which a distributor serves them: by priority, then round-robin after the queue served last; a grid that has waited
too long stops every other one of its priority or a lower one (R395). -/
def State.serveOrder (s : State) (d : Nat) : List (Nat × Grid) :=
  let ws := s.waitingGrids d
  let last := (s.die d).lastSq
  let starved := (ws.filter fun p => p.2.starved).foldl (fun n p => max n (p.2.qprio + 1)) 0
  let ws := ws.filter fun p => starved ≤ p.2.qprio || (p.2.starved && p.2.qprio + 1 == starved)
  [3, 2, 1, 0].flatMap fun pr => (List.range 17).flatMap fun i =>
    ws.filter fun p => p.2.qprio == pr && p.2.queueOn d == some ((last + 1 + i) % 17)

/-- The grids of a queue begin to wait when every team of the one before has been placed (R395). -/
def State.restartWaits (s : State) (gid : Nat) (g : Grid) : State :=
  { s with grids := s.grids.map fun (p : Nat × Grid) =>
      (p.1, if p.1 != gid && p.2.die == g.die && p.2.sq == g.sq && !p.2.isTask then { p.2 with waitSince := (s.die g.die).ucc } else p.2) }

/-- Places the next rank of the group under placement. -/
def State.placeRank (s : State) (d gid : Nat) (g : Grid) : State :=
  match g.todo with
  | [] => s
  | c :: rest =>
    let rank := g.lr.group - g.todo.length
    let p : Place :=
      { lr := g.lr, grid := gid, teamId := (g.nextGroup - 1) * g.lr.group + rank, depth := 0, tag := g.tag, join := g.lr.join
        jscope := g.lr.jscope, parent := 0, isTask := false, args := g.lr.args, sig := g.sig, floor := g.floor }
    let r := s.placeOn c p (.placeTeam d)
    if !r.2 then r.1
    else
      let g := { g with todo := rest, waitSince := (s.die g.die).ucc, starved := false }
      let s := { r.1 with grids := r.1.grids.ins gid g }
      if !rest.isEmpty then s.soon (.placeTeam d)
      else if g.nextGroup * g.lr.group < g.lr.nteams then s
      else s.restartWaits gid g

/-- PLACE_TEAM (R40, R395 to R400, R465): the next team of a group under placement, or the choice of the next group that fits. The
ranks of a group follow one another at once; a group that is chosen for a core at work in a compaction waits for its end (log entry
54). -/
def execPlaceTeam (die : Nat) (s : State) : Host.Outcome State Fault Refusal :=
  .next (if !bit (s.die die).run 0 then s
  else match s.grids.find? fun (p : Nat × Grid) => !p.2.todo.isEmpty && p.2.todoDie == die with
  | some p => s.placeRank die p.1 p.2
  | none =>
    match (s.serveOrder die).findSome? fun p => (s.groupPlan die p.2.lr).map fun gs => (p, gs) with
    | none => s
    | some (p, gs) =>
      if gs.any s.packing then s
      else
      let g := { p.2 with todo := gs, todoDie := die, nextGroup := p.2.nextGroup + 1 }
      let s := { s with grids := s.grids.ins p.1 g }
      (s.updDie die fun d => { d with lastSq := (g.queueOn die).getD 0 }).placeRank die p.1 g)

/-- PLACEMENT_STARVATION (R395): a team that has waited 2^20 cc, throttled ones aside (R468). -/
def execPlacementStarvation (die : Nat) (s : State) : Host.Outcome State Fault Refusal :=
  .next ((s.waitingGrids die).foldl (fun (s : State) p =>
    if p.2.waitSince + 2 ^ 20 ≤ (s.die p.2.die).ucc then { s with grids := s.grids.upd p.1 fun g => { g with starved := true } } else s) s)

/-! ### Tasks (R303 to R305, R401 to R404) -/

/-- The launch record of a task: nothing when it is rejected, with the poisoned line if that is why; and whether its read must
wait. -/
def State.taskRec (s : State) (d : Nat) (t : Task) : State × Option LRec × Option Nat × Bool :=
  let r := s.unitRead d t.tag t.krec 256
  match r.2 with
  | .bytes bs => (r.1, parseLRec t.krec true bs, none, false)
  | .poison l => (r.1, none, some l, false)
  | .bad => (r.1, none, none, false)
  | .wait => (r.1, none, none, true)

/-- An entry fits a core; one whose record is rejected fits every core (R401). -/
def State.taskFits (s : State) (g : Nat) (t : Task) : Bool :=
  let r := s.taskRec (dieOf g) t
  !r.2.2.2 && (match r.2.1 with | some lr => (s.freeOf g).holds lr.need | none => true)

/-- The arrival of a task that does not run (R304, R415): an empty signature with floor 6. -/
def State.taskGone (s : State) (d : Nat) (t : Task) : State := s.arrive d 1 t.tag t.join t.scope true 0 6 t.parent (dieAnchor d)

/-- A core takes an entry that fits it: it runs as one team, or arrives poisoned (R304, R392, R399, R401, R404). `out` takes the
entry off its place; `from_` is the die that holds it. -/
def State.takeTask (s : State) (g from_ : Nat) (t : Task) (out : State → State) (again : Instr) : State :=
  let r := s.taskRec (dieOf g) t
  match r.2.1 with
  | none =>
    let s := match r.2.2.1 with
      | some l => r.1.poisonRead (dieOf g) 8 (BitVec.ofNat 32 (dieOf g)) t.tag l
      | none => r.1
    ((out s).updCore g fun c => { c with took := s.cc + 1 }).taskGone from_ t
  | some lr =>
    let args := t.args ++ lr.args.drop t.args.length
    let gid := r.1.nextId
    let gr : Grid := { tag := t.tag, lr := lr, die := dieOf g, sq := 0, qprio := 0, nextGroup := 1, isTask := true }
    let p : Place := { lr := lr, grid := gid, teamId := 0, depth := t.depth, tag := t.tag, join := t.join, jscope := t.scope, parent := t.parent
                       isTask := true, args := args, sig := t.sig, floor := t.floor }
    let q := { r.1 with nextId := gid + 1 }.placeOn g p again
    if !q.2 then q.1
    else (out { q.1 with grids := q.1.grids.ins gid gr }).updCore g fun c => { c with took := s.cc + 1 }

/-- A core may take an entry in this cc (R399, R470). -/
def State.mayTake (s : State) (g : Nat) : Bool :=
  g < 320 && s.coreOpen g && (s.core g).took != s.cc + 1 && (!(s.core g).packOff.isEmpty || !s.packing g)

/-- TAKE_HAND (R401). -/
def execTakeHand (core : Nat) (s : State) : Host.Outcome State Fault Refusal :=
  .next (match (s.core core).hand.getLast? with
  | none => s
  | some t =>
    if s.mayTake core && s.taskFits core t then
      s.takeTask core (dieOf core) t (fun s => s.updCore core fun c => { c with hand := c.hand.dropLast }) (.takeHand core)
    else s)

/-- The victims of a core, in the order of its probes (R402). -/
def victims (g : Nat) : List Nat :=
  let base := 16 * clusterOf g
  let own := (List.range 15).map fun i => base + (g % 16 + 1 + i) % 16
  let cl := clusterOf g
  let d := cl / 10
  own ++ ((List.range 9).map fun i => 10 * d + (cl % 10 + 1 + i) % 10).flatMap fun c => coresFrom (16 * c) 16

/-- The victim that a core steals from: at a victim whose bottom entry another thief has taken in this cc, it goes on (R402). -/
def State.stealFrom (s : State) (g : Nat) : Option (Nat × Task) :=
  (victims g).findSome? fun v =>
    if (s.core v).robbed = s.cc + 1 then none
    else match (s.core v).hand with | t :: _ => if s.taskFits g t then some (v, t) else none | [] => none

/-- A core looks for work elsewhere (R402). -/
def State.maySteal (s : State) (g : Nat) : Bool :=
  s.mayTake g && (s.core g).hand.isEmpty && 1 ≤ (s.freeOf g).w && 8 ≤ (s.freeOf g).v

/-- STEAL (R402). -/
def execSteal (core : Nat) (s : State) : Host.Outcome State Fault Refusal :=
  .next (if !s.maySteal core then s
  else match s.stealFrom core with
    | none => s
    | some (v, t) => s.takeTask core (dieOf v) t (fun s => s.updCore v fun c => { c with hand := c.hand.tail, robbed := s.cc + 1 }) (.steal core))

/-- KITTY_TAKE (R403): one core takes from the kitty in a cc. -/
def execKittyTake (core : Nat) (s : State) : Host.Outcome State Fault Refusal :=
  .next (if !(s.maySteal core && (s.stealFrom core).isNone) || s.kittyTook == s.cc + 1 then s
  else match s.kitty with
    | [] => s
    | t :: _ =>
      if s.taskFits core t then s.takeTask core (dieOf core) t (fun s => { s with kitty := s.kitty.tail, kittyTook := s.cc + 1 }) (.kittyTake core)
      else s)

/-- The kitty is enabled; a base outside the device's memory counts as a full kitty (R403, R411, R465). -/
def State.kittyOn (s : State) : Bool :=
  let n := bits s.klog2n 0 5
  s.klog2n.toNat == n && 10 ≤ n && n ≤ 20 && s.kbase.toNat < memTop

/-- Room in the kitty: the number of entries that it can still take (R305, R465). -/
def State.kittyRoom (s : State) : Nat :=
  let n := bits s.klog2n 0 5
  if s.kittyOn then 2 ^ n - s.kitty.length else 0

/-- Pushes an entry onto a hand, whose bottom entry moves to the kitty when it is full (R304, R305). -/
def State.pushTask (s : State) (g : Nat) (t : Task) : State :=
  let h := (s.core g).hand
  let s := if h.length < 256 then s else { s with kitty := s.kitty ++ h.take 1 }
  (s.updCore g fun c => { c with hand := (if h.length < 256 then h else h.tail) ++ [t] }).childAdd t.parent

/-- The hand takes an entry now. -/
def State.handRoom (s : State) (g : Nat) : Bool := (s.core g).hand.length < 256 || 1 ≤ s.kittyRoom

/-- The task that a record describes (R303), or nothing when the record is malformed. -/
def taskOf (bs : List W8) (t : Team) (team : Nat) (sig : Sig) (floor : Nat) : Option Task :=
  let f := fun o n => field bs o n
  if f 0 8 % 256 = 0 ∧ f 8 8 ≠ 0 ∧ f 8 8 % 64 = 0 ∧ 1 ≤ f 0x10 1 ∧ f 0x10 1 ≤ 6 ∧ zeros bs 0x11 7 then
    some { krec := BitVec.ofNat 64 (f 0 8), join := BitVec.ofNat 64 (f 8 8), scope := f 0x10 1
           args := (List.range 5).map fun i => BitVec.ofNat 64 (f (0x18 + 8 * i) 8), depth := t.depth + 1, sig := sig, floor := floor
           parent := team, tag := t.tag }
  else none

/-- One performance of `spawn` (R304, R305). A wave without a team spawns nothing (log entry 33). -/
def State.spawnAt (s : State) (x : Ctx) : Perf :=
  let va := x.w.sreg x.f.a.num.toNat
  match s.teams.fetch x.w.team with
  | none => .fault s { code := .prot, addr := va, kind := .desc }
  | some t =>
    if t.depth = 10 then .fault s { code := .nestdepth }
    else s.withDesc x va 64 fun bs s =>
      if (taskOf bs t x.w.team 0 6).isNone then .fault s { code := .prot, addr := va, kind := .desc }
      else s.relPerf x 4 fun s =>
        match s.waves.fetch x.key with
        | none => .done s
        | some w =>
          match taskOf bs t x.w.team w.sigacc w.sigfl with
          | none => .done s
          | some k =>
            if s.handRoom x.core then .done (s.pushTask x.core k)
            else .wait (s.updWave x.key fun w => { w with spawning := w.spawning.ins x.entry k }) .kitty

/-- `spawn` (R304). -/
def execSpawn (f : F) (s : State) : Host.Outcome State Fault Refusal :=
  issue (.spawn f) s fun x s => s.engineForm x (.spawn f) fun x s => s.spawnAt x

/-- SPAWN_PUSH (R305): the push of a `spawn` that waits, once there is room, and then the performances that remain. -/
def execSpawnPush (w : WRef) (e : Nat) (s : State) : Host.Outcome State Fault Refusal :=
  let wk := wkey w.core w.slot
  .next (match (s.waves.fetch wk).bind fun v => if v.halted then none else v.ex.splits.fetch e with
  | none => s
  | some sp =>
    match sp.form, (s.waves.fetch wk).bind fun v => v.spawning.fetch e with
    | some (.spawn f), some k =>
      if sp.stall != .kitty || !s.handRoom w.core then s
      else match s.ctxAt w.core w.slot e f with
        | none => s
        | some x =>
          let s := (s.pushTask w.core k).updWave wk fun v => { v with spawning := v.spawning.del e }
          if x.conv then s.advance x
          else
            let l := ((x.performs.filter fun l => !bit x.w.fcm l).headD 0)
            let s := s.updWave wk fun v => { v with fcm := v.fcm ||| laneBit l }
            match s.ctxAt w.core w.slot e f with
            | none => s
            | some x => s.engineForm x (.spawn f) fun x s => s.spawnAt x
    | _, _ => s)

end Sys2Proof.Machine
end

