-- ==== Sys2Proof/Machine/CtxRec.lean ====
section
/-! DEFINITION. Context records: their bytes (R426 to R429), `ctxsave` and `ctxload` (R68, R134, R214, R430). -/
namespace Sys2Proof.Machine

/-! ### Bytes of a record -/

def pad (n : Nat) : List W8 := List.replicate n 0

/-- A list of bytes filled with zeros to a length. -/
def padTo (n : Nat) (bs : List W8) : List W8 := bs ++ pad (n - bs.length)

/-- The numbers of the poisoned registers of a file as a set of bits. -/
def poisonBits (m : FMap Bool) : Nat := (m.map fun p => if p.2 then 2 ^ p.1 else 0).sum

/-- The poisoned registers that a set of bits names. -/
def poisonMap (n v : Nat) : FMap Bool := ((List.range n).filter fun i => v.testBit i).map fun i => (i, true)

/-- The PC of a lane in the per-lane PC file (R45): its split's, its record's or its own. -/
def ExecSt.pcOf (x : ExecSt) (l : Nat) : W64 :=
  match x.splits.find? fun p => bit p.2.mask l with
  | some p => p.2.pc
  | none => match x.rdv.find? fun r => bit r.waiting l with
    | some r => r.pc
    | none => x.lanePc l

/-- What remains of a `wait` form (R205, R429). -/
def remaining (cc till : Nat) : Nat := min (till - cc) 0xFFFFFFFF

/-- An execution state block (R429). -/
def ExecSt.bytes (x : ExecSt) (cc : Nat) : List W8 :=
  ((List.range 4).flatMap fun e => match x.splits.fetch e with
    | some p => toBytes 8 p.pc.toNat ++ toBytes 4 p.mask.toNat ++ toBytes 4 (remaining cc p.waitTo)
    | none => pad 16)
  ++ toBytes 4 x.parked.length ++ toBytes 4 (if x.conv then 1 else 0) ++ toBytes 4 x.ptimer ++ pad 4
  ++ ((List.range 32).flatMap fun i => toBytes 4 (x.parked.getD i 0).toNat)
  ++ ((List.range 8).flatMap fun i => match x.rdv[i]? with
    | some r => toBytes 8 r.pc.toNat ++ toBytes 4 r.mask.toNat ++ toBytes 4 r.waiting.toNat
    | none => pad 16)
  ++ pad 48 ++ (List.range 32).flatMap fun l => toBytes 8 (x.pcOf l).toNat

/-- The 256 bytes of a trap frame (R409). -/
def Frame.bytes (f : Frame) : List W8 :=
  toBytes 4 f.code.toNat ++ toBytes 4 f.lanes.toNat ++ toBytes 8 f.fpc.toNat ++ toBytes 8 f.rpc.toNat ++ toBytes 8 f.addr.toNat
    ++ toBytes 4 f.marked.toNat ++ toBytes 4 f.info.toNat ++ toBytes 4 f.sconv.toNat ++ toBytes 4 f.mode.toNat
    ++ ((List.range 4).flatMap fun i => toBytes 8 (FMap.at' 0 f.save i).toNat)
    ++ (List.range 176).map fun i => FMap.at' 0 f.scratch (0x50 + i)

/-- The non-zero numbers of a list, by place. -/
def nonzero {w : Nat} (vs : List (BitVec w)) : FMap (BitVec w) := ((List.range vs.length).zip vs).filter fun p => p.2 != 0

/-- The k numbers of n bytes each that begin a list of bytes. -/
def numsOf (n : Nat) : List W8 → Nat → List Nat
  | _, 0 => []
  | bs, k + 1 => ofBytes (bs.take n) :: numsOf n (bs.drop n) k

def words32 (bs : List W8) (k : Nat) : List W32 := (numsOf 4 bs k).map fun v => BitVec.ofNat 32 v
def words64 (bs : List W8) (k : Nat) : List W64 := (numsOf 8 bs k).map fun v => BitVec.ofNat 64 v

/-- A frame from its bytes. SCONV and MODE keep their one bit (log entry 46). -/
def Frame.ofBytes (bs : List W8) : Frame :=
  let w := fun o => BitVec.ofNat 32 (field bs o 4)
  let d := fun o => BitVec.ofNat 64 (field bs o 8)
  { code := w 0, lanes := w 4, fpc := d 8, rpc := d 0x10 &&& ~~~7, addr := d 0x18, marked := w 0x20, info := w 0x24, sconv := w 0x28 &&& 1
    mode := w 0x2C &&& 1, save := nonzero (words64 (bs.drop 0x30) 4)
    scratch := ((List.range 176).zip (bs.drop 0x50)).filterMap fun p => if p.2 = 0 then none else some (0x50 + p.1, p.2) }

/-- Size of a wave section (R428). -/
def waveBytes (lregs : Nat) : Nat := 4096 + 128 * 2 ^ lregs

/-- A wave section (R428). -/
def Wave.bytes (w : Wave) (cc : Nat) : List W8 :=
  let h := w.hnd.isSome
  let b := fun (x : Bool) (i : Nat) => if x then 2 ^ i else 0
  toBytes 4 (w.waveId + 2 ^ 8 * w.role + 2 ^ 16 * w.prio + 2 ^ 24 * w.lregs)
    ++ toBytes 4 (b h 0 + b (w.frozen || h) 1 + b w.suspended 2 + b w.stopped 3 + b w.supervisor 4 + 2 ^ 16 * w.seq)
    ++ toBytes 4 w.flags.toNat ++ toBytes 4 w.fpctl.toNat ++ toBytes 4 w.fcm.toNat
    ++ toBytes 1 w.sigfl ++ toBytes 1 (w.pcode.elim 0 Code.num) ++ pad 2 ++ toBytes 4 w.wdog ++ toBytes 4 w.wlim
    ++ toBytes 8 w.trapvec.toNat ++ pad 24
    ++ toBytes 32 (poisonBits w.vpois) ++ toBytes 8 (poisonBits w.spois) ++ toBytes 4 (poisonBits w.apois) ++ pad 20
    ++ (w.hnd.getD w.ex).bytes cc ++ (if h then w.ex.bytes cc else pad 640)
    ++ toBytes 128 w.sigacc.toNat
    ++ ((List.range 8).flatMap fun i => toBytes 4 (FMap.at' 0 w.k i).toNat) ++ pad 32
    ++ ((List.range 64).flatMap fun i => toBytes 8 (w.sreg i).toNat)
    ++ ((List.range 32).flatMap fun i => toBytes 8 (w.areg i).base.toNat ++ toBytes 4 (w.areg i).stride.toNat ++ pad 4)
    ++ w.frame.bytes ++ ((List.range 64).flatMap fun i => toBytes 4 (FMap.at' 0 w.wt i).toNat) ++ pad 960
    ++ (List.range (32 * 2 ^ w.lregs)).flatMap fun i => toBytes 4 (FMap.at' 0 w.v i).toNat

/-- A window entry of a team section (R427). -/
def winBytes (off : Nat) (sw : Bool) (writer kind : Nat) (seq : W32) (owner : Nat) : List W8 :=
  toBytes 4 off ++ toBytes 1 (if sw then 1 else 0) ++ toBytes 1 writer ++ toBytes 1 kind ++ pad 1 ++ toBytes 4 seq.toNat ++ toBytes 4 owner

/-- Rank of a team of a cluster group, resident or saved. -/
def State.rankNumber (s : State) (team : Nat) : Nat :=
  match s.teams.fetch team with
  | some t => t.rank
  | none => match s.kept.fetch team with
    | some k => k.teamId % k.groupSize
    | none => 0

/-- Size of a team section with n window entries (R427). -/
def teamSize (teammem n : Nat) : Nat := (0x800 + teammem + teammem / 32 + 16 * n + 255) / 256 * 256

def Team.sectionSize (t : Team) : Nat := teamSize t.teammem (t.windows.length + t.replicas.length)

/-- Bit i of the full bits of a byte of the section (R427). -/
def Team.fullByte (t : Team) (i : Nat) : W8 :=
  BitVec.ofNat 8 ((List.range 8).map fun j => if FMap.at' false t.full (8 * i + j) then 2 ^ j else 0).sum

/-- A team section (R427). -/
def State.teamBytes (s : State) (t : Team) (woff : Nat) : List W8 :=
  padTo t.sectionSize
    (toBytes 4 t.teamId ++ toBytes 2 t.rank ++ toBytes 1 (if t.draining then 1 else 0) ++ pad 1 ++ toBytes 4 t.depth ++ toBytes 4 t.alive
      ++ toBytes 4 t.teammem ++ toBytes 4 t.nbar ++ toBytes 4 t.children ++ toBytes 2 t.windows.length ++ toBytes 2 t.replicas.length
      ++ toBytes 8 t.lrec.toNat ++ toBytes 8 t.join.toNat ++ toBytes 1 t.jscope ++ toBytes 1 t.tsigfl ++ toBytes 2 (poisonBits t.tpois)
      ++ toBytes 4 t.clucnt.toNat ++ pad 8 ++ toBytes 8 woff ++ toBytes 8 t.sectionSize ++ pad 0xB0
      ++ toBytes 128 t.tsig.toNat ++ ((List.range 16).flatMap fun i => toBytes 8 (FMap.at' 0 t.t i).toNat)
      ++ ((List.range 64).flatMap fun b => match t.bars.fetch b with
        | some e => toBytes 4 e.ph.toNat ++ toBytes 2 e.arr ++ toBytes 2 e.expect ++ toBytes 4 e.tx.toNat ++ pad 4
        | none => pad 16)
      ++ pad 0x200 ++ t.bytes 0 t.teammem ++ ((List.range (t.teammem / 32)).map t.fullByte)
      ++ (t.windows.flatMap fun (w : Nat × Window) => winBytes w.1 w.2.sw w.2.writer 0 w.2.seq t.rank)
      ++ t.replicas.flatMap fun r =>
        let w := (s.teams.fetch r.owner).bind fun o => o.windows.fetch r.offset
        winBytes r.offset (w.any fun w => w.sw) (w.elim 0 fun w => w.writer) 1 r.seq (s.rankNumber r.owner))

/-- The waves of a team in the order of their WAVEID. -/
def State.byWaveId (s : State) (team : Nat) : List (Nat × Wave) := sortBy (fun a b => decide (a.2.waveId ≤ b.2.waveId)) (s.wavesOf team)

/-- Bytes of the wave sections of a team. -/
def State.waveSize (s : State) (team : Nat) : Nat := ((s.wavesOf team).map fun p => waveBytes p.2.lregs).sum

/-- LEN of a record of some teams (R426). -/
def State.recordLen (s : State) (ts : List (Nat × Team)) : Nat := 256 + (ts.map fun p => p.2.sectionSize + s.waveSize p.1).sum

/-- The body of a record: team sections, then wave sections (R426). -/
def State.recordBody (s : State) (ts : List (Nat × Team)) : List W8 :=
  let woff0 := 256 + (ts.map fun p => p.2.sectionSize).sum
  let secs := (ts.foldl (fun (q : List W8 × Nat) p => (q.1 ++ s.teamBytes p.2 q.2, q.2 + s.waveSize p.1)) ([], woff0)).1
  secs ++ ts.flatMap fun p => (s.byWaveId p.1).flatMap fun w => w.2.bytes s.cc

/-! ### The record's pages (R214) -/

/-- Translates a range page by page: pieces of keys, and what is taken first where pages fail (R214, R288). -/
def State.rangeKeys (s : State) (x : Ctx) (kind : Kind) (va : W64) : Nat → Nat → State × List (Nat × Nat) × Read
  | 0, _ => (s, [], .bytes [])
  | q + 1, n =>
    if n = 0 then (s, [], .bytes [])
    else
      let m := min n (65536 - va.toNat % 65536)
      let r := s.waveKeys x kind va 1
      let t := State.rangeKeys r.1 x kind (va + BitVec.ofNat 64 m) q (n - m)
      match r.2 with
      | .keys ks => (t.1, (ks.headD 0, m) :: t.2.1, t.2.2)
      | .fault fi => (t.1, [], Read.first [.fault fi, t.2.2])
      | .wait why => (t.1, [], Read.first [.wait why, t.2.2])

/-- A range of the record, or PROT beyond the global space. -/
def State.recordKeys (s : State) (x : Ctx) (kind : Kind) (va : W64) (n : Nat) : State × List (Nat × Nat) × Read :=
  if 0x0100000000000000 < va.toNat + n then (s, [], .fault { code := .prot, addr := va, kind := kind })
  else s.rangeKeys x kind va (n / 65536 + 2) n

/-- Every byte of some pieces. -/
def pieceKeys (ps : List (Nat × Nat)) : List Nat := ps.flatMap fun p => keysFrom p.1 p.2

/-- Writes consecutive bytes at their homes line by line, so that each line finds room in its L2 (R21); the issuing core's L1 copies
of the lines go. -/
def State.writeLines (s : State) (g k : Nat) (bs : List W8) : State :=
  (keysFrom (k / 128) ((k % 128 + bs.length + 127) / 128)).foldl (fun (s : State) l =>
    let lo := max k (128 * l)
    s.unitWrite g lo ((bs.drop (lo - k)).take (128 * (l + 1) - lo))) s

/-- Writes bytes at the homes of some pieces. -/
def State.writePieces (s : State) (g : Nat) : List (Nat × Nat) → List W8 → State
  | [], _ => s
  | p :: ps, bs => State.writePieces (s.writeLines g p.1 (bs.take p.2)) g ps (bs.drop p.2)

/-- A reserved or tag field of the header is wrong: status 4 (R214, R426). -/
def headerBad (h : List W8) : Bool := field h 4 4 == 0 || 255 < field h 4 4 || !zeros h 0x14 4 || !zeros h 0x28 0xD8

/-- The form writes its status and completes. -/
def State.ctxStatus (s : State) (x : Ctx) (va : W64) (n : Nat) : State := (s.putField x va (toBytes 4 n)).advance x

/-! ### `ctxsave` -/

/-- The teams of a tag on a core, in team order. -/
def State.contextTeams (s : State) (g tag : Nat) : List (Nat × Team) := s.teams.filter fun (p : Nat × Team) => p.2.core == g && p.2.tag == tag

/-- The status of a save that does not save, 0 for one that does (R214). DESIGN CHOICE (log entry 28): the issuing wave belongs to
the context when it has the header's tag and stands on the header's core. -/
def State.saveStatus (s : State) (x : Ctx) (g tag limit : Nat) : Nat :=
  let ts := s.contextTeams g tag
  let ents := (s.core g).hand.filter fun (t : Task) => ts.any fun p => p.1 == t.parent
  if limit < s.recordLen ts then 4
  else if x.core = g ∧ x.w.tag = tag then 5
  else if ts.all fun p => (s.wavesOf p.1).isEmpty then 2
  else if !s.kittyOn || s.kittyRoom < ents.length then 6
  else 0

/-- Handlers that a save froze go on when nothing is saved (R68). -/
def State.thaw (s : State) (g tag : Nat) : State :=
  { s with waves := s.waves.map fun (p : Nat × Wave) => if p.1 / 64 == g && p.2.tag == tag then (p.1, { p.2 with frozen := false }) else p }

/-- Every update on its way from or to a team is applied, and it leaves the subscribers' lists (R134). -/
def State.settleWindows (s : State) (team : Nat) : State :=
  let s := match s.teams.fetch team with
    | some t => t.windows.foldl (fun (s : State) (w : Nat × Window) => s.applyUpdates team w.1) s
    | none => s
  let s := match s.teams.fetch team with
    | some t => t.replicas.foldl (fun (s : State) r => s.applyUpdates r.owner r.offset) s
    | none => s
  s

/-- What the device keeps of a team that is saved at a place of a record (R427). -/
def State.keep (s : State) (n : Nat) (t : Team) (place : Nat × Nat) : Kept :=
  { tag := t.tag, teamId := t.teamId, join := t.join, lrec := t.lrec, grid := t.grid, children := t.children, rsig := t.rsig, rfl := t.rfl
    killed := t.killed, parent := t.parent, isTask := t.isTask, group := t.group, groupSize := t.groupSize, coop := t.coop
    dead := (s.wavesOf n).foldl (fun m p => match p.2.deadStore with | some i => m.ins p.2.waveId i | none => m) [], place := some place }

/-- Frees a saved team: its waves, its subscriptions and itself. -/
def State.unload (s : State) (n : Nat) (t : Team) (place : Nat × Nat) : State :=
  let k := s.keep n t place
  { s with
    kept := s.kept.ins n k
    waves := s.waves.filter fun (p : Nat × Wave) => p.2.team != n
    teams := (s.teams.del n).map fun (p : Nat × Team) =>
      (p.1, { p.2 with windows := p.2.windows.map fun (w : Nat × Window) => (w.1, { w.2 with subs := w.2.subs.del n }) }) }

/-- Errors of a kind that a save finds in the registers of a context (R91 to R93). -/
def State.errorsOf (s : State) (ts : List (Nat × Team)) (hard : Bool) : Nat :=
  let n := fun (m : FMap Bool) => (m.filter fun p => p.2 == hard).length
  (ts.map fun p => n p.2.tpois + ((s.wavesOf p.1).map fun w => n w.2.vpois + n w.2.spois + n w.2.apois).sum).sum

/-- The save itself: buffers drain, the record is written, resources fall free, hand entries move to the kitty. -/
def State.saveContext (s : State) (x : Ctx) (va : W64) (g tag : Nat) (ps : List (Nat × Nat)) : State :=
  let s := (s.contextTeams g tag).foldl (fun (s : State) p => s.settleWindows p.1) s
  let ts := s.contextTeams g tag
  let nw := (ts.map fun p => (s.wavesOf p.1).length).sum
  let h := s.homeBytes ((pieceKeys ps).take 256)
  let rec_ := h.take 0x0C ++ toBytes 4 ts.length ++ toBytes 4 nw ++ (h.drop 0x14).take 4 ++ toBytes 8 (s.recordLen ts) ++ h.drop 0x20
    ++ s.recordBody ts
  let s := ((s.writePieces x.core ps rec_).countCe g (s.errorsOf ts false)).countUe g (s.errorsOf ts true)
  let here := (ps.headD (0, 0)).1
  let s := { s with kept := s.kept.map fun (p : Nat × Kept) => (p.1, if p.2.place.any (fun (q : Nat × Nat) => q.1 == here) then { p.2 with place := none } else p.2) }
  let ents := (s.core g).hand.filter fun (t : Task) => ts.any fun p => p.1 == t.parent
  let s := { s.updCore g (fun c => { c with hand := c.hand.filter fun (t : Task) => !(ts.any fun p => p.1 == t.parent) }) with kitty := s.kitty ++ ents }
  (((List.range ts.length).zip ts).foldl (fun (s : State) p => s.unload p.2.1 p.2.2 (here, p.1)) s).ctxStatus x va 0

/-- The request that a save makes of a core: one that has come there stands until the form completes (R68, R214). -/
def State.saveAsk (s : State) (x : Ctx) (g tag : Nat) : SaveAsk :=
  let new : SaveAsk := ⟨g, tag, s.cc, (s.die (dieOf g)).ucc⟩
  match x.sp.ask with
  | some a => if a.core = g ∧ a.tag = tag then a else new
  | none => new

/-- The request stands with the split, whatever holds the form back. -/
def State.asking (s : State) (x : Ctx) (a : SaveAsk) : State :=
  s.updWave x.key fun w => { w with ex := { w.ex with splits := w.ex.splits.upd x.entry fun p => { p with ask := some a } } }

/-- The rest of `ctxsave`, once the record's pages are there. -/
def State.saveTry (s : State) (x : Ctx) (va : W64) (g tag limit : Nat) (ps : List (Nat × Nat)) : State :=
  let s := s.endGone
  let st := s.saveStatus x g tag limit
  let a := s.saveAsk x g tag
  if st ≠ 0 then (s.thaw g tag).ctxStatus x va st
  else
    let s := s.asking x a
    if !s.mayLeave g tag || s.savedBefore x.key a then s.stallAt x (.context g tag) (.ctxsave x.f)
    else
      let s := ((s.contextTeams g tag).flatMap fun p => s.wavesOf p.1).foldl (fun (s : State) p => s.drainWave p.1) s
      match ((s.contextTeams g tag).flatMap fun p => s.wavesOf p.1).findSome? fun p => s.waitsFor p.1 with
      | some why => s.stallAt x why (.ctxsave x.f)
      | none => s.saveContext x va g tag ps

/-- `ctxsave` after its privilege check. -/
def State.ctxSave (s : State) (x : Ctx) : State :=
  let va := x.w.sreg x.f.a.num.toNat
  if va.toNat % 256 ≠ 0 then s.raise x { code := .misalign, addr := va, kind := .load }
  else
    let r := s.readDesc x .load va 256
    match r.2 with
    | .fault fi => r.1.raise x fi
    | .wait why => r.1.stallAt x why (.ctxsave x.f)
    | .bytes h =>
      let tag := field h 4 4
      let g := field h 8 4
      let limit := field h 0x20 8
      if headerBad h || limit < 256 then r.1.ctxStatus x va 4
      else if 320 ≤ g then r.1.ctxStatus x va 1
      else if limit < r.1.recordLen (r.1.contextTeams g tag) then r.1.ctxStatus x va 4
      else
        let q := r.1.recordKeys x .store va limit
        match q.2.2 with
        | .fault fi => (q.1.thaw g tag).raise x fi
        | .wait why => q.1.stallAt x why (.ctxsave x.f)
        | .bytes _ =>
          match q.1.reachAll x.die (pieceKeys q.2.1) with
          | (.hold why, _) => q.1.stallAt x why (.ctxsave x.f)
          | (.dead, k) => (q.1.thaw g tag).raise x { code := .remdead, addr := va, kind := .store, inc := q.1.incAt x.die k }
          | _ => q.1.saveTry x va g tag limit q.2.1

/-- `ctxsave` (R214). -/
def execCtxsave (f : F) (s : State) : Host.Outcome State Fault Refusal :=
  issue (.ctxsave f) s fun x s => s.privileged x fun s => s.ctxSave x

/-! ### Reading a record (R427 to R429, R68) -/

/-- An execution state from its block: running lanes regroup by PC, ascending, and the groups without an entry stand before
the saved parked groups (R68); or nothing when the block breaks R45. -/
def ExecSt.ofBytes (bs : List W8) (cc : Nat) (live : W32) : Option ExecSt :=
  let w := fun o => BitVec.ofNat 32 (field bs o 4)
  let pcs := words64 (bs.drop 0x180) 32
  let pc := fun l => pcs.getD l 0
  let running := (List.range 4).foldl (fun (m : W32) e => m ||| w (16 * e + 8)) 0
  let till := fun (m : W32) => (List.range 4).foldl (fun n e => if w (16 * e + 8) &&& m = 0 then n else max n (w (16 * e + 12)).toNat) 0
  let gs := groups running pc
  let npark := field bs 0x40 4
  let parked := (List.range npark).map fun i => w (0x50 + 4 * i)
  let rdv := ((List.range 8).map fun i =>
    ({ pc := BitVec.ofNat 64 (field bs (0xD0 + 16 * i) 8), mask := w (0xD8 + 16 * i), waiting := w (0xDC + 16 * i) } : Rdv)).filter fun r =>
      r.mask != 0
  let held := running ||| rdv.foldl (fun (m : W32) r => m ||| r.waiting) 0
  let x : ExecSt :=
    { splits := ((List.range 4).zip gs).map fun p =>
        (p.1, { pc := BitVec.ofNat 64 p.2.1, mask := p.2.2, waitTo := if till p.2.2 = 0 then 0 else cc + till p.2.2 })
      parked := ((gs.drop 4).map fun p => p.2) ++ parked
      ptimer := field bs 0x48 4, rdv := rdv, conv := nbit (field bs 0x44 4) 0
      pcf := ((List.range 32).filter fun l => !bit (held &&& ~~~((gs.drop 4).foldl (fun (m : W32) p => m ||| p.2) 0)) l).foldl
        (fun f l => FMap.put 0 f l (pc l)) []
      pwait := (gs.drop 4).foldl (fun f p => (lanesOf p.2).foldl (fun f l => FMap.put 0 f l (if till p.2 = 0 then 0 else cc + till p.2)) f) [] }
  if npark ≤ 32 ∧ parked.all (fun m => m != 0) ∧ zeros bs 0x4C 4 ∧ zeros bs 0x150 48 ∧ x.wellFormed live
      ∧ rdv.all (fun r => (r.mask &&& ~~~live) == 0) then some x
  else none

/-- The split, parked group or record that holds the lowest lane of a mask, and its PC (R424). -/
def ExecSt.lowGroup (x : ExecSt) (live : W32) : W32 × W64 :=
  let l := lowLane live
  ((((x.splits.map fun p => p.2.mask) ++ x.parked ++ x.rdv.map fun r => r.waiting).find? fun m => bit m l).getD live, x.pcOf l)

/-- The marks of `bar.sync` that a block and FCM show: each group whose lowest lane bears one has arrived (R276; log entry 46). -/
def syncedOf (bs : List W8) (fcm : W32) : FMap W32 :=
  let masks := (List.range 4).map (fun e => field bs (16 * e + 8) 4) ++ (List.range (field bs 0x40 4)).map fun i => field bs (0x50 + 4 * i) 4
  masks.foldl (fun m g =>
    let g := BitVec.ofNat 32 g
    if g != 0 && bit fcm (lowLane g) then m.ins (lowLane g) g else m) []

/-- A wave from its section (R428). A reserved field that is not zero makes the record malformed, those of FLAGS, of FPCTL and of the
frame too (R86, R87, R214, R409). -/
def Wave.ofBytes (bs : List W8) (team tag cc : Nat) : Option Wave :=
  let f := fun o n => field bs o n
  let st := f 4 4
  let live := BitVec.ofNat 32 (f 0x600 4)
  let h := nbit st 0
  let frame := Frame.ofBytes (bs.drop 0xA40)
  let lregs := f 3 1
  let e0 := ExecSt.ofBytes (bs.drop 0x80) cc live
  let e1 := if h then ExecSt.ofBytes (bs.drop 0x300) cc (live &&& frame.lanes) else e0
  let halted := nbit st 2 || nbit st 3
  if f 0 1 < 32 ∧ f 1 1 < 4 ∧ f 2 1 ≤ 6 ∧ f 0x14 1 < 7 ∧ 3 ≤ lregs ∧ lregs ≤ 8 ∧ st / 32 % 2 ^ 11 = 0 ∧ live ≠ 0 ∧ zeros bs 0x16 2 ∧ zeros bs 0x28 24
      ∧ zeros bs 0x6C 20 ∧ zeros bs 0x620 32 ∧ zeros bs 0xC40 960 ∧ zeros bs 0xA42 2 ∧ f 0xA64 4 < 8
      ∧ BitVec.ofNat 32 (f 8 4) &&& ~~~flagsMask = 0 ∧ BitVec.ofNat 32 (f 0xC 4) &&& ~~~fpctlMask = 0
      ∧ (List.range 32).all (fun i => zeros bs (0x84C + 16 * i) 4) then
    match e0, e1 with
    | some x0, some x1 =>
      let low := x1.lowGroup (if h then live &&& frame.lanes else live)
      some
        { team := team, tag := tag, waveId := f 0 1, role := f 1 1, prio := f 2 1, lregs := lregs
          s := nonzero (words64 (bs.drop 0x640) 64)
          a := ((List.range 32).map fun i =>
            (i, (⟨BitVec.ofNat 64 (f (0x840 + 16 * i) 8), BitVec.ofNat 32 (f (0x848 + 16 * i) 4)⟩ : Aff))).filter fun p => p.2 != ⟨0, 0⟩
          v := nonzero (words32 (bs.drop 0x1000) (32 * 2 ^ lregs)), k := nonzero (words32 (bs.drop 0x600) 8)
          flags := BitVec.ofNat 32 (f 8 4), fpctl := BitVec.ofNat 32 (f 0xC 4), fcm := BitVec.ofNat 32 (f 0x10 4)
          synced := syncedOf (bs.drop 0x80) (BitVec.ofNat 32 (f 0x10 4))
          sigacc := BitVec.ofNat 1024 (f 0x580 128), sigfl := f 0x14 1, trapvec := BitVec.ofNat 64 (f 0x20 8) &&& ~~~0xFF
          wdog := f 0x18 4, wlim := f 0x1C 4, wt := nonzero (words32 (bs.drop 0xB40) 64), ex := x1, hnd := if h then some x0 else none
          frame := frame, supervisor := nbit st 4, suspended := nbit st 2, stopped := nbit st 3, nested := halted && h, seq := st / 2 ^ 16
          pcode := if halted then some ((Code.ofNum (f 0x15 1)).getD .trap) else none, plane := low.1, ppc := low.2, pmark := low.1
          vpois := poisonMap 256 (f 0x40 32), spois := poisonMap 64 (f 0x60 8), apois := poisonMap 32 (f 0x68 4) }
    | _, _ => none
  else none

/-- A team of a record: its team section, read, and its waves in order. -/
structure TeamRec where
  t : Team
  /-- Window entries: kind, offset, SW, writer, SEQ and owner rank. -/
  wins : List (Nat × Nat × Bool × Nat × W32 × Nat)
  waves : List Wave
  deriving DecidableEq, Repr

/-- The waves of a team from the record's wave sections. -/
def parseWaves (bs : List W8) (team tag cc : Nat) : Nat → Nat → Option (List Wave)
  | 0, _ => some []
  | n + 1, o =>
    match Wave.ofBytes (bs.drop o) team tag cc with
    | none => none
    | some w =>
      if bs.length < o + waveBytes w.lregs then none
      else (parseWaves bs team tag cc n (o + waveBytes w.lregs)).map fun ws => w :: ws

/-- A team section (R427). -/
def parseTeam (bs : List W8) (o core tag cc : Nat) : Option TeamRec :=
  let b := bs.drop o
  let f := fun k n => field b k n
  let mem := f 0x10 4
  let nbar := f 0x14 4
  let nw := f 0x0C 4
  let nwin := f 0x1C 2 + f 0x1E 2
  let size := teamSize mem nwin
  let ok := b.length ≥ size && f 0x48 8 == size && mem % 128 == 0 && mem ≤ 524288 && nbar ≤ 64 && f 6 1 ≤ 1 && nw ≤ 32 && f 0x30 1 < 7 && f 0x31 1 < 7
    && (f 6 1 == 1) == (nw == 0) && zeros b 7 1 && zeros b 0x38 8 && zeros b 0x50 0xB0 && zeros b 0x600 0x200
    && (List.range 64).all (fun i => zeros b (0x20C + 16 * i) 4)
    && (List.range nwin).all fun i =>
      let q := 0x800 + mem + mem / 32 + 16 * i
      f (q + 4) 1 ≤ 1 && f (q + 6) 1 ≤ 1 && zeros b (q + 7) 1
  if !ok then none
  else
    let t : Team :=
      { core := core, grid := 0, teamId := f 0 4, rank := f 4 2, group := 0, groupSize := 1, coop := false, depth := f 8 4, tag := tag
        join := BitVec.ofNat 64 (f 0x28 8), jscope := f 0x30 1, lrec := BitVec.ofNat 64 (f 0x20 8), teammem := mem, nbar := nbar,
        alive := nw, draining := f 6 1 == 1, children := f 0x18 4, tsig := BitVec.ofNat 1024 (f 0x100 128), tsigfl := f 0x31 1
        t := nonzero (words64 (b.drop 0x180) 16), tpois := poisonMap 16 (f 0x32 2)
        mem := nonzero ((b.drop 0x800).take mem)
        full := ((List.range (mem / 4)).filter fun i => nbit (field b (0x800 + mem + i / 8) 1) (i % 8)).map fun i => (i, true)
        bars := (List.range nbar).map fun i =>
          let q := 0x200 + 16 * i
          (i, ⟨BitVec.ofNat 32 (f q 4), f (q + 4) 2, f (q + 6) 2, BitVec.ofNat 32 (f (q + 8) 4)⟩)
        clucnt := BitVec.ofNat 32 (f 0x34 4) }
    let wins := (List.range nwin).map fun i =>
      let q := 0x800 + mem + mem / 32 + 16 * i
      (f (q + 6) 1, f q 4, nbit (f (q + 4) 1) 0, f (q + 5) 1, BitVec.ofNat 32 (f (q + 8) 4), f (q + 12) 4)
    (parseWaves bs 0 tag cc nw (f 0x40 8)).map fun ws => ⟨t, wins, ws⟩

/-- The teams of a record, from an offset on. -/
def parseTeams (bs : List W8) (core tag cc : Nat) : Nat → Nat → Option (List TeamRec)
  | 0, _ => some []
  | n + 1, o =>
    match parseTeam bs o core tag cc with
    | none => none
    | some r => (parseTeams bs core tag cc n (o + teamSize r.t.teammem r.wins.length)).map fun rs => r :: rs

/-- A whole record, or nothing when it is malformed (R214, R426, R429). -/
def parseRecord (bs : List W8) (cc : Nat) : Option (List TeamRec) :=
  let nteam := field bs 0x0C 4
  if bs.length < 256 + 0x800 * nteam then none
  else match parseTeams bs (field bs 8 4) (field bs 4 4) cc nteam 256 with
    | none => none
    | some rs =>
      let len := 256 + (rs.map fun r => teamSize r.t.teammem r.wins.length + (r.waves.map fun w => waveBytes w.lregs).sum).sum
      if len = bs.length ∧ (rs.map fun r => r.waves.length).sum = field bs 0x10 4 then some rs else none

/-! ### `ctxload` -/

/-- What a record needs of a core (R396). -/
def recordNeed (rs : List TeamRec) : Room :=
  ⟨(rs.map fun r => r.waves.length).sum, (rs.map fun r => (r.waves.map fun w => 2 ^ w.lregs).sum).sum,
    (rs.map fun r => (r.t.teammem + 4095) / 4096).sum, (rs.map fun r => r.t.nbar).sum⟩

/-- A saved team may be the one of a team section: TAG, TEAMID, RANK, JOIN and LREC agree. -/
def Kept.fits (k : Kept) (t : Team) : Bool :=
  k.tag == t.tag && k.teamId == t.teamId && k.teamId % k.groupSize == t.rank && k.join == t.join && k.lrec == t.lrec

/-- Number and kept part of a team that was saved (R214, R427). The spec gives no key: DESIGN CHOICE (log entry 26), the saved team
of the same place in the record at the same address, or else the first one that agrees with the section. A record whose team the
device has never saved begins a new grid. -/
def State.findKept (s : State) (t : Team) (place : Nat × Nat) : Option (Nat × Kept) :=
  match s.kept.find? fun (p : Nat × Kept) => p.2.fits t && p.2.place == some place with
  | some p => some p
  | none => s.kept.find? fun (p : Nat × Kept) => p.2.fits t

/-- Rebuilds a restored team's windows and subscriptions (R134). DESIGN CHOICE (log entry 27): a replica that is rebuilt holds no
pair of R133 until the next release through its window, so that an acquire takes the empty signature and floor 6. -/
def State.loadWindow (s : State) (n : Nat) (w : Nat × Nat × Bool × Nat × W32 × Nat) : State :=
  let off := w.2.1
  match w.1 with
  | 0 =>
    let subs := (s.teams.filter fun (p : Nat × Team) => p.2.replicas.any fun r => r.owner == n && r.offset == off).map fun p => (p.1, ([] : List WinUpd))
    let s := { s with teams := s.teams.map fun (p : Nat × Team) =>
      (p.1, { p.2 with replicas := p.2.replicas.map fun (r : Replica) => if r.owner == n && r.offset == off then { r with installed := false } else r }) }
    s.updTeam n fun t => { t with windows := t.windows.ins off ⟨w.2.2.1, w.2.2.2.1, w.2.2.2.2.1, subs⟩ }
  | _ =>
    match (s.teams.fetch n).bind fun t => s.groupTeam t w.2.2.2.2.2 with
    | none => s
    | some o =>
      let s := s.updTeam n fun t => { t with replicas := t.replicas ++ [⟨o, off, false, w.2.2.2.2.1, [], none⟩] }
      s.updTeam o fun t => { t with windows := t.windows.upd off fun v => { v with subs := v.subs.ins n [] } }

/-- Places one restored wave in a slot, at its block (R398, R400); one that awaits a command has a RESTORED record queued (R429). -/
def State.loadWave (s : State) (g n till : Nat) (dead : FMap Nat) (w : Wave) (off : Nat) : State :=
  let wk := wkey g (s.slotFor g w.prio)
  let w := { w with team := n, voff := off, movingTo := till, deadStore := dead.fetch w.waveId }
  let s := s.setWave wk w
  match w.pcode with
  | none => s
  | some c =>
    s.record (dieOf g) .hold { code := c.num, source := 0, replay := true, nested := w.nested, restored := true, seq := w.seq
                               srcid := waveSrc wk, tag := w.tag, lanes := w.live, pc := w.ppc }

/-- Restores one team with its waves; the block offsets that remain go on. The core's L1 is emptied at every load (R134): its copies
may go at any time. -/
def State.loadTeam (s : State) (g till : Nat) (r : TeamRec) (place : Nat × Nat) (offs : List Nat) : State :=
  let k := s.findKept r.t place
  let n := k.elim s.nextId fun p => p.1
  let t := match k with
    | some (_, k) => { r.t with grid := k.grid, group := k.group, groupSize := k.groupSize, coop := k.coop, children := k.children, rsig := k.rsig
                                rfl := k.rfl, killed := k.killed, parent := k.parent, isTask := k.isTask }
    | none => { r.t with grid := s.nextId + 1 }
  let s := if k.isSome then s else { s with nextId := s.nextId + 2 }
  let s := { (s.flushL1 [g]).setTeam n t with kept := s.kept.del n }
  let s := r.wins.foldl (fun (s : State) w => s.loadWindow n w) s
  let s := (r.waves.zip offs).foldl (fun (s : State) p => s.loadWave g n till (k.elim [] fun p => p.2.dead) p.1 p.2) s
  if t.draining && t.children == 0 then s.soon (.teamRetire n) else s

/-- Restores every team of a record that stands at a key, from a place in it on. -/
def State.loadTeams (s : State) (g till key : Nat) : List TeamRec → Nat → List Nat → State
  | [], _, _ => s
  | r :: rs, i, offs => State.loadTeams (s.loadTeam g till r (key, i) offs) g till key rs (i + 1) (offs.drop r.waves.length)

/-- The restore itself, with compaction where the blocks do not fit as they lie (R214, R400). -/
def State.loadContext (s : State) (g key : Nat) (rs : List TeamRec) : State :=
  let sizes := rs.flatMap fun r => r.waves.map fun w => 2 ^ w.lregs
  match allocBlocks (s.blocks g) sizes with
  | some offs => s.loadTeams g (s.packTill g) key rs 0 offs
  | none => let c := s.compact g sizes; c.1.loadTeams g c.2.2 key rs 0 c.2.1

/-- `ctxload` after its privilege check. -/
def State.ctxLoad (s : State) (x : Ctx) : State :=
  let va := x.w.sreg x.f.a.num.toNat
  if va.toNat % 256 ≠ 0 then s.raise x { code := .misalign, addr := va, kind := .load }
  else
    let r := s.readDesc x .load va 256
    match r.2 with
    | .fault fi => r.1.raise x fi
    | .wait why => r.1.stallAt x why (.ctxload x.f)
    | .bytes h =>
      let g := field h 8 4
      let len := field h 0x18 8
      if headerBad h || len < 256 then r.1.ctxStatus x va 4
      else if 320 ≤ g then r.1.ctxStatus x va 1
      else
        let q := r.1.recordKeys x .load va len
        let ps := q.2.1
        match q.2.2 with
        | .fault fi => q.1.raise x fi
        | .wait why => q.1.stallAt x why (.ctxload x.f)
        | .bytes _ =>
          match q.1.reachAll x.die (pieceKeys ps) with
          | (.hold why, _) => q.1.stallAt x why (.ctxload x.f)
          | (.poison, k) => q.1.raise x { code := .poison, addr := va, kind := .load, pa := keyPa k }
          | (.dead, k) => q.1.raise x { code := .remdead, addr := va, kind := .load, inc := q.1.incAt x.die k }
          | (.ok, _) =>
            match parseRecord (q.1.homeBytes (pieceKeys ps)) q.1.cc with
            | none => q.1.ctxStatus x va 4
            | some rs =>
              if !(q.1.freeOf g).holds (recordNeed rs) then q.1.ctxStatus x va 3
              else (q.1.loadContext g (ps.headD (0, 0)).1 rs).ctxStatus x va 0

/-- `ctxload` (R214). -/
def execCtxload (f : F) (s : State) : Host.Outcome State Fault Refusal :=
  issue (.ctxload f) s fun x s => s.privileged x fun s => s.ctxLoad x

end Sys2Proof.Machine
end

