-- ==== Sys2Proof/Machine/FaultService.lean ====
section
/-! DEFINITION. The fault service's side of a die: records (R414), commands (R415), held arrivals (R473), the watchdog (R424),
frozen handlers (R68) and the translation service (R420). -/
namespace Sys2Proof.Machine

/-! ### Records -/

/-- FAULT_RECORD (R414, R434): the oldest record that is not in the ring yet enters it, once its line is free. -/
def execFaultRecord (die : Nat) (s : State) : Host.Outcome State Fault Refusal :=
  .next (if !(s.die die).ringRoom || s.ringHeld die then s
  else match (s.die die).held with
    | r :: rs => (s.ringWrite die r).updDie die fun d => { d with held := rs }
    | [] => s)

/-- Sets bits of FQERR (R410). -/
def State.fqErr (s : State) (d : Nat) (b : W32) : State := s.updDie d fun x => { x with fqerr := x.fqerr ||| b }

/-- A write of FQHEAD (R410). -/
def State.fqHead (s : State) (d : Nat) (v : W64) : State :=
  let s := if (s.die d).fqtail.toNat < v.toNat then s.fqErr d 2 else s
  s.updDie d fun x => { x with fqhead := v }

/-- FQHEAD_WRITE (R410). -/
def execFqheadWrite (die : Nat) (v : W64) (s : State) : Host.Outcome State Fault Refusal := .next (s.fqHead die v)

/-! ### Who waits for a command (R415) -/

/-- A source that waits. -/
inductive Waiter where
  | wave (wk : Nat)
  | engine (tpl : Nat)
  | port (h : ArrH) (p : Nat)
  | arrival (h : HeldArr)
  deriving DecidableEq, Repr

/-- The wave that a SRCID names (R412). -/
def srcWave (srcid : W32) : Nat := wkey (bits srcid 0 9) (bits srcid 9 6)

/-- The source of a die that a command names, if it waits under that SEQ. -/
def State.waiter (s : State) (d : Nat) (srcid : W32) (seq src : Nat) : Option Waiter :=
  match src with
  | 0 =>
    let wk := srcWave srcid
    if bits srcid 15 17 ≠ 0 ∨ dieOf (wk / 64) ≠ d then none
    else match s.waves.fetch wk with
      | some w => if w.pcode.isSome && w.seq == seq then some (.wave wk) else none
      | none => none
  | 1 =>
    ((s.die d).tpls.find? fun (q : Nat × Tpl) =>
      engineSrc d q.1 == srcid && q.2.firing.any fun f => f.waiting && f.seq == seq).map fun q => .engine q.1
  | 2 =>
    let st := bits srcid 0 4
    let p := bits srcid 4 6
    if nearDie st ≠ d then none
    else ([hctx st (bits srcid 10 2) (bits srcid 12 2), hsucc st (bits srcid 10 2) (bits srcid 12 2)].find? fun h =>
      (s.arr h).any fun a => (a.port p).fault && FMap.at' 0 a.pseq p == seq && h.src p ((s.net h).g.region (768 + p)) == srcid).map
        fun h => .port h p
  | 9 =>
    ((s.die d).arrivals.find? fun h => h.code != .trap && BitVec.ofNat 32 (d + 2 * h.kind) == srcid && h.seq == seq).map .arrival
  | _ => none

/-- Takes one arrival off a die's list. -/
def State.dropArrival (s : State) (d : Nat) (h : HeldArr) : State :=
  s.updDie d fun x => { x with arrivals := x.arrivals.erase h }

/-! ### Commands -/

/-- REPLAY of a wave: it runs again, its budget is reloaded, and every wait issues again (R415, R424). -/
def State.replayWave (s : State) (wk : Nat) : State :=
  (s.updWave wk fun w =>
    { w with suspended := false, stopped := false, nested := false, pcode := none, wdog := w.wlim, ex := w.ex.settled }).completeAll wk

/-- REPLAY (R415). -/
def State.replay (s : State) (d : Nat) (srcid : W32) (seq src : Nat) : State :=
  match s.waiter d srcid seq src with
  | none => s.fqErr d 1
  | some (.wave wk) => s.replayWave wk
  | some (.engine t) => s.updFiring d t fun f => { f with waiting := false }
  | some (.port h p) => s.updArr h fun a => a.setPort p { a.port p with fault := false }
  | some (.arrival h) => (s.dropArrival d h).tryArrival d h

/-- Codes whose ADDR a frame holds (R409). -/
def Code.hasAddr : Code → Bool
  | .misalign | .prot | .poison | .remdead => true
  | _ => false

/-- A wave that waits enters its handler for a code that the service names (R408, R415). -/
def Wave.deliver (w : Wave) (c : Code) : Wave :=
  let v := w.enterHandler w.plane w.ppc w.ppc { code := c, marked := some w.pmark, addr := if c.hasAddr then w.paddr else 0 }
  { v with frame := { v.frame with info := BitVec.ofNat 32 w.pkind } }

/-- DELIVER (R415). -/
def State.deliver (s : State) (d : Nat) (srcid : W32) (seq src code : Nat) : State :=
  match s.waiter d srcid seq src with
  | none => s.fqErr d 1
  | some (.wave wk) =>
    match s.waves.fetch wk, Code.ofNum code with
    | some w, some c => if w.nested || w.hnd.isSome || w.trapvec == 0 then s else s.setWave wk (w.deliver c)
    | _, _ => s
  | some _ => s

/-- The team of a wave ends on an uncorrected fault or is killed: its arrival is poisoned (R43). -/
def State.markKilled (s : State) (team : Nat) : State := s.updTeam team fun t => { t with killed := true }

/-- `kill k0` of a wave by the service. -/
def State.killWave (s : State) (wk : Nat) : State :=
  match s.waves.fetch wk with
  | none => s
  | some w => (s.markKilled w.team).endLanes wk w.live

/-- KILL (R415). -/
def State.killSource (s : State) (d : Nat) (srcid : W32) (seq src : Nat) : State :=
  match s.waiter d srcid seq src with
  | none => s.fqErr d 1
  | some (.wave wk) => s.killWave wk
  | some (.engine t) =>
    match (s.die d).tpls.fetch t with
    | some tp => s.updFiring d t fun f => f.pass tp.src.total true
    | none => s
  | some (.port h _) => s.stopArr h
  | some (.arrival h) => let s := s.dropArrival d h; if h.parent = 0 then s else s.childDone h.parent

/-- Parents of teams, resident and saved. -/
def State.parentOf (s : State) (team : Nat) : Nat :=
  match s.teams.fetch team with
  | some t => t.parent
  | none => match s.kept.fetch team with
    | some k => k.parent
    | none => 0

/-- A team descends from another through `spawn`: within n generations. -/
def State.descends (s : State) (root : Nat) : Nat → Nat → Bool
  | 0, t => t == root
  | n + 1, t => t == root || (t != 0 && State.descends s root n (s.parentOf t))

/-- The resident teams of a tree (R415); a team stands at most 10 generations below another (R42). -/
def State.treeOf (s : State) (root : Nat) : List Nat := (s.teams.map fun (p : Nat × Team) => p.1).filter fun t => s.descends root 10 t

/-- A removed entry arrives poisoned: `holder` is the die that holds it, `d` the die that received the command. -/
def State.removeTask (s : State) (d holder : Nat) (t : Task) : State :=
  s.arrive holder 1 t.tag t.join t.scope true 0 6 t.parent (dieAnchor d)

/-- Every configuration that may be loaded; a successor stands before its predecessor, which would else hand its context on to it. -/
def allArrays : List ArrH :=
  (List.range 12).flatMap fun st => (List.range 4).flatMap fun k => (List.range 4).flatMap fun c => [hsucc st k c, hctx st k c]

/-- KILLTREE (R415). -/
def State.killTree (s : State) (d : Nat) (srcid : W32) : State :=
  match s.waves.fetch (srcWave srcid) with
  | none => s.fqErr d 1
  | some w =>
    if w.team = 0 then s.killWave (srcWave srcid)
    else
      let tree := s.treeOf w.team
      let gone := fun (t : Task) => tree.contains t.parent
      let hands := s.cores.flatMap fun (p : Nat × Core) => (p.2.hand.filter gone).map fun t => (dieOf p.1, t)
      let kits := (s.kitty.filter gone).map fun t => (d, t)
      let runs := allArrays.filter fun h => (s.arr h).any fun a => tree.contains a.team
      let s := { s with cores := s.cores.map fun (p : Nat × Core) => (p.1, { p.2 with hand := p.2.hand.filter fun t => !gone t })
                        kitty := s.kitty.filter fun t => !gone t }
      let s := tree.foldl State.markKilled s
      let s := (s.waves.filter fun (p : Nat × Wave) => tree.contains p.2.team).foldl (fun (s : State) p => s.killWave p.1) s
      let s := (hands ++ kits).foldl (fun (s : State) p => s.removeTask d p.1 p.2) s
      runs.foldl (fun (s : State) h => s.stopArr h) s

/-- A write of FQCMD (R415). -/
def State.fqCmd (s : State) (d : Nat) (v : W64) : State :=
  let srcid := BitVec.ofNat 32 (bits v 32 32)
  let seq := bits v 16 16
  let src := bits v 12 4
  match bits v 8 4 with
  | 1 => s.replay d srcid seq src
  | 2 => s.deliver d srcid seq src (bits v 0 8)
  | 3 => s.killSource d srcid seq src
  | 4 => s.killTree d srcid
  | _ => s.fqErr d 1

def execReplay (die : Nat) (srcid : W32) (seq src : Nat) (s : State) : Host.Outcome State Fault Refusal :=
  .next (s.replay die srcid seq src)

def execDeliver (die : Nat) (srcid : W32) (seq src code : Nat) (s : State) : Host.Outcome State Fault Refusal :=
  .next (s.deliver die srcid seq src code)

def execKillCmd (die : Nat) (srcid : W32) (seq src : Nat) (s : State) : Host.Outcome State Fault Refusal :=
  .next (s.killSource die srcid seq src)

def execKilltree (die : Nat) (srcid : W32) (s : State) : Host.Outcome State Fault Refusal := .next (s.killTree die srcid)

/-! ### Held arrivals, the watchdog, frozen handlers, walks -/

/-- HELD_ARRIVAL (R436, R473): an arrival that waited for a member, without a record, is tried again. -/
def execHeldArrival (die i : Nat) (s : State) : Host.Outcome State Fault Refusal :=
  .next (match (s.die die).arrivals[i]? with
  | none => s
  | some h => if h.code == .trap then (s.dropArrival die h).tryArrival die h else s)

/-- A wave that faults while it waits in a `mma.clu` takes its team's part back (R293). -/
def State.leaveClu (s : State) (wk : Nat) : State :=
  match s.waves.fetch wk with
  | some v => s.updTeam v.team fun t => { t with clu := t.clu.filter fun c => c.slot != wk % 64 }
  | none => s

/-- WDOG (R424). -/
def execWdog (w : WRef) (s : State) : Host.Outcome State Fault Refusal :=
  let wk := wkey w.core w.slot
  .next (match s.waves.fetch wk with
  | none => s
  | some v =>
    if v.halted || v.hnd.isSome || v.wlim == 0 || v.wdog != 0 then s
    else let g := v.ex.lowGroup v.live; (s.leaveClu wk).raiseAt wk g.1 g.2 g.2 { code := .wdog })

/-- A save of a context has waited 65536 cc in which the core's die was not throttled (R68, R471). -/
def State.saveOverdue (s : State) (g tag : Nat) : Bool :=
  s.waves.any fun (p : Nat × Wave) => p.2.ex.splits.any fun (q : Nat × Split) =>
    q.2.ask.any fun a => a.core == g && a.tag == tag && decide (a.since + 65536 ≤ (s.die (dieOf g)).ucc)

/-- The handlers of a context that still run are frozen (R68). -/
def State.freezeHandlers (s : State) (g tag : Nat) : State :=
  if !s.saveOverdue g tag then s
  else { s with waves := s.waves.map fun (p : Nat × Wave) =>
    if p.1 / 64 == g && p.2.tag == tag && p.2.hnd.isSome then (p.1, { p.2 with frozen := true }) else p }

/-- HANDLER_FREEZE (R68). -/
def execHandlerFreeze (core tag : Nat) (s : State) : Host.Outcome State Fault Refusal := .next (s.freezeHandlers core tag)

/-- TRANSLATION_WALK (R419, R420): the service of a die walks to a page and keeps its translation. -/
def execTranslationWalk (die tag : Nat) (va : W64) (s : State) : Host.Outcome State Fault Refusal :=
  .next (if 0x0100000000000000 ≤ va.toNat || (s.die die).stlb.any fun (e : TlbEnt) => e.covers die tag va.toNat then s
  else match s.walk die tag va.toNat with
    | .leaf e => s.updDie die fun d => { d with stlb := e :: d.stlb }
    | _ => s)

end Sys2Proof.Machine
end

