-- ==== Sys2Proof/Machine/Registers.lean ====
section
/-! DEFINITION. The supervisor window (R28, R95, R361, R362, R406, R410, R465, R467): its blocks, their widths, reads and writes; the
array's configuration fields and failed rows; bring-up (R464); throttling and telemetry (R468); ageing (R470). -/
namespace Sys2Proof.Machine

/-- The state that an event leaves. -/
def leaves (s : State) : Host.Outcome State Fault Refusal → State
  | .next t => t
  | _ => s

/-! ### Configuration fields of a stack (R359 to R361) -/

/-- What an offset of a stack's control block below 0x10_0000 names: the partition for a copy, plane, element and field. A copy's
own address goes before the general formula where the two meet (log entry 34). -/
structure CfgAt where
  k : Nat
  c : Nat
  e : Nat
  f : Nat
  deriving DecidableEq, Repr

/-- A partition's copy of a field of element 1008 or 1009 (R361). -/
def copyAt (off : Nat) : Option CfgAt :=
  ((List.range 3).flatMap fun k => (List.range 4).map fun c => (k + 1, c)).findSome? fun p =>
    let base := 0x40000 * p.2 + 0x10000 * p.1 + 256 * 1008
    if base ≤ off ∧ off < base + 512 then some ⟨p.1, p.2, 1008 + (off - base) / 256, off / 4 % 64⟩ else none

def cfgAt (off : Nat) : Option CfgAt :=
  match copyAt off with
  | some a => some a
  | none => if off < 0x100000 then some ⟨0, off / 0x40000, off % 0x40000 / 256, off / 4 % 64⟩ else none

/-- The partition whose field it is; nothing outside every partition. -/
def Stack.cfgOwner (x : Stack) (a : CfgAt) : Option Nat :=
  if a.e = 1008 ∨ a.e = 1009 then (if x.ptab.valid a.k then some a.k else none) else x.ptab.owner a.e

/-- A read of a field (R361). -/
def Stack.cfgRead (x : Stack) (a : CfgAt) : Nat :=
  if a.e = 1010 then (if a.f % 16 ≤ 12 then x.field 0 0 1010 a.f else 0)
  else if a.e = 1011 then (if a.f % 16 ≤ 5 then x.field 0 0 1011 a.f else 0)
  else if (fieldBits a.e a.f).isNone then 0
  else match x.cfgOwner a with
    | some k => x.field k a.c a.e a.f
    | none => 0

/-- A context of a partition is loaded. -/
def Stack.anyLoaded (x : Stack) (k : Nat) : Bool :=
  (List.range 4).any fun c => (x.ctxs.fetch (4 * k + c)).isSome || (x.splices.fetch (4 * k + c)).isSome

/-- The bits that a field of the partition table defines (R359). -/
def ptabBits (i : Nat) : Option Nat :=
  if i = 0 then some 0x83FF else if i = 11 then some 0x001F else if i ≤ 12 then some 0xFFFF else none

/-- The elements that a partition table gives to a partition. -/
def PTab.elemSet (t : PTab) (k : Nat) : List Nat := if t.valid k then t.elems k else []

/-- Zeroes every plane of some elements, and a partition's copies of 1008 and 1009 (R349, R361). -/
def Stack.zeroPlanes (x : Stack) (k : Nat) (es : List Nat) : Stack :=
  { x with cfg := x.cfg.filter fun (p : Nat × W16) =>
      let pl := p.1 / 65536
      let e := p.1 % 65536 / 64
      !((pl < 4 && es.contains e) || (4 + 4 * k ≤ pl && pl < 8 + 4 * k && (e == 1008 || e == 1009))) }

/-- A write of the partition table (R359, R361). -/
def Stack.ptabWrite (x : Stack) (f v : Nat) : Stack :=
  let k := f / 16
  let i := f % 16
  let old := x.ptab
  let y := x.setField 0 0 1010 f v
  let new := y.ptab
  let moved := (List.range 928).any fun e => old.owner e != new.owner e && (old.owner e).any x.anyLoaded
  let bad := v / 65536 != 0 || (match ptabBits i with | none => true | some m => v &&& m != v) || (i == 11 && 16 < v) || !new.sound
    || (i != 12 && x.anyLoaded k) || moved
  if bad then x.setField 0 0 1011 (16 * k + 5) 1
  else if i = 12 then y
  else
    let y := y.zeroPlanes k (old.elemSet k ++ new.elemSet k)
    if new.valid k && !old.valid k then (List.range 5).foldl (fun (y : Stack) j => y.setField 0 0 1011 (16 * k + j) 0) y else y

/-- A write of a field (R360, R361). -/
def Stack.cfgWrite (x : Stack) (a : CfgAt) (v : Nat) : Stack :=
  if a.e = 1011 then (if a.f % 16 = 5 then x.setField 0 0 1011 a.f 0 else x)
  else if a.e = 1010 then x.ptabWrite a.f v
  else if v / 65536 != 0 || wrongValue a.e a.f v then x
  else match x.cfgOwner a with
    | none => x
    | some k =>
      if (x.ctxs.fetch (4 * k + a.c)).isSome || (x.splices.fetch (4 * k + a.c)).isSome then x else x.setField k a.c a.e a.f v

/-- CONFIG_FIELD_WRITE (R361). -/
def execConfigFieldWrite (stack off : Nat) (v : W32) (s : State) : Host.Outcome State Fault Refusal :=
  .next (match cfgAt (off / 4 * 4) with
  | some a => s.updStk stack fun x => x.cfgWrite a v.toNat
  | none => s)

/-! ### Failed rows (R362) -/

/-- A running bank operation touches a row of its stack. -/
def Stack.rowBusy (x : Stack) (row : Nat) : Bool := match x.bankRun with | none => false | some b => b.touches row

/-- Spare rows of a bank in use, but for one entry's. -/
def Stack.sparesUsed (x : Stack) (i : Nat) (e : W32) : Nat :=
  ((x.rows.filter fun (p : Nat × W32) => p.1 != i && bits p.2 30 2 == 3 && bits p.2 18 12 == bits e 18 12).map fun p => entryRow p.2).dedup.length

/-- A spare row takes the place of a row: it reads as zero, and its eight lines are poisoned (R362). -/
def State.spareRow (s : State) (st row : Nat) : State :=
  let base := st * 2 ^ 36 + row * 1024
  let s := (keysFrom base 1024).foldl (fun (s : State) k => s.putDram k 0) s
  (keysFrom (base / 128) 8).foldl (fun (s : State) l => s.setPoison l true) s

/-- Writes an entry of the failed-row table: each row that is spared from now on gets its spare row (R362). -/
def State.putRow (s : State) (st i : Nat) (v : W32) : State :=
  let x := s.stk st
  let y := { x with rows := FMap.put 0 x.rows i v }
  ([entryRow v, entryRow (FMap.at' 0 x.rows i)].dedup.filter fun r => y.rowSpared r && !x.rowSpared r).foldl
    (fun (s : State) r => s.spareRow st r) (s.setStk st y)

/-- A store to an entry of the failed-row table (R362). One that finds no spare row clears SPARED alone (log entry 48). -/
def State.rowWrite (s : State) (st i : Nat) (v : W32) : State :=
  let x := s.stk st
  if bits v 14 4 ≠ 0 ∨ 1024 ≤ i ∨ x.rowBusy (entryRow v) then s
  else if bits v 30 2 = 3 ∧ 8 ≤ x.sparesUsed i v then
    s.updStk st fun x => { x with rows := FMap.put 0 x.rows i (FMap.at' 0 x.rows i &&& ~~~0x40000000) }
  else s.putRow st i v

/-- FAILED_ROW_WRITE (R362). -/
def execFailedRowWrite (stack i : Nat) (v : W32) (s : State) : Host.Outcome State Fault Refusal := .next (s.rowWrite stack i v)

/-! ### Command areas (R406) -/

/-- A write of CMD. Its reserved bits read as zero (R12). -/
def State.cmdWrite (s : State) (st k : Nat) (v : W32) : State :=
  let p := FMap.at' {} (s.stk st).parts k
  let op := bits v 0 3
  let c := bits v 4 2
  let put := fun (s : State) (f : Part → Part) => s.updStk st fun x => { x with parts := x.parts.ins k (f (FMap.at' {} x.parts k)) }
  if p.stat = 0x80 then s
  else if v &&& 0x37 != v || op = 0 || 5 < op then put s fun p => { p with cmd := v &&& 0x37, stat := 1 }
  else
    let s := put s fun p => { p with cmd := v, stat := 0x80, busy := some (op, c) }
    leaves s (match op with
      | 1 => execPreempt st k ⟨c, false⟩ s | 2 => execSave st k c s | 3 => execRestore st k c s | 4 => execResume st k c s | _ => execStop st k c s)

/-! ### Ageing (R470) -/

/-- A team is resident on a core of a cluster. -/
def State.clusterBusy (s : State) (d cl : Nat) : Bool := s.teams.any fun (p : Nat × Team) => clusterOf p.2.core == 10 * d + cl

def Die.marg' (d : Die) (cl : Nat) : W32 := FMap.at' 0 d.marg cl
def Die.setMarg (d : Die) (cl : Nat) (v : W32) : Die := { d with marg := FMap.put 0 d.marg cl v }

/-- What DRAIN, UNDRAIN, RETIRE and UNRETIRE make of MARG (R470). -/
def ageOp (op : Nat) (m : W32) : W32 :=
  match op with
  | 1 => m ||| 0x40000
  | 2 => m &&& ~~~0x40000
  | 5 => m ||| 0x20000
  | 6 => m &&& ~~~0x20000
  | _ => m

/-- A die takes over the ageing commands of the cc (R470). -/
def Die.settle (d : Die) : Die :=
  { d.ageNext.foldl (fun (d : Die) p => d.setMarg p.2 (ageOp p.1 (d.marg' p.2))) d with ageNext := [] }

/-- An ageing command: OP, cluster and VOFF. DRAIN, UNDRAIN, RETIRE and UNRETIRE take effect in the next cc. -/
def State.ageCmd (s : State) (d op cl voff : Nat) : State :=
  let x := s.die d
  let done := s.updDie d fun x => { x with agestat := 0, ageNext := x.ageNext ++ [(op, cl)] }
  let start := fun (voff n : Nat) =>
    if s.clusterBusy d cl then s.updDie d fun x => { x with agestat := 2 }
    else s.updDie d fun x => { x with agestat := 0x80, ageing := some ⟨op, cl, voff, s.cc + n⟩ }
  if x.agestat = 0x80 then s
  else if 10 ≤ cl then s.updDie d fun x => { x with agestat := 1 }
  else match op with
    | 1 | 2 | 5 | 6 => done
    | 3 => start 0 50000
    | 4 => start voff 25000
    | _ => s.updDie d fun x => { x with agestat := 1 }

/-- A write of AGECMD (R470). -/
def State.ageWrite (s : State) (d : Nat) (v : W32) : State :=
  if bits v 12 20 ≠ 0 ∨ bit v 7 then (if (s.die d).agestat = 0x80 then s else s.updDie d fun x => { x with agestat := 1 })
  else s.ageCmd d (bits v 4 3) (bits v 0 4) (bits v 8 4)

def execDrain (die cl : Nat) (s : State) : Host.Outcome State Fault Refusal := .next (s.ageCmd die 1 cl 0)
def execUndrain (die cl : Nat) (s : State) : Host.Outcome State Fault Refusal := .next (s.ageCmd die 2 cl 0)
def execMeasure (die cl : Nat) (s : State) : Host.Outcome State Fault Refusal := .next (s.ageCmd die 3 cl 0)
def execSetv (die cl voff : Nat) (s : State) : Host.Outcome State Fault Refusal := .next (s.ageCmd die 4 cl (voff % 16))
def execRetire (die cl : Nat) (s : State) : Host.Outcome State Fault Refusal := .next (s.ageCmd die 5 cl 0)
def execUnretire (die cl : Nat) (s : State) : Host.Outcome State Fault Refusal := .next (s.ageCmd die 6 cl 0)

/-- The end of a measurement, with the slack that the monitor reports. -/
def State.measureEnd (s : State) (d : Nat) (margin : W8) : State :=
  match (s.die d).ageing with
  | none => s
  | some a =>
    if a.op != 3 || s.cc < a.until_ then s
    else s.updDie d fun x =>
      { x.setMarg a.cluster ((x.marg' a.cluster &&& ~~~0x100FF) ||| 0x10000 ||| margin.zeroExtend 32) with agestat := 0, ageing := none }

/-- The end of a change of voltage. -/
def State.setvEnd (s : State) (d : Nat) : State :=
  match (s.die d).ageing with
  | none => s
  | some a =>
    if a.op != 4 || s.cc < a.until_ then s
    else s.updDie d fun x =>
      { x.setMarg a.cluster ((x.marg' a.cluster &&& ~~~0x10F00) ||| BitVec.ofNat 32 (256 * a.voff)) with agestat := 0, ageing := none }

/-- MEASURE_DONE (R470). -/
def execMeasureDone (die : Nat) (margin : W8) (s : State) : Host.Outcome State Fault Refusal := .next (s.measureEnd die margin)
/-- SETV_DONE (R470). -/
def execSetvDone (die : Nat) (s : State) : Host.Outcome State Fault Refusal := .next (s.setvEnd die)

/-! ### Telemetry (R467, R468) -/

def sat32 (v : W32) : W32 := if v = 0xFFFFFFFF then v else v + 1

/-- The throttle level after a sample (R468). -/
def throttle (thr pwr pcap : Nat) (tdie tlim ttrip : Int) : Nat :=
  if ttrip ≤ tdie then 8
  else if thr = 8 ∧ tdie < tlim then 7
  else if thr < 8 ∧ ((pcap ≠ 0 ∧ pcap < pwr) ∨ tlim < tdie) then min (thr + 1) 7
  else if thr < 8 ∧ (pcap = 0 ∨ 20 * pwr < 19 * pcap) ∧ tdie < tlim - 40 then thr - 1
  else thr

/-- TDIE: what the hottest of the ten cluster sensors reads, signed (R467). -/
def hottest (clt : List W16) : W16 :=
  (List.range 10).foldl (fun m c => if m.toInt < (clt.getD c 0).toInt then clt.getD c 0 else m) (clt.getD 0 0)

/-- A sample of a die's sensors (R467 to R469). -/
def State.sample (s : State) (d : Nat) (pwr : W16) (clt : List W16) (stk : List W32) : State :=
  let x := s.die d
  let tdie := hottest clt
  let old := bits x.thr 0 4
  let new := throttle old pwr.toNat (bits x.pcap 0 16) tdie.toInt (BitVec.ofNat 16 (bits x.tlim 0 16)).toInt (BitVec.ofNat 16 (bits x.ttrip 0 16)).toInt
  let trip := new == 8 && old != 8
  let s := s.updDie d fun x =>
    { x with
      tsamp := s.cc, pwr := pwr.zeroExtend 32, tdie := tdie.zeroExtend 32, thr := (x.thr &&& 0x10) ||| BitVec.ofNat 32 (new + if trip then 16 else 0)
      thrcnt := if old = 0 then x.thrcnt else sat32 x.thrcnt
      clt := (List.range 10).foldl (fun m c => FMap.put 0 m c ((clt.getD c 0).zeroExtend 32)) x.clt }
  let s := (List.range 6).foldl (fun (s : State) j => s.updStk (6 * d + j) fun y => { y with stkpt := stk.getD j 0 }) s
  if trip then s.record d .drop { code := 0x33, source := 6, srcid := BitVec.ofNat 32 d } else s

/-- TELEMETRY_SAMPLE (R468). The die temperature of the event is no reading of its own: it follows from the cluster sensors (R467). -/
def execTelemetrySample (die : Nat) (pwr _tdie : W16) (clt : List W16) (stk : List W32) (s : State) : Host.Outcome State Fault Refusal :=
  .next (s.sample die pwr clt stk)

/-- A write of CLRCNT (R467). -/
def State.clearCounts (s : State) (d : Nat) : State :=
  let s := s.updDie d fun x =>
    { x with thr := x.thr &&& ~~~0x10, thrcnt := 0, rce := 0, rue := 0, l1e := 0
             link := x.link.map fun (p : Nat × W64) => (p.1, p.2 &&& ~~~0xFFFFFFFF) }
  let s := (List.range 6).foldl (fun (s : State) j => s.updStk (6 * d + j) fun y =>
    { y with dramce := 0, dramue := 0, rollb := 0, stops := 0, regc := 0, arue := 0 }) s
  { s with cores := s.cores.map fun (p : Nat × Core) => if dieOf p.1 == d then (p.1, { p.2 with ce := 0, ue := 0 }) else p }

/-- CLRCNT (R467). -/
def execClrcnt (die : Nat) (s : State) : Host.Outcome State Fault Refusal := .next (s.clearCounts die)

/-- RESET of an array (R469): every configuration stops and makes its arrival; then planes and deck go, and AINC rises. -/
def State.arrayReset (s : State) (st : Nat) : State :=
  let hs := allArrays.filter fun h => h.st == st && (s.arr h).isSome
  let s := hs.foldl (fun (s : State) h => s.stopArr h) s
  s.updStk st fun x =>
    { x with cfg := x.cfg.filter (fun (p : Nat × W16) => p.1 / 64 % 1024 == 1010 || p.1 / 64 % 1024 == 1011), deck := [], ainc := x.ainc + 1 }

/-- ARRAY_RESET (R469). -/
def execArrayReset (stack : Nat) (s : State) : Host.Outcome State Fault Refusal :=
  .next (if (s.stk stack).hold then s.arrayReset stack else s)

/-- A write of ACTL (R469). One with RESET set does nothing unless HOLD reads 1. -/
def State.actlWrite (s : State) (st : Nat) (v : W32) : State :=
  if bit v 1 && !(s.stk st).hold then s
  else
    let s := s.updStk st fun x => { x with hold := bit v 0 }
    if bit v 1 then s.arrayReset st else s

/-! ### Bring-up (R464, R465) -/

/-- The wave of a system core at its start (R464). -/
def bootWave (n wdlim : Nat) (pc : W64) : Wave :=
  { team := 0, tag := 0, s := FMap.put 0 [] 0 (BitVec.ofNat 64 n), k := [(0, 0xFFFFFFFF)], wdog := wdlim, wlim := wdlim, ex := ExecSt.start pc
    supervisor := true }

/-- The first write of BOOTPC (R464). -/
def State.boot (s : State) (d : Nat) (v : W64) : State :=
  let x := s.die d
  if bit x.bootst 0 then s
  else
    let pc := v &&& ~~~7
    let s := s.updDie d fun x => { x with bootpc := pc, bootst := x.bootst ||| 1 }
    let fail := fun (s : State) => s.updDie d fun x => { x with bootst := x.bootst ||| 2 }
    if !bit x.sysroot 0 then fail s
    else
      let r := s.fetchWord (320 + 4 * d) 0 true pc
      match r.2 with
      | .fault _ => fail r.1
      | _ => (List.range 4).foldl (fun (s : State) i =>
          s.setWave (wkey (320 + 4 * d + i) 0) (bootWave (4 * d + i) x.wdlim.toNat pc)) r.1

def State.sysrootWrite (s : State) (d : Nat) (v : W64) : State :=
  if bits v 1 11 ≠ 0 then s else s.updDie d fun x => { x with sysroot := v }

def State.runWrite (s : State) (d : Nat) (v : W32) : State := s.updDie d fun x => { x with run := v &&& 1 }

/-- RUN[0] is set on some die. -/
def State.running (s : State) : Bool := bit (s.die 0).run 0 || bit (s.die 1).run 0

/-- A write of SQD (R393, R394): the queue starts anew at the descriptor that it names. -/
def State.sqdWrite (s : State) (d q : Nat) (v : W64) : State :=
  let old := (FMap.at' {} (s.die d).sq q).sqd
  if bits v 1 5 ≠ 0 ∨ (bit v 0 ∧ bit old 0) then s
  else s.updDie d fun x => { x with sq := x.sq.ins q { sqd := v } }

/-- BOOTPC (R464, R465). -/
def execBootpc (die : Nat) (v : W64) (s : State) : Host.Outcome State Fault Refusal := .next (s.boot die v)
/-- SYSROOT (R465). -/
def execSysroot (die : Nat) (v : W64) (s : State) : Host.Outcome State Fault Refusal := .next (s.sysrootWrite die v)
/-- RUN (R465). -/
def execRun (die : Nat) (v : W32) (s : State) : Host.Outcome State Fault Refusal := .next (s.runWrite die v)
/-- SQD (R465). -/
def execSqd (die q : Nat) (v : W64) (s : State) : Host.Outcome State Fault Refusal := .next (if q < 16 then s.sqdWrite die q v else s)

/-! ### The blocks -/

/-- A block of the supervisor window. -/
inductive Block where
  | control (d : Nat)
  | launch (d : Nat)
  | telemetry (d : Nat)
  | stack (n : Nat)
  deriving DecidableEq, Repr

/-- The block that an address of the supervisor window lies in, with the offset (R361, R410, R465, R467). -/
def blockOf (a : W64) : Option (Block × Nat) :=
  let at_ := fun (base n : Nat) (mk : Nat → Block) =>
    if base ≤ a.toNat ∧ a.toNat < base + n * 0x01000000 then some (mk ((a.toNat - base) / 0x01000000), (a.toNat - base) % 0x01000000) else none
  match at_ 0x01FFF20000000000 2 .control with
  | some r => some r
  | none => match at_ 0x01FFF30000000000 2 .launch with
    | some r => some r
    | none => match at_ 0x01FFF40000000000 2 .telemetry with
      | some r => some r
      | none => at_ 0x01FFF80000000000 12 .stack

/-- The offset lies in a command area (R406). -/
def inCmdArea (off : Nat) : Bool := 0x100000 ≤ off && off < 0x100100

/-- The widths that a block accepts. -/
def Block.widthOk (b : Block) (off n : Nat) : Bool :=
  off % n == 0 && (match b with | .stack _ => n == 4 || (n == 8 && inCmdArea off) | _ => n == 4 || n == 8)

/-- Base of the 64-bit register that an offset lies in. -/
def Block.wide (b : Block) (off : Nat) : Option Nat :=
  let o := off / 8 * 8
  let yes := match b with
    | .control _ => [0x000, 0x010, 0x018, 0x028, 0x030].contains o
    | .launch _ => [0x000, 0x008, 0x020].contains o || (0x080 ≤ o && o < 0x100)
    | .telemetry _ => o == 0 || (0x200 ≤ o && o < 0x248)
    | .stack _ => inCmdArea off && o % 0x40 == 8
  if yes then some o else none

/-- Reads a 64-bit register. -/
def State.read64 (s : State) (b : Block) (o : Nat) : W64 :=
  match b with
  | .control d =>
    let x := s.die d
    if o = 0 then x.fqbase else if o = 0x10 then x.fqtail else if o = 0x18 then x.fqhead else if o = 0x30 then x.ctxt else 0
  | .launch d =>
    let x := s.die d
    if o = 0 then x.bootpc else if o = 8 then x.sysroot else if o = 0x20 then s.kbase else (FMap.at' {} x.sq ((o - 0x80) / 8)).sqd
  | .telemetry d => if o = 0 then BitVec.ofNat 64 (s.die d).tsamp else FMap.at' 0 (s.die d).link ((o - 0x200) / 8)
  | .stack n => (FMap.at' {} (s.stk n).parts ((o - 0x100000) / 0x40)).saveAddr

/-- STATE of an AGENT entry (R410). -/
def AgentState.num : AgentState → Nat
  | .alive => 0 | .recovering => 1 | .dead => 2 | .absent => 3

/-- Reads a 32-bit register; 0 where none is listed. -/
def State.read32 (s : State) (b : Block) (o : Nat) : W32 :=
  match b with
  | .control d =>
    let x := s.die d
    if o = 8 then x.fqlog2n else if o = 0x20 then x.fqlost else if o = 0x24 then x.fqerr else if o = 0x38 then x.wdlim
    else if o = 0x3C then x.hbmiss else if o = 0x40 then x.recmax else if o = 0x48 then x.myinc
    else if 0x100 ≤ o ∧ o < 0x340 then
      let a := x.agent ((o - 0x100) / 4)
      BitVec.ofNat 32 (a.st.num + 65536 * a.inc)
    else if 0x400 ≤ o ∧ o < 0x640 then BitVec.ofNat 32 (x.agent ((o - 0x400) / 4)).drops
    else 0
  | .launch d =>
    let x := s.die d
    if o = 0x10 then x.run else if o = 0x14 then x.bootst else if o = 0x18 then x.cpstat else if o = 0x28 then s.klog2n else 0
  | .telemetry d =>
    let x := s.die d
    if o = 8 then x.pwr else if o = 0xC then x.tdie else if o = 0x10 then x.pcap else if o = 0x14 then x.tlim else if o = 0x18 then x.ttrip
    else if o = 0x1C then x.thr else if o = 0x20 then x.thrcnt else if o = 0x28 then x.rce else if o = 0x2C then x.rue else if o = 0x30 then x.l1e
    else if 0x40 ≤ o ∧ o < 0x68 then FMap.at' 0 x.clt ((o - 0x40) / 4)
    else if 0x80 ≤ o ∧ o < 0xA8 then FMap.at' 0 x.marg ((o - 0x80) / 4)
    else if o = 0xC4 then x.agestat
    else if 0x100 ≤ o ∧ o < 0x1C0 then
      let y := s.stk (6 * d + (o - 0x100) / 32)
      match o % 32 / 4 with
      | 0 => y.stkpt | 1 => y.dramce | 2 => y.dramue | 3 => y.rollb | 4 => y.stops | 5 => y.regc | 6 => y.arue
      | _ => BitVec.ofNat 32 ((if y.hold then 1 else 0) + 65536 * y.ainc.toNat)
    else 0
  | .stack n =>
    let x := s.stk n
    if inCmdArea o then
      let p := FMap.at' {} x.parts ((o - 0x100000) / 0x40)
      if o % 0x40 = 0 then p.cmd else if o % 0x40 = 4 then p.stat else 0
    else if 0x200000 ≤ o ∧ o < 0x201000 then FMap.at' 0 x.rows ((o - 0x200000) / 4)
    else match cfgAt o with
      | some a => BitVec.ofNat 32 (x.cfgRead a)
      | none => 0

/-- A read of n bytes, 4 or 8, of a block. -/
def State.supRead (s : State) (b : Block) (off n : Nat) : Nat :=
  let word := fun (o : Nat) => match b.wide o with
    | some w => (s.read64 b w).toNat / 2 ^ (8 * (o - w)) % 2 ^ 32
    | none => (s.read32 b o).toNat
  if n = 4 then word off else word off + 2 ^ 32 * word (off + 4)

/-- Writes a 64-bit register; `whole` says that one store writes all of it (R415). -/
def State.write64 (s : State) (b : Block) (o : Nat) (v : W64) (whole : Bool) : State :=
  match b with
  | .control d =>
    if o = 0 then s.updDie d fun x => { x with fqbase := v &&& ~~~0xFFF }
    else if o = 0x18 then s.fqHead d v
    else if o = 0x28 then (if whole then s.fqCmd d v else s)
    else if o = 0x30 then s.updDie d fun x => { x with ctxt := v }
    else s
  | .launch d =>
    if o = 0 then s.boot d v
    else if o = 8 then s.sysrootWrite d v
    else if o = 0x20 then (if s.running then s else { s with kbase := v &&& ~~~0xFFF })
    else s.sqdWrite d ((o - 0x80) / 8) v
  | .telemetry _ => s
  | .stack n => s.updStk n fun x =>
      let k := (o - 0x100000) / 0x40
      { x with parts := x.parts.ins k { FMap.at' {} x.parts k with saveAddr := v } }

/-- Writes a 32-bit register; nothing where none is listed, or where it is read-only. -/
def State.write32 (s : State) (b : Block) (o : Nat) (v : W32) : State :=
  match b with
  | .control d =>
    let put := fun (f : Die → Die) => s.updDie d f
    if o = 8 then put fun x => { x with fqlog2n := v &&& 0x1F }
    else if o = 0x20 then put fun x => { x with fqlost := 0 }
    else if o = 0x24 then put fun x => { x with fqerr := 0 }
    else if o = 0x38 then put fun x => { x with wdlim := v }
    else if o = 0x3C then put fun x => { x with hbmiss := v &&& 0xFF }
    else if o = 0x40 then put fun x => { x with recmax := v }
    else if 0x400 ≤ o ∧ o < 0x640 then put fun x => x.setAgent ((o - 0x400) / 4) { x.agent ((o - 0x400) / 4) with drops := 0 }
    else s
  | .launch d =>
    if o = 0x10 then s.runWrite d v
    else if o = 0x28 then (if s.running then s else { s with klog2n := v &&& 0x1F })
    else s
  | .telemetry d =>
    if o = 0x10 then s.updDie d fun x => { x with pcap := v &&& 0xFFFF }
    else if o = 0x14 then s.updDie d fun x => { x with tlim := v &&& 0xFFFF }
    else if o = 0xC0 then s.ageWrite d v
    else if o = 0x300 then s.clearCounts d
    else if 0x100 ≤ o ∧ o < 0x1C0 ∧ o % 32 = 0x1C then s.actlWrite (6 * d + (o - 0x100) / 32) v
    else s
  | .stack n =>
    if inCmdArea o then (if o % 0x40 = 0 then s.cmdWrite n ((o - 0x100000) / 0x40) v else s)
    else if 0x200000 ≤ o ∧ o < 0x201000 then s.rowWrite n ((o - 0x200000) / 4) v
    else match cfgAt o with
      | some a => s.updStk n fun x => x.cfgWrite a v.toNat
      | none => s

/-- A write of four bytes: into its half of a 64-bit register, or into a 32-bit register. -/
def State.writeWord (s : State) (b : Block) (o : Nat) (v : W32) : State :=
  match b.wide o with
  | some w =>
    let old := s.read64 b w
    s.write64 b w (if o = w then (old &&& ~~~0xFFFFFFFF) ||| v.zeroExtend 64 else (old &&& 0xFFFFFFFF) ||| (v.zeroExtend 64 <<< 32)) false
  | none => s.write32 b o v

/-- A write of n bytes, 4 or 8, to a block. -/
def State.supWrite (s : State) (b : Block) (off n : Nat) (v : Nat) : State :=
  if n = 4 then s.writeWord b off (BitVec.ofNat 32 v)
  else match b.wide off with
    | some w => s.write64 b w (BitVec.ofNat 64 v) true
    | none => (s.writeWord b off (BitVec.ofNat 32 v)).writeWord b (off + 4) (BitVec.ofNat 32 (v / 2 ^ 32))

/-- REGISTER_WRITE (R410): a write of a block at a width that it accepts. -/
def execRegisterWrite (addr : W64) (n : Nat) (v : W64) (s : State) : Host.Outcome State Fault Refusal :=
  .next (match blockOf addr with
  | some (b, off) => if b.widthOk off n then s.supWrite b off n (v.toNat % 2 ^ (8 * n)) else s
  | none => s)

/-- An acquire of FQTAIL at die scope or wider drops the ring's lines from the acquiring core's L1 (R414). -/
def State.acquireRing (s : State) (g : Nat) (b : Block) (off scope : Nat) : State :=
  match b with
  | .control d =>
    let x := s.die d
    if off / 8 * 8 = 0x10 ∧ 3 ≤ scope ∧ x.ringOn then
      let lo := x.fqbase.toNat / 128
      let hi := (x.fqbase.toNat + 64 * 2 ^ bits x.fqlog2n 0 5 - 1) / 128
      { s with cores := s.cores.upd g fun c => { c with l1 := c.l1.dropKeys fun k => lo ≤ k / 128 && k / 128 ≤ hi } }
    else s
  | _ => s

end Sys2Proof.Machine
end

