-- ==== Sys2Proof/Machine/Windows.lean ====
section
/-! DEFINITION. Cluster windows (R128 to R133, R264 to R266). Bytes of a window are keyed by their offset in the owner's memory. -/
namespace Sys2Proof.Machine

/-- Windows open on a core, and replicas on a core (R128). -/
def State.windowsOn (s : State) (g : Nat) : Nat :=
  (s.teams.map fun (p : Nat × Team) => if p.2.core = g then p.2.windows.length else 0).sum
def State.replicasOn (s : State) (g : Nat) : Nat :=
  (s.teams.map fun (p : Nat × Team) => if p.2.core = g then p.2.replicas.length else 0).sum

/-- Performs a window form as often as R51 says, with its status for each performance (R264, R265). -/
def State.windowForm (s : State) (x : Ctx) (op : State → State × Nat) : State :=
  (x.performs.foldl (fun (s : State) l =>
    let r := op s
    match x.f.d.file with
    | .s => r.1.writeS x (BitVec.ofNat 64 r.2)
    | .v => r.1.writeV x false (if x.conv then x.act else laneBit l) fun _ => BitVec.ofNat 64 r.2
    | _ => r.1) s).advance x

/-- The status of `wopen` (R265), 0 when it opens. -/
def State.openStatus (s : State) (x : Ctx) (off writer : Nat) (sw : Bool) : Nat :=
  match s.teams.fetch x.w.team with
  | none => 1
  | some t =>
    if off % 128 ≠ 0 ∨ t.teammem ≤ off then 1
    else if (t.windows.fetch off).isSome then 2
    else if 256 ≤ s.windowsOn x.core then 3
    else if sw ∧ (255 < writer ∨ (s.rankOf t writer).isNone) then 4
    else 0

/-- `wopen` (R264 to R266). -/
def execWopen (f : F) (s : State) : Host.Outcome State Fault Refusal :=
  issue (.wopen f) s fun x s =>
    let off := (x.src false false x.f.a 0).toNat
    let writer := (x.src false false x.f.b 0).toNat
    let sw := bit x.f.imm8 0
    s.afterEarlier x (.wopen f) fun s => s.windowForm x fun s =>
      let st := s.openStatus x off writer sw
      if st ≠ 0 then (s, st)
      else (s.updTeam x.w.team fun t => { t with windows := t.windows.ins off ⟨sw, if sw then writer else 0, 0, []⟩ }, 0)

/-- `wsub` (R264 to R266). -/
def execWsub (f : F) (s : State) : Host.Outcome State Fault Refusal :=
  issue (.wsub f) s fun x s =>
    let rank := (x.src false false x.f.a 0).toNat
    let off := (x.src false false x.f.b 0).toNat
    s.windowForm x fun s =>
      match s.teams.fetch x.w.team with
      | none => (s, 1)
      | some t =>
        match if rank ≤ 255 then s.rankOf t rank else none with
        | none => (s, 1)
        | some (o, ow) =>
          if (ow.windows.fetch off).isNone then (s, 2)
          else if 256 ≤ s.replicasOn x.core then (s, 3)
          else if t.replicas.any fun r => r.owner == o && r.offset == off then (s, 4)
          else
            let s := s.updTeam x.w.team fun t => { t with replicas := t.replicas ++ [⟨o, off, false, 0, [], none⟩] }
            (s.updTeam o fun t => { t with windows := t.windows.upd off fun w => { w with subs := w.subs.ins x.w.team [] } }, 0)

/-- Drops a team's replica of a window, on both sides (R266). -/
def State.unsubscribe (s : State) (sub owner off : Nat) : State :=
  let s := s.updTeam sub fun t => { t with replicas := t.replicas.filter fun (r : Replica) => !(r.owner == owner && r.offset == off) }
  s.updTeam owner fun t => { t with windows := t.windows.upd off fun w => { w with subs := w.subs.del sub } }

/-- `wclose` (R266). -/
def execWclose (f : F) (s : State) : Host.Outcome State Fault Refusal :=
  issue (.wclose f) s fun x s =>
    let off := (x.src false false x.f.a 0).toNat
    s.windowForm x fun s =>
      match (s.teams.fetch x.w.team).bind fun t => t.windows.fetch off with
      | none => (s, 0)
      | some w =>
        let s := w.subs.foldl (fun (s : State) (p : Nat × List WinUpd) => s.unsubscribe p.1 x.w.team off) (s.applyUpdates x.w.team off)
        (s.updTeam x.w.team fun t => { t with windows := t.windows.del off }, 0)

/-- `wunsub` (R266). The updates on their way to the replica go with it: nothing reads it any more. -/
def execWunsub (f : F) (s : State) : Host.Outcome State Fault Refusal :=
  issue (.wunsub f) s fun x s =>
    let off := (x.src false false x.f.a 0).toNat
    let rank := (x.src false false x.f.b 0).toNat
    s.windowForm x fun s =>
      match (s.teams.fetch x.w.team).bind fun t => s.rankOf t rank with
      | none => (s, 0)
      | some (o, _) => (s.unsubscribe x.w.team o off, 0)

/-- A replica takes an update (R130, R133). -/
def Replica.take (r : Replica) (u : WinUpd) : Replica :=
  { r with seq := u.seq, bytes := u.bytes.foldl (fun m b => FMap.ins m b.1 b.2) r.bytes
           pair := match u.pair with | some q => some q | none => r.pair }

/-- WINDOW_UPDATE (R130): a subscriber applies the oldest update that it has not applied. -/
def State.applyFirst (s : State) (owner off sub : Nat) : State :=
  match (s.teams.fetch owner).bind fun t => (t.windows.fetch off).bind fun w => w.subs.fetch sub with
  | some (u :: us) =>
    if (s.teams.fetch sub).any fun t => t.replicas.any fun r => r.owner == owner && r.offset == off && r.installed then
      let s := s.updTeam sub fun t => { t with replicas := t.replicas.map fun (r : Replica) =>
        if r.owner == owner && r.offset == off then r.take u else r }
      s.updTeam owner fun t => { t with windows := t.windows.upd off fun w => { w with subs := w.subs.ins sub us } }
    else s
  | _ => s

/-- A subscriber applies every update on its way to it. -/
def State.applySub (s : State) (owner off sub : Nat) : State :=
  match (s.teams.fetch owner).bind fun t => (t.windows.fetch off).bind fun w => w.subs.fetch sub with
  | some us => us.foldl (fun s _ => s.applyFirst owner off sub) s
  | none => s

def execWindowUpdate (owner off sub : Nat) (s : State) : Host.Outcome State Fault Refusal := .next (s.applyFirst owner off sub)

/-- REPLICA_INSTALL (R129): the replica takes the window's bytes as of the current SEQ. -/
def execReplicaInstall (sub owner off : Nat) (s : State) : Host.Outcome State Fault Refusal :=
  .next (match s.teams.fetch owner with
  | none => s
  | some ow =>
    match ow.windows.fetch off with
    | none => s
    | some w =>
      let waits := (s.teams.fetch sub).any fun t => t.replicas.any fun r => r.owner == owner && r.offset == off && !r.installed
      if !waits then s
      else
        let pending := (w.subs.fetch sub).getD []
        let bytes := (keysFrom off 128).map fun k => (k, FMap.at' 0 ow.mem k)
        let s := s.updTeam sub fun t => { t with replicas := t.replicas.map fun (r : Replica) =>
          if r.owner == owner && r.offset == off then { pending.foldl Replica.take r with installed := true, seq := w.seq, bytes := bytes }
          else r }
        s.updTeam owner fun t => { t with windows := t.windows.upd off fun w => { w with subs := w.subs.upd sub fun _ => [] } })

/-- One update of a window by its writer (R130): SEQ rises, the owner's memory takes the bytes, and every subscriber is sent
them. -/
def State.windowStore (s : State) (wk owner off : Nat) (bytes : FMap W8) (pair : Option (Sig × Nat)) : State :=
  s.updTeam owner fun t =>
    match t.windows.fetch off with
    | none => t
    | some w =>
      let u : WinUpd := ⟨w.seq + 1, bytes, pair, wk / 64, wk % 64⟩
      { t with
        mem := bytes.foldl (fun m p => FMap.put 0 m p.1 p.2) t.mem
        windows := t.windows.ins off { w with seq := w.seq + 1, subs := w.subs.map fun (p : Nat × List WinUpd) => (p.1, p.2 ++ [u]) } }

/-- Rank and offset of an address in the window range (R28). -/
def winRank (va : W64) : Nat := bits va 24 8
def winOff (va : W64) : Nat := bits va 0 24

/-- The window that an access of a wave's team touches, with its owner: nothing when the access raises PROT (R28, R130 to R132). While
the owner is saved in a context record, a load reads the team's replica, or waits for it (R129, R134), and a store waits for the owner
(DESIGN CHOICE, log entry 46). -/
def State.windowAt (s : State) (x : Ctx) (store : Bool) (va : W64) : Option (Nat × Nat) :=
  match s.teams.fetch x.w.team with
  | none => none
  | some t =>
    match s.groupTeam t (winRank va) with
    | none => none
    | some o =>
      let off := winOff va / 128 * 128
      let open_ := fun (p : Window → Bool) => match s.teams.fetch o with | some ow => (ow.windows.fetch off).any p | none => true
      if 0x80000 ≤ winOff va then none
      else if store then (if open_ fun w => w.sw && w.writer == t.rank then some (o, off) else none)
      else if open_ (fun _ => true) && t.replicas.any fun r => r.owner == o && r.offset == off then some (o, off)
      else none

/-- A store through a window whose owner is saved waits for it (log entry 46). -/
def State.ownerSaved (s : State) (x : Ctx) (va : W64) : Option Stall :=
  match s.windowAt x true va with
  | some (o, _) => if (s.teams.fetch o).isNone then some (.owner o) else none
  | none => none

end Sys2Proof.Machine
end

