-- ==== Sys2Proof/Machine/MemForms.lean ====
section
/-! DEFINITION. The shape of the load, store, full/empty and atomic forms (R242 to R247), their checks (R28, R29, R132, R243, R256),
and one lane's access in each row of the address map (R249 to R253, R255, R409). -/
namespace Sys2Proof.Machine

/-- What a memory form does with its word. -/
inductive Use where | load | store | atomic | take | fill
  deriving DecidableEq, Repr

/-- An access: bytes, use, whether any alignment will do (R243), and the scope of its ordering, 0 for a plain access. -/
structure Acc where
  n : Nat
  use : Use
  loose : Bool := false
  scope : Nat := 0
  deriving DecidableEq, Repr

/-- Access kind of a fault (R409). -/
def Acc.kind (q : Acc) : Kind := match q.use with | .load | .take => .load | .store | .fill => .store | .atomic => .atomic

/-- The address of a lane (R242). -/
def Ctx.addr (x : Ctx) (l : Nat) : W64 :=
  x.src true true x.f.a l + (if x.f.x then x.f.imm32.signExtend 64 else x.f.imm8.signExtend 64)

/-- The instruction makes a single access (R244). -/
def Ctx.single (x : Ctx) : Bool := x.f.a.file == .s && x.f.b.file != .v && x.f.c.file != .v

/-- The lanes that remain to be performed (R244, R245). -/
def Ctx.todo (x : Ctx) : List Nat := if x.single then x.performs else (lanesOf x.act).filter fun l => !bit x.w.fcm l

/-- The destination lanes of one performance (R244). -/
def Ctx.lanesAt (x : Ctx) (l : Nat) : W32 := if x.single && x.conv then x.act else laneBit l

/-! ### Checks -/

/-- What an address of the supervisor window names (R361, R406, R409, R410, R465, R467). -/
inductive SupAt where
  | frame (off : Nat)
  | block (b : Block) (off : Nat)
  | nothing
  deriving DecidableEq, Repr

def supAt (a : W64) : SupAt :=
  if 0x01FFF00100000000 ≤ a.toNat ∧ a.toNat < 0x01FFF00100000100 then .frame (a.toNat - 0x01FFF00100000000)
  else match blockOf a with
    | some (b, off) => .block b off
    | none => .nothing

/-- The widths that a register of the supervisor window accepts. -/
def SupAt.widthOk (p : SupAt) (n : Nat) : Bool :=
  match p with
  | .frame off => (n == 4 || n == 8) && off % n == 0
  | .block b off => b.widthOk off n
  | .nothing => true

/-- A lane's address breaks an alignment rule (R29, R243, R409, R410). -/
def Ctx.misaligned (x : Ctx) (q : Acc) (a : W64) : Bool :=
  (a.toNat % q.n != 0 && !(q.loose && (rowOf a == .global || rowOf a == .team)))
    || (rowOf a == .supervisor && x.w.supervisor && !(supAt a).widthOk q.n)

/-- A store to bytes of the team's own open windows (R132). -/
def Ctx.hitsWindow (x : Ctx) (o n : Nat) : Bool :=
  match x.tm with
  | some t => t.windows.any fun (w : Nat × Window) => o < w.1 + 128 && w.1 < o + n
  | none => false

/-- A lane's access lies in a PROT row, in two rows, or outside the form's range (R28, R29, R132, R256). -/
def State.forbidden (s : State) (x : Ctx) (q : Acc) (a : W64) : Bool :=
  let last := a + BitVec.ofNat 64 (q.n - 1)
  decide (2 ^ 64 < a.toNat + q.n) || rowOf a != rowOf last ||
    (match rowOf a with
    | .global => q.use == .take || q.use == .fill
    | .team =>
      match x.teamOff a q.n with
      | none => true
      | some o => (q.use == .store || q.use == .fill) && x.hitsWindow o q.n
    | .window =>
      match q.use with
      | .load => (s.windowAt x false a).isNone
      | .store => (s.windowAt x true a).isNone
      | _ => true
    | .supervisor => !x.w.supervisor || !(q.use == .load || q.use == .store) || supAt a == .nothing
    | .nowhere => true)

/-- A fault of some lanes: the mark of each, and the lowest one's address; a single access marks none (R245, R409, R412). -/
def Ctx.laneFault (x : Ctx) (q : Acc) (c : Code) (ls : List Nat) : Fi :=
  { code := c, marked := if x.single then none else some (maskOf ls), addr := x.addr (lowLane (maskOf ls)), kind := q.kind }

/-- The first fault of an access before any lane is performed (R245). -/
def State.accessFault (s : State) (x : Ctx) (q : Acc) : Option Fi :=
  match x.todo.filter fun l => x.misaligned q (x.addr l) with
  | l :: ls => some (x.laneFault q .misalign (l :: ls))
  | [] =>
    match x.todo.filter fun l => s.forbidden x q (x.addr l) with
    | l :: ls => some (x.laneFault q .prot (l :: ls))
    | [] => none

/-! ### Lanes -/

/-- What one lane's access comes to. -/
inductive Lane where
  | done (s : State) (v : Nat)
  /-- The lane is marked; for PAGE with each entry, the address that needs it, and ACC[6:3]. -/
  | mark (s : State) (c : Code) (pa inc : Nat) (ents : List (Nat × W64 × Nat))
  /-- The home does not answer yet (R434, R436), or a replica is on its way (R129). -/
  | wait (s : State) (why : Stall)
  deriving DecidableEq, Repr

/-- The outcome of the lanes so far. -/
structure Tally where
  s : State
  marks : List (Nat × Code × Nat × Nat) := []
  ents : List (Nat × Nat × W64 × Nat) := []
  hold : Option Stall := none
  deriving DecidableEq, Repr

/-- Performs one lane: what it leaves in its destination, and its bit of FCM (R245). -/
def Tally.lane (x : Ctx) (op : State → Nat → Lane) (put : State → Nat → Nat → State) (t : Tally) (l : Nat) : Tally :=
  match op t.s l with
  | .done s v =>
    let s := put s l v
    { t with s := if x.single then s else s.updWave x.key fun w => { w with fcm := w.fcm ||| laneBit l } }
  | .mark s c pa inc ents =>
    { t with s := s, marks := t.marks ++ [(l, c, pa, inc)], ents := t.ents ++ ents.map fun e => (l, e) }
  | .wait s why => { t with s := s, hold := some why }

/-- The records of PAGE: one for each entry, in the order of its lowest lane (R421). -/
def pageRecords (single : Bool) (ents : List (Nat × Nat × W64 × Nat)) : List (W32 × W64 × Nat) :=
  let keys := (ents.map fun e => e.2.1).reverse.dedup.reverse
  keys.filterMap fun k =>
    match ents.filter fun e => e.2.1 == k with
    | e :: es => some (if single then 0 else maskOf ((e :: es).map fun p => p.1), e.2.2.1, e.2.2.2)
    | [] => none

/-- The fault of the marked lanes: the first of PROT, PAGE, POISON and REMDEAD (R245). -/
def Tally.fault (t : Tally) (x : Ctx) (q : Acc) : Option Fi :=
  ([Code.prot, .page, .poison, .remdead].findSome? fun c => t.marks.find? fun m => m.2.1 == c).map fun m =>
    { x.laneFault q m.2.1 (t.marks.map fun p => p.1) with
      pa := m.2.2.1, inc := m.2.2.2, pages := if m.2.1 = .page then pageRecords x.single t.ents else [] }

/-- The end of an access: it waits, it faults, or it is complete (R245). -/
def Tally.close (t : Tally) (x : Ctx) (q : Acc) (i : Instr) : State :=
  match t.hold with
  | some why => t.s.stallAt x why i
  | none =>
    match t.fault x q with
    | some fi => t.s.raise x fi
    | none => (t.s.lanesDone x x.single).advance x

/-- The lanes of an access in ascending order (R245, R247). -/
def State.runLanes (s : State) (x : Ctx) (q : Acc) (i : Instr) (op : State → Nat → Lane) (put : State → Nat → Nat → State)
    (ls : List Nat) : State :=
  (ls.foldl (Tally.lane x op put) { s := s }).close x q i

/-- A memory form: nothing when no lane is active (R79), the checks, then its lanes (R245). -/
def State.memForm (s : State) (x : Ctx) (q : Acc) (body : State → State) : State :=
  if x.act = 0 then s.advance x
  else match s.accessFault x q with
    | some fi => s.raise x fi
    | none => body s

/-! ### Translation of a lane -/

/-- Where the bytes of a lane's access lie, as pieces of consecutive keys, or what keeps the lane from them. -/
inductive LaneAt where
  | pieces (ps : List (Nat × Nat))
  | mark (c : Code) (ents : List (Nat × W64 × Nat))
  | wait (why : Stall)
  deriving DecidableEq, Repr

/-- The piece of a lane's access in one page; the record of a missing entry gives the lane's address (R421). -/
def TRes.piece (va : W64) (n : Nat) : TRes → LaneAt
  | .ok k => .pieces [(k, n)]
  | .prot => .mark .prot []
  | .hold l => .wait (.reserved l)
  | .page e acc => .mark .page [(e, va, acc)]

/-- Two pages of one access: PROT of either, else what waits, else PAGE with the entries of both (R29, R245). -/
def LaneAt.join : LaneAt → LaneAt → LaneAt
  | .pieces ps, .pieces qs => .pieces (ps ++ qs)
  | .mark .prot es, _ => .mark .prot es
  | _, .mark .prot es => .mark .prot es
  | .wait w, _ => .wait w
  | _, .wait w => .wait w
  | .mark c es, .mark _ fs => .mark c (es ++ fs.filter fun f => es.all fun e => e.1 != f.1)
  | .mark c es, .pieces _ => .mark c es
  | .pieces _, .mark c fs => .mark c fs

/-- The bytes of a lane's access: each page faults on its own (R29, R245). -/
def State.laneKeys (s : State) (x : Ctx) (kind : Kind) (va : W64) (n : Nat) : State × LaneAt :=
  let m := min n (65536 - va.toNat % 65536)
  let r := s.translate x.die (some x.core) x.w.tag x.w.supervisor kind va
  if m = n then (r.1, r.2.piece va n)
  else
    let q := r.1.translate x.die (some x.core) x.w.tag x.w.supervisor kind (va + BitVec.ofNat 64 m)
    (q.1, (r.2.piece va m).join (q.2.piece va (n - m)))

/-- The keys of some pieces. -/
def piecesKeys (ps : List (Nat × Nat)) : List Nat := ps.flatMap fun p => keysFrom p.1 p.2

/-- Translates a lane and goes on with its pieces. -/
def State.withKeys (s : State) (x : Ctx) (kind : Kind) (va : W64) (n : Nat) (k : State → List (Nat × Nat) → Lane) : Lane :=
  let r := s.laneKeys x kind va n
  match r.2 with
  | .mark c es => .mark r.1 c 0 0 es
  | .wait why => .wait r.1 why
  | .pieces ps => k r.1 ps

/-! ### Loads -/

/-- A plain load of pieces (R249). -/
def State.loadPieces (s : State) (g : Nat) : List (Nat × Nat) → State × Nat
  | [] => (s, 0)
  | p :: ps =>
    let r := s.plainLoad g p.1 p.2
    let t := State.loadPieces r.1 g ps
    (t.1, r.2 + 2 ^ (8 * p.2) * t.2)

/-- The read of an acquire at a line's point, then its acquire part (R117, R250, R252). The line's L1 copy goes, so that no later load
of the core returns an older value (R99, R106). -/
def State.acquireRead (s : State) (x : Ctx) (scope k n : Nat) : State × Nat :=
  let s := s.drainOver x.core (keysFrom k n)
  let v := ofBytes ((keysFrom k n).map fun i => if 2 ≤ scope then s.homeByte i else s.farByte x.die i)
  ((s.dropL1Line x.core (lineOf k)).acqStep x.key scope (lineOf k), v)

/-- A lane's load of the global space (R249, R250, R253, R255). -/
def State.loadGlobal (s : State) (x : Ctx) (q : Acc) (np : Bool) (va : W64) : Lane :=
  s.withKeys x .load va q.n fun s ps =>
    let read := fun (s : State) =>
      match ps with
      | (k, _) :: _ => if q.scope = 0 then s.loadPieces x.core ps else s.acquireRead x q.scope k q.n
      | [] => (s, 0)
    match s.reachAll x.die (piecesKeys ps) with
    | (.ok, _) => let r := read s; .done r.1 r.2
    | (.hold why, _) => .wait s why
    | (.dead, k) => .mark s .remdead 0 (s.incAt x.die k) []
    | (.poison, k) =>
      if np then
        let s := if q.scope = 0 then s else (read s).1
        .done (s.flag x .npz true) 0
      else .mark s .poison (keyPa k) 0 []

/-- A load through a window reads the loading team's replica, with every earlier store of the wave (R131, R133). -/
def State.loadWindow' (s : State) (x : Ctx) (q : Acc) (va : W64) : Lane :=
  match s.windowAt x false va with
  | none => .mark s .prot 0 0 []
  | some (o, off) =>
    let mine := (((s.teams.fetch o).bind fun t => t.windows.fetch off).bind fun w => w.subs.fetch x.w.team).any fun (us : List WinUpd) =>
      us.any fun u => wkey u.core u.slot == x.key
    let s := if mine then s.applySub o off x.w.team else s
    match (s.teams.fetch x.w.team).bind fun t => t.replicas.find? fun (r : Replica) => r.owner == o && r.offset == off with
    | none => .mark s .prot 0 0 []
    | some r =>
      if !r.installed then .wait s (.replica o off)
      else
        let v := ofBytes ((keysFrom (winOff va) q.n).map fun i => FMap.at' 0 r.bytes i)
        let s := match q.scope with
          | 0 => s
          | 1 => s.acqStep x.key 1 0
          | _ =>
            let p := r.pair.getD (0, 6)
            (s.invalidateHits x.core p.1).updWave x.key fun w => { w with sigacc := w.sigacc ||| p.1, sigfl := min w.sigfl p.2 }
        .done s v

/-- A read of a register of the supervisor window (R95, R409, R414). -/
def State.loadSup (s : State) (x : Ctx) (q : Acc) (va : W64) : Lane :=
  match supAt va with
  | .frame off =>
    match s.waves.fetch x.key with
    | some w => .done s (field w.frame.bytes off q.n)
    | none => .done s 0
  | .block b off => .done (s.acquireRing x.core b off q.scope) (s.supRead b off q.n)
  | .nothing => .mark s .prot 0 0 []

/-- A load of own team memory (R124, R251). -/
def State.loadTeam' (s : State) (x : Ctx) (q : Acc) (va : W64) : Lane :=
  match x.teamOff va q.n, s.teams.fetch x.w.team with
  | some o, some t => .done (if q.scope = 0 then s else s.acqStep x.key 1 0) (ofBytes (t.bytes o q.n))
  | _, _ => .mark s .prot 0 0 []

/-- A lane's load. -/
def State.loadLane (s : State) (x : Ctx) (q : Acc) (np : Bool) (va : W64) : Lane :=
  match rowOf va with
  | .global => s.loadGlobal x q np va
  | .team => s.loadTeam' x q va
  | .window => s.loadWindow' x q va
  | .supervisor => s.loadSup x q va
  | .nowhere => .mark s .prot 0 0 []

/-- Bytes of a size (R248). -/
def sizeBytes : MSize → Nat
  | .u8 | .i8 => 1 | .u16 | .i16 => 2 | .b32 => 4 | .b64 => 8

/-- A loaded value as 64 bits (R248). -/
def sizeExt (z : MSize) (v : Nat) : W64 :=
  match z with
  | .i8 => (BitVec.ofNat 8 v).signExtend 64
  | .i16 => (BitVec.ofNat 16 v).signExtend 64
  | _ => BitVec.ofNat 64 v

/-- The order has an acquire part (R173). -/
def ordAcq : Ord → Bool | .acq | .ar | .acqNp => true | _ => false
/-- The order has a release part (R173). -/
def ordRel : Ord → Bool | .rel | .ar => true | _ => false
/-- The order is `.np` or `.acq.np` (R173). -/
def ordNp : Ord → Bool | .np | .acqNp => true | _ => false

/-- A result goes to the s destination, or to the lanes that the performance serves (R244). -/
def State.putResult (s : State) (x : Ctx) (pair : Bool) (l : Nat) (v : W64) : State :=
  match x.f.d.file with
  | .none => s
  | .s => s.writeS x v
  | _ => s.writeV x pair (x.lanesAt l) fun _ => v

/-- `ld` (R245, R248 to R250). -/
def execLd (z : MSize) (o : Ord) (f : F) (s : State) : Host.Outcome State Fault Refusal :=
  issue (.ld z o f) s fun x s =>
    let q : Acc := { n := sizeBytes z, use := .load, loose := !ordAcq o, scope := if ordAcq o then f.sc.toNat else 0 }
    s.memForm x q fun s =>
      s.runLanes x q (.ld z o f) (fun s l => s.loadLane x q (ordNp o) (x.addr l)) (fun s l v => s.putResult x (z == .b64) l (sizeExt z v)) x.todo

/-! ### Stores -/

/-- A plain store of pieces (R249). -/
def State.storePieces (s : State) (wk : Nat) : List (Nat × Nat) → List W8 → State
  | [], _ => s
  | p :: ps, bs => State.storePieces (s.bufferStore wk p.1 (bs.take p.2)) wk ps (bs.drop p.2)

/-- The bytes that lanes above a lane have stored before the instruction was issued again: they keep the value of the higher lane
(R33, R245). -/
def State.stored (s : State) (x : Ctx) (n l : Nat) : List Nat :=
  if x.single || x.act &&& x.w.fcm == 0 then []
  else ((lanesOf (x.act &&& x.w.fcm)).filter fun h => l < h && rowOf (x.addr h) == .global).flatMap fun h =>
    match (s.laneKeys x .store (x.addr h) n).2 with | .pieces ps => piecesKeys ps | _ => []

/-- The home step of a release of n bytes: the write, but for the bytes that higher lanes have stored, then the slot or the team
part, then the line enters SIGACC (R116, R247, R250, R252). -/
def State.releaseWrite (s : State) (x : Ctx) (scope : Nat) (sig : Sig) (fl : Nat) (k : Nat) (bs : List W8) (done : List Nat) : State :=
  let s := s.drainOver x.core (keysFrom k bs.length)
  let put := fun (s : State) (k : Nat) (bs : List W8) => (s.putL1 x.core k bs).performStore x.key k bs
  let s := match done with
    | [] => put s k bs
    | _ => (((keysFrom k bs.length).zip bs).filter fun (p : Nat × W8) => !done.contains p.1).foldl (fun (s : State) (p : Nat × W8) => put s p.1 [p.2]) s
  let s := if scope = 1 then s.teamRelease x.key sig fl else s.relSlot x.key scope sig fl (lineOf k) false
  s.sigAdd x.key (lineOf k)

/-- A plain store of a lane: the bytes that no higher lane has stored. -/
def State.storePlain (s : State) (x : Ctx) (l n : Nat) (ps : List (Nat × Nat)) (bs : List W8) : State :=
  match s.stored x n l with
  | [] => s.storePieces x.key ps bs
  | done =>
    let kept := ((piecesKeys ps).zip bs).filter fun p => !done.contains p.1
    s.storePieces x.key (kept.map fun p => (p.1, 1)) (kept.map fun p => p.2)

/-- A lane's store of the global space (R249, R250, R253, R255, R434, R436). -/
def State.storeGlobal (s : State) (x : Ctx) (q : Acc) (sig : Sig) (fl : Nat) (va : W64) (bs : List W8) (l : Nat) : Lane :=
  s.withKeys x .store va q.n fun s ps =>
    match q.scope, ps with
    | 0, _ =>
      match s.storeHeld x.key (piecesKeys ps) with
      | some why => .wait s why
      | none => .done (s.storePlain x l q.n ps bs) 0
    | _, [] => .done s 0
    | scope, (k, _) :: _ =>
      match s.shut x.die (lineOf k) with
      | some why => .wait s why
      | none => .done (s.releaseWrite x scope sig fl k bs (s.stored x q.n l)) 0

/-- A store to own team memory (R125, R251). -/
def State.storeTeam (s : State) (x : Ctx) (q : Acc) (sig : Sig) (fl : Nat) (va : W64) (bs : List W8) : Lane :=
  match x.teamOff va q.n with
  | some o =>
    let s := s.updTeam x.w.team fun t => t.putBytes o bs
    .done (if q.scope = 0 then s else s.teamRelease x.key sig fl) 0
  | none => .mark s .prot 0 0 []

/-- A write of the trap frame leaves its read-only fields (R409); one of a whole SAVE field ends the error of its register (R92). -/
def Frame.write (f : Frame) (off : Nat) (bs : List W8) : Frame :=
  let old := f.bytes
  let new := Frame.ofBytes (old.take off ++ bs ++ old.drop (off + bs.length))
  { f with rpc := new.rpc &&& ~~~7, save := new.save, scratch := new.scratch
           errs := f.errs.dropKeys fun n => decide (off ≤ 8 * (n - 60) + 0x30 ∧ 8 * (n - 60) + 0x38 ≤ off + bs.length) }

/-- A write of a register of the supervisor window (R95, R409). -/
def State.storeSup (s : State) (x : Ctx) (q : Acc) (va : W64) (bs : List W8) : Lane :=
  match supAt va with
  | .frame off => .done (s.updWave x.key fun w => { w with frame := w.frame.write off bs }) 0
  | .block b off => .done (s.supWrite b off q.n (ofBytes bs)) 0
  | .nothing => .mark s .prot 0 0 []

/-- A lane's store; the window lanes of the instruction have been performed together, and a release at team scope on them leaves its
pair to the team (R105, R116, R130, R249). -/
def State.storeLane (s : State) (x : Ctx) (q : Acc) (sig : Sig) (fl : Nat) (va : W64) (bs : List W8) (l : Nat) : Lane :=
  match rowOf va with
  | .global => s.storeGlobal x q sig fl va bs l
  | .team => s.storeTeam x q sig fl va bs
  | .window => .done (if q.scope = 1 then s.teamRelease x.key sig fl else s) 0
  | .supervisor => s.storeSup x q va bs
  | .nowhere => .mark s .prot 0 0 []

/-- The window stores of an instruction: one update of each window, its bytes from the lanes in ascending order (R130, R249). -/
def State.storeWindows (s : State) (x : Ctx) (n : Nat) (pair : Option (Sig × Nat)) (data : Nat → List W8) (ls : List Nat) : State :=
  let ws := ls.filterMap fun l => if rowOf (x.addr l) = .window then (s.windowAt x true (x.addr l)).map fun w => (w, l) else none
  ((ws.map fun w => w.1).reverse.dedup.reverse).foldl (fun s (w : Nat × Nat) =>
    let bytes := (ws.filter fun p => p.1 == w).foldl (fun (m : FMap W8) p =>
      ((keysFrom (winOff (x.addr p.2)) n).zip (data p.2)).foldl (fun m b => FMap.ins m b.1 b.2) m) []
    s.windowStore x.key w.1 w.2 bytes pair) s

/-- Some lane of a release makes a home step or a window update, so that the saturation test applies (R116, R133, R252). -/
def State.needsFlush (s : State) (x : Ctx) (kind : Kind) (ls : List Nat) : Bool :=
  ls.any fun l =>
    match rowOf (x.addr l) with
    | .window => true
    | .global =>
      match (s.translate x.die (some x.core) x.w.tag x.w.supervisor kind (x.addr l)).2 with
      | .ok k => homeOf k != .host
      | _ => false
    | _ => false

/-- What begins a release form: its wait (R110, R116, R251), and the flush when some lane needs it; then the rest with the
signature and the floor that its home steps carry (R250). -/
def State.release (s : State) (x : Ctx) (scope : Nat) (kind : Kind) (i : Instr) (k : State → Sig → Nat → State) : State :=
  s.relBegin x scope i fun s =>
    let s := if 2 ≤ scope && s.needsFlush x kind x.todo then s.relFlush x.key scope else s
    match s.waves.fetch x.key with
    | some w => k s w.sigacc w.sigfl
    | none => s

/-- `st` (R245, R248 to R250). -/
def execSt (z : MSize) (o : Ord) (f : F) (s : State) : Host.Outcome State Fault Refusal :=
  issue (.st z o f) s fun x s =>
    let q : Acc := { n := sizeBytes z, use := .store, loose := !ordRel o, scope := if ordRel o then f.sc.toNat else 0 }
    let data := fun l => toBytes q.n (x.src true (z == .b64) x.f.b l).toNat
    s.memForm x q fun s =>
      match x.todo.findSome? fun l => if rowOf (x.addr l) = .window then s.ownerSaved x (x.addr l) else none with
      | some why => s.stallAt x why (.st z o f)
      | none =>
      s.release x q.scope .store (.st z o f) fun s sig fl =>
        let s := s.storeWindows x q.n (if 2 ≤ q.scope then some (sig, fl) else none) data x.todo
        s.runLanes x q (.st z o f) (fun s l => s.storeLane x q sig fl (x.addr l) (data l) l) (fun s _ _ => s) x.todo

/-! ### Full/empty forms (R125, R126, R256) -/

/-- The word's transition, once in a cc (R126). -/
def Team.flip (t : Team) (o cc : Nat) (full : Bool) : Team :=
  { t with full := FMap.put false t.full (o / 4) full, feLast := t.feLast.ins (o / 4) (cc + 1) }

/-- A lane's word lets the form perform (R125, R126). -/
def Team.feReady (t : Team) (u : Use) (sync : Bool) (o cc : Nat) : Bool :=
  (FMap.at' false t.full (o / 4) == (u == .take)) && (sync || FMap.at' 0 t.feLast (o / 4) != cc + 1)

/-- One lane of a full/empty form whose word is ready. -/
def State.feLane (s : State) (x : Ctx) (u : Use) (sync : Bool) (o l : Nat) : State :=
  match s.teams.fetch x.w.team with
  | none => s
  | some t =>
    let s := match u with
      | .fill => s.updTeam x.w.team fun t => (t.putBytes o (toBytes 4 (x.src true false x.f.b l).toNat)).flip o s.cc true
      | _ =>
        let v := ofBytes (t.bytes o 4)
        let s := if sync then s else s.updTeam x.w.team fun t => t.flip o s.cc false
        (s.putResult x false l (BitVec.ofNat 64 v)).acqStep x.key 1 0
    if x.single && x.conv then s else s.updWave x.key fun w => { w with fcm := w.fcm ||| laneBit l }

/-- The lanes of a full/empty form that remain: each performs when its word is ready, in ascending order; answers those that
still wait. -/
def State.feLanes (s : State) (x : Ctx) (u : Use) (sync : Bool) (ls : List Nat) : State × List Nat :=
  ls.foldl (fun (r : State × List Nat) l =>
    match x.teamOff (x.addr l) 4, r.1.teams.fetch x.w.team with
    | some o, some t => if t.feReady u sync o r.1.cc then (r.1.feLane x u sync o l, r.2) else (r.1, r.2 ++ [l])
    | _, _ => r) (s, [])

/-- The lanes that a full/empty form has not completed (R126). -/
def Ctx.feTodo (x : Ctx) : List Nat :=
  if x.single && x.conv then [lowLane x.act] else (lanesOf x.act).filter fun l => !bit x.w.fcm l

/-- Looks at the words of a full/empty form. -/
def State.feStep (s : State) (x : Ctx) (u : Use) (sync : Bool) (i : Instr) : State :=
  let ready := x.feTodo.any fun l =>
    match x.teamOff (x.addr l) 4, s.teams.fetch x.w.team with
    | some o, some t => t.feReady u sync o s.cc
    | _, _ => false
  let go := fun (s : State) =>
    let r := s.feLanes x u sync x.feTodo
    if r.2.isEmpty then (r.1.lanesDone x (x.single && x.conv)).advance x
    else r.1.stallAt x .fullEmpty i
  if u == .fill && ready && ((x.single && x.conv) || x.act &&& x.w.fcm == 0) then s.relBegin x 1 i fun s => go (s.relTeam x.key) else go s

/-- A full/empty form at issue (R256). -/
def State.feForm (s : State) (x : Ctx) (u : Use) (sync : Bool) (i : Instr) : State :=
  s.memForm x { n := 4, use := u } fun s => s.feStep x u sync i

/-- `ld.sync` (R256). -/
def execLdSync (f : F) (s : State) : Host.Outcome State Fault Refusal :=
  issue (.ldSync f) s fun x s => s.feForm x .take true (.ldSync f)

/-- `ld.take` (R256). -/
def execLdTake (f : F) (s : State) : Host.Outcome State Fault Refusal :=
  issue (.ldTake f) s fun x s => s.feForm x .take false (.ldTake f)

/-- `st.fill` (R256). -/
def execStFill (f : F) (s : State) : Host.Outcome State Fault Refusal :=
  issue (.stFill f) s fun x s => s.feForm x .fill false (.stFill f)

/-- FE_LANE_COMPLETE (R126): a split that waits at a full/empty form looks at its words. -/
def execFeLaneComplete (w : WRef) (e : Nat) (s : State) : Host.Outcome State Fault Refusal :=
  .next (match (s.waves.fetch (wkey w.core w.slot)).bind fun v => if v.halted then none else v.ex.splits.fetch e with
  | some { stall := .fullEmpty, form := some i, .. } =>
    let go := fun (f : F) (u : Use) (sync : Bool) =>
      match s.ctxAt w.core w.slot e f with | some x => s.feStep x u sync i | none => s
    (match i with
      | .ldSync f => go f .take true
      | .ldTake f => go f .take false
      | .stFill f => go f .fill false
      | _ => s)
  | _ => s)

/-! ### Fences, prefetches and cache control -/

/-- `fence.sc` (R110, R260): below scope 2 it waits for the earlier accesses of the other splits alone. -/
def execFenceSc (f : F) (s : State) : Host.Outcome State Fault Refusal :=
  issue (.fenceSc f) s fun x s =>
    if f.sc.toNat < 2 then
      let s := s.drainWave x.key
      if (s.waves.fetch x.key).any fun w => w.older x.since then s.stallAt x .earlier (.fenceSc f) else s.advance x
    else s.relBegin x f.sc.toNat (.fenceSc f) fun s => s.advance x

/-- The keys that the range of a fence or of `cinv` covers; bytes from 2^56 up touch nothing (R261, R263). -/
def State.rangeSpan (s : State) (x : Ctx) : List (Nat × Nat) :=
  let base := (x.src false false x.f.a 0).toNat
  let len := (x.src false false x.f.b 0).toNat
  if len = 0 then [] else s.span x.core x.w.tag base (min (base + len) (2 ^ 56))

/-- `fence.xp` (R111, R261). -/
def execFenceXp (f : F) (s : State) : Host.Outcome State Fault Refusal :=
  issue (.fenceXp f) s fun x s =>
    s.relBegin x 1 (.fenceXp f) fun s =>
      let sp := s.rangeSpan x
      let dirty := ((s.l2d.map fun (p : Nat × W8) => lineOf p.1).dedup).filter fun l => inSpan sp l
      let copies := ((s.dirCopy.map fun (p : Nat × List Nat) => p.1) ++ (s.peerCopy.map fun (p : Nat × W8) => p.1 / 2 / 128).dedup).filter fun l => inSpan sp l
      let s := dirty.foldl (fun (s : State) l => s.cleanLine l) s
      (copies.foldl (fun (s : State) l => (s.dropPeerCopies l).dropCopies l) s).advance x

/-- `cinv` (R263). -/
def execCinv (f : F) (s : State) : Host.Outcome State Fault Refusal :=
  issue (.cinv f) s fun x s =>
    let sp := s.rangeSpan x
    ({ s with cores := s.cores.upd x.core fun c => { c with l1 := c.l1.dropKeys fun k => inSpan sp (lineOf k) } } : State).advance x

/-- Fills a line into the L1 of a core (R262). -/
def State.fillLine (s : State) (g line : Nat) : State :=
  (keysFrom (4 * line) 4).foldl (fun (s : State) sec => s.fillSector g sec) s

/-- Fills a member's line into the L2 of a die (R95, R262). -/
def State.fillPeerCopy (s : State) (d line : Nat) : State :=
  let t := s.fitL2 d line
  { t with peerCopy := (keysFrom (128 * line) 128).foldl (fun m k => FMap.ins m (copyKey d k) (t.farByte d k)) t.peerCopy }

/-- One lane of a prefetch (R262). -/
def State.prefetch (s : State) (x : Ctx) (l1 : Bool) (va : W64) : State :=
  let r := s.translate x.die (some x.core) x.w.tag x.w.supervisor .load va
  match r.2 with
  | .ok k =>
    match r.1.reach x.die (lineOf k), homeOf k with
    | .ok, .here => if l1 then r.1.fillLine x.core (lineOf k) else r.1
    | .ok, .member _ => r.1.fillPeerCopy x.die (lineOf k)
    | _, _ => r.1
  | _ => r.1

/-- `pf` (R262). -/
def execPf (f : F) (s : State) : Host.Outcome State Fault Refusal :=
  issue (.pf f) s fun x s => ((lanesOf x.act).foldl (fun (s : State) l => s.prefetch x true (x.addr l)) s).advance x

/-- `pf.l2` (R262). A clean copy in the home L2 is no state of its own: it holds what DRAM holds. -/
def execPfL2 (f : F) (s : State) : Host.Outcome State Fault Refusal :=
  issue (.pfL2 f) s fun x s => ((lanesOf x.act).foldl (fun (s : State) l => s.prefetch x false (x.addr l)) s).advance x

/-- The write of `lineclr` at a line (R254). -/
def State.clearLine (s : State) (x : Ctx) (line : Nat) : State :=
  let zeros := List.replicate 128 (0 : W8)
  let s := s.drainWcb x.core fun e => e.line == line
  let s := ((s.performStore x.key (128 * line) zeros).setPoison line false).putL1 x.core (128 * line) zeros
  s.sigAdd x.key line

/-- `lineclr` (R254). -/
def execLineclr (f : F) (s : State) : Host.Outcome State Fault Refusal :=
  issue (.lineclr f) s fun x s =>
    let va := x.src false false x.f.a 0
    let fi : Fi := { code := .prot, addr := va, kind := .store }
    if va.toNat % 128 ≠ 0 then s.raise x { fi with code := .misalign }
    else if rowOf va ≠ .global then s.raise x fi
    else
      let r := s.translate x.die (some x.core) x.w.tag x.w.supervisor (if x.w.supervisor then .none else .store) va
      match r.2 with
      | .prot => r.1.raise x fi
      | .hold l => r.1.stallAt x (.reserved l) (.lineclr f)
      | .page _ acc => r.1.raise x { fi with code := .page, pages := [(0, va, acc)] }
      | .ok k =>
        if homeOf k = .host then r.1.raise x fi
        else match r.1.shut x.die (lineOf k) with
          | some why => r.1.stallAt x why (.lineclr f)
          | none => (r.1.clearLine x (lineOf k)).advance x

end Sys2Proof.Machine
end

