-- ==== Sys2Proof/Machine/FpForms.lean ====
section
/-! DEFINITION. Floating-point forms (R229 to R235). -/
namespace Sys2Proof.Machine

/-- Element format of a group (R229). -/
def fpFmt : FpK → Fmt
  | .sF32 | .vF32 => .f32 | .sF64 | .vF64 => .f64 | .vF16x2 => .f16 | .vBf16x2 => .bf16

/-- The random value of an element of a lane (R231). -/
def Ctx.rndBits (x : Ctx) (c : Cls) (l e : Nat) : Nat :=
  match c with
  | .s => (x.w.sreg x.f.rnd.toNat).toNat % 2 ^ 16
  | .v => (x.w.vreg x.f.rnd.toNat l).toNat / 2 ^ (16 * e) % 2 ^ 16

/-- What a stem computes from its element format, rounding mode, random value, FTZ, and the values of A, B and C (R233). -/
abbrev FpFn := Fmt → Rm → Nat → Bool → Fv → Fv → Fv → Nat × Option Flag

/-- The value of element e of an operand at a lane, with FTZ applied (R230, R232). -/
def Ctx.fpElem (x : Ctx) (k : FpK) (o : Src) (l e : Nat) : Fv :=
  flushIn (fpFmt k) x.w.ftz (valueOf (fpFmt k) ((x.src false (Forms.fpWide k) o l).toNat / 2 ^ (16 * e) % 2 ^ (fpFmt k).width))

/-- A stem at an element of a lane (R232). -/
def Ctx.fpOne (x : Ctx) (k : FpK) (r : Rc) (fn : FpFn) (l e : Nat) : Nat × Option Flag :=
  fn (fpFmt k) (x.w.rmOf r) (x.rndBits (Forms.fpCls k) l e) x.w.ftz (x.fpElem k x.f.a l e) (x.fpElem k x.f.b l e) (x.fpElem k x.f.c l e)

/-- A stem at a lane: one element, or two in a packed form (R230). -/
def Ctx.fpVal (x : Ctx) (k : FpK) (r : Rc) (fn : FpFn) (l : Nat) : Val :=
  let q := x.fpOne k r fn l 0
  if Forms.fpPacked k then
    let q2 := x.fpOne k r fn l 1
    (BitVec.ofNat 64 (q.1 + 2 ^ 16 * q2.1), match q.2 with | some g => some g | none => q2.2)
  else (BitVec.ofNat 64 q.1, q.2)

/-- The effect of a floating-point form (R232). -/
def State.fpForm (s : State) (x : Ctx) (k : FpK) (r : Rc) (fn : FpFn) : State :=
  s.typed x (Forms.fpCls k) (Forms.fpWide k) fun x l => x.fpVal k r fn l

/-- A form whose result is one 32-bit register or one mask bit (R234, R235). -/
def State.fpTest (s : State) (x : Ctx) (k : FpK) (fn : FpFn) : State :=
  s.typed x (Forms.fpCls k) false fun x l => x.fpVal k .rne fn l

/-- An exact result that still passes the output treatment of FTZ and NaN (R232, R233). -/
def exactFn (g : Fv → Fv → Fv × Bool) : FpFn := fun f _ u ftz a b _ => roundOp f .rne u ftz (g a b)

/-- A compare; a signalling NaN sets FPX, and FPX alone (R235). -/
def fpCmpFn (lt eq gt un : Bool) : FpFn := fun _ _ _ _ a b _ =>
  let r : Bool :=
    if a.isNan || b.isNan then un
    else if fvLt a b then lt else if fvLt b a then gt else eq
  (if r then 1 else 0, if a.isSnan || b.isSnan then some .fpx else none)

/-- A special function of an element (R159, R233). -/
def Ctx.specialVal (x : Ctx) (k : FpK) (fn : Special) (l : Nat) : Val :=
  let b := (x.src false (Forms.fpWide k) x.f.a l).toNat
  if Forms.fpPacked k then
    let q := specialPacked fn (fpFmt k) (b % 2 ^ 16)
    let q2 := specialPacked fn (fpFmt k) (b / 2 ^ 16 % 2 ^ 16)
    (BitVec.ofNat 64 (q.1 + 2 ^ 16 * q2.1), match q.2 with | some g => some g | none => q2.2)
  else
    let q := specialOf fn (fpFmt k) x.w.ftz (b % 2 ^ (fpFmt k).width)
    (BitVec.ofNat 64 q.1, q.2)

/-- The effect of a special function (R232, R233). -/
def State.specialForm (s : State) (x : Ctx) (k : FpK) (fn : Special) : State :=
  s.typed x (Forms.fpCls k) (Forms.fpWide k) fun x l => x.specialVal k fn l

/-- `add` (R233). -/
def execFpAdd (k : FpK) (r : Rc) (f : F) (s : State) : Host.Outcome State Fault Refusal :=
  issue (.fpAdd k r f) s fun x s => s.fpForm x k r fun f rm u z a b _ => roundOp f rm u z (fvAdd a b rm)

/-- `sub` (R233). -/
def execFpSub (k : FpK) (r : Rc) (f : F) (s : State) : Host.Outcome State Fault Refusal :=
  issue (.fpSub k r f) s fun x s => s.fpForm x k r fun f rm u z a b _ => roundOp f rm u z (fvAdd a b.negate rm)

/-- `mul` (R233). -/
def execFpMul (k : FpK) (r : Rc) (f : F) (s : State) : Host.Outcome State Fault Refusal :=
  issue (.fpMul k r f) s fun x s => s.fpForm x k r fun f rm u z a b _ => roundOp f rm u z (fvMul a b)

/-- `fma`, rounded once (R233). -/
def execFpFma (k : FpK) (r : Rc) (f : F) (s : State) : Host.Outcome State Fault Refusal :=
  issue (.fpFma k r f) s fun x s => s.fpForm x k r fun f rm u z a b c => roundOp f rm u z (fvFma a b c rm)

/-- `min` (R162, R233). -/
def execFpMin (k : FpK) (f : F) (s : State) : Host.Outcome State Fault Refusal :=
  issue (.fpMin k f) s fun x s => s.fpForm x k .rne (exactFn fvMin)

/-- `max` (R162, R233). -/
def execFpMax (k : FpK) (f : F) (s : State) : Host.Outcome State Fault Refusal :=
  issue (.fpMax k f) s fun x s => s.fpForm x k .rne (exactFn fvMax)

/-- `abs` (R233). -/
def execFpAbs (k : FpK) (f : F) (s : State) : Host.Outcome State Fault Refusal :=
  issue (.fpAbs k f) s fun x s => s.fpForm x k .rne (exactFn fun a _ => (a.absolute, false))

/-- `neg` (R233). -/
def execFpNeg (k : FpK) (f : F) (s : State) : Host.Outcome State Fault Refusal :=
  issue (.fpNeg k f) s fun x s => s.fpForm x k .rne (exactFn fun a _ => (a.negate, false))

/-- `sqrt`, correctly rounded (R159, R233). -/
def execFpSqrt (k : FpK) (r : Rc) (f : F) (s : State) : Host.Outcome State Fault Refusal :=
  issue (.fpSqrt k r f) s fun x s => s.fpForm x k r fun f rm u z a _ _ => fvSqrt f rm u z a

/-- `rcp` (R159, R160). -/
def execFpRcp (k : FpK) (f : F) (s : State) : Host.Outcome State Fault Refusal :=
  issue (.fpRcp k f) s fun x s => s.specialForm x k .rcp

/-- `rsqrt` (R159, R160). -/
def execFpRsqrt (k : FpK) (f : F) (s : State) : Host.Outcome State Fault Refusal :=
  issue (.fpRsqrt k f) s fun x s => s.specialForm x k .rsqrt

/-- `exp2` (R159, R160). -/
def execFpExp2 (k : FpK) (f : F) (s : State) : Host.Outcome State Fault Refusal :=
  issue (.fpExp2 k f) s fun x s => s.specialForm x k .exp2

/-- `log2` (R159, R160). -/
def execFpLog2 (k : FpK) (f : F) (s : State) : Host.Outcome State Fault Refusal :=
  issue (.fpLog2 k f) s fun x s => s.specialForm x k .log2

/-- `sin` (R159, R160). -/
def execFpSin (k : FpK) (f : F) (s : State) : Host.Outcome State Fault Refusal :=
  issue (.fpSin k f) s fun x s => s.specialForm x k .sin

/-- `cos` (R159, R160). -/
def execFpCos (k : FpK) (f : F) (s : State) : Host.Outcome State Fault Refusal :=
  issue (.fpCos k f) s fun x s => s.specialForm x k .cos

/-- `class` (R234). -/
def execFpClass (k : FpK) (f : F) (s : State) : Host.Outcome State Fault Refusal :=
  issue (.fpClass k f) s fun x s => s.fpTest x k fun f _ _ _ a _ _ => (2 ^ classOf f a, none)

/-- Compare `eq` (R235). -/
def execFpCmpEq (k : FpK) (f : F) (s : State) : Host.Outcome State Fault Refusal :=
  issue (.fpCmpEq k f) s fun x s => s.fpTest x k (fpCmpFn false true false false)

/-- Compare `ne` (R235). -/
def execFpCmpNe (k : FpK) (f : F) (s : State) : Host.Outcome State Fault Refusal :=
  issue (.fpCmpNe k f) s fun x s => s.fpTest x k (fpCmpFn true false true true)

/-- Compare `lt` (R235). -/
def execFpCmpLt (k : FpK) (f : F) (s : State) : Host.Outcome State Fault Refusal :=
  issue (.fpCmpLt k f) s fun x s => s.fpTest x k (fpCmpFn true false false false)

/-- Compare `le` (R235). -/
def execFpCmpLe (k : FpK) (f : F) (s : State) : Host.Outcome State Fault Refusal :=
  issue (.fpCmpLe k f) s fun x s => s.fpTest x k (fpCmpFn true true false false)

/-- Compare `gt` (R235). -/
def execFpCmpGt (k : FpK) (f : F) (s : State) : Host.Outcome State Fault Refusal :=
  issue (.fpCmpGt k f) s fun x s => s.fpTest x k (fpCmpFn false false true false)

/-- Compare `ge` (R235). -/
def execFpCmpGe (k : FpK) (f : F) (s : State) : Host.Outcome State Fault Refusal :=
  issue (.fpCmpGe k f) s fun x s => s.fpTest x k (fpCmpFn false true true false)

/-- Compare `un` (R235). -/
def execFpCmpUn (k : FpK) (f : F) (s : State) : Host.Outcome State Fault Refusal :=
  issue (.fpCmpUn k f) s fun x s => s.fpTest x k (fpCmpFn false false false true)

end Sys2Proof.Machine
end

