-- ==== Sys2Proof/Machine/Atomics.lean ====
section
/-! DEFINITION. Atomics (R109, R257 to R259): the new value, one lane's performance, and the forms. -/
namespace Sys2Proof.Machine

/-- The new value of an integer atomic from its old value, B and C, as n-bit patterns; nothing where `cas` writes nothing
(R258). -/
abbrev Amo := Nat → Bool → Nat → Nat → Nat → Option Nat

def amoAdd : Amo := fun n _ o b _ => some ((o + b) % 2 ^ n)
def amoMin : Amo := fun n sg o b _ => some (if numOf sg n o ≤ numOf sg n b then o else b)
def amoMax : Amo := fun n sg o b _ => some (if numOf sg n o ≤ numOf sg n b then b else o)
def amoAnd : Amo := fun _ _ o b _ => some (o &&& b)
def amoOr : Amo := fun _ _ o b _ => some (o ||| b)
def amoXor : Amo := fun _ _ o b _ => some (o ^^^ b)
def amoXchg : Amo := fun _ _ _ b _ => some b
def amoCas : Amo := fun _ _ o b c => if o = b then some c else none

/-- The integer operation of a number (R258). -/
def amoOf : Nat → Amo
  | 0 => amoAdd | 1 => amoMin | 2 => amoMax | 3 => amoAnd | 4 => amoOr | 5 => amoXor | 6 => amoXchg | _ => amoCas

/-- Type of an integer atomic: signedness and width (R185). -/
def atSigned : AtTy → Bool | .i32 | .i64 => true | _ => false
def atBits (t : AtTy) : Nat := if Forms.atWide t then 64 else 32

/-- One element of `fadd` (R258). -/
def faddElem (f : Fmt) (o b : Nat) : Nat := (roundOp f .rne 0 false (fvAdd (valueOf f o) (valueOf f b) .rne)).1

/-- `fadd` of a type (R258). -/
def faddOf (t : FaTy) (o b : Nat) : Nat :=
  match t with
  | .f32 => faddElem .f32 o b
  | .f64 => faddElem .f64 o b
  | .bf16x2 => faddElem .bf16 (o % 65536) (b % 65536) + 65536 * faddElem .bf16 (o / 65536) (b / 65536)

/-- The orders of an atomic: signature and floor of its release part, which the wave held when the release began (R250). -/
structure Amw where
  rel : Bool
  acq : Bool
  sig : Sig
  floor : Nat
  deriving DecidableEq, Repr

/-- One lane's atomic of the global space: indivisible at the home, the acquire part before the release part (R116, R117, R259). -/
def State.atomGlobal (s : State) (x : Ctx) (q : Acc) (m : Amw) (va : W64) (new : Nat → Option Nat) : Lane :=
  s.withKeys x .atomic va q.n fun s ps =>
    match s.reachAll x.die (piecesKeys ps), ps with
    | (.hold why, _), _ => .wait s why
    | (.dead, k), _ => .mark s .remdead 0 (s.incAt x.die k) []
    | (.poison, k), _ => .mark s .poison (keyPa k) 0 []
    | (.ok, _), [] => .done s 0
    | (.ok, _), (k, _) :: _ =>
      let line := lineOf k
      let s := (s.drainOver x.core (keysFrom k q.n)).dropL1Line x.core line
      let o := s.homeNat k q.n
      let s := match new o with | some v => s.writeHome k (toBytes q.n v) | none => s
      let s := if m.acq then s.acqStep x.key q.scope line else s
      let s := if m.rel then
          if q.scope = 1 then s.teamRelease x.key m.sig m.floor else s.relSlot x.key q.scope m.sig m.floor line true
        else s
      .done (s.sigAdd x.key line) o

/-- One lane's atomic of own team memory (R125, R251, R259). -/
def State.atomTeam (s : State) (x : Ctx) (q : Acc) (m : Amw) (va : W64) (new : Nat → Option Nat) : Lane :=
  match x.teamOff va q.n, s.teams.fetch x.w.team with
  | some o, some t =>
    let old := ofBytes (t.bytes o q.n)
    let s := match new old with | some v => s.updTeam x.w.team fun t => t.putBytes o (toBytes q.n v) | none => s
    let s := if m.acq && q.scope != 0 then s.acqStep x.key 1 0 else s
    .done (if m.rel && q.scope != 0 then s.teamRelease x.key m.sig m.floor else s) old
  | _, _ => .mark s .prot 0 0 []

/-- An atomic form: `new` gives the new value of a lane from the old one, `ext` extends the old value for an s destination. -/
def State.atomForm (s : State) (x : Ctx) (n : Nat) (o : Ord) (i : Instr) (new : Nat → Nat → Option Nat) (ext : Nat → W64) : State :=
  let q : Acc := { n := n, use := .atomic, scope := if o == .plain then 0 else x.f.sc.toNat }
  let put := fun (s : State) (l v : Nat) => s.putResult x (n == 8) l (if x.f.d.file == .s then ext v else BitVec.ofNat 64 v)
  let lanes := fun (s : State) (m : Amw) =>
    s.runLanes x q i (fun s l =>
      let va := x.addr l
      if rowOf va = .team then s.atomTeam x q m va (new l) else s.atomGlobal x q m va (new l)) put x.todo
  s.memForm x q fun s =>
    if ordRel o then s.release x q.scope .atomic i fun s sig fl => lanes s ⟨true, ordAcq o && q.scope != 0, sig, fl⟩
    else lanes s ⟨false, ordAcq o && q.scope != 0, 0, 6⟩

/-- An integer atomic (R258, R259). -/
def State.atomInt (s : State) (x : Ctx) (t : AtTy) (o : Ord) (i : Instr) (op : Amo) : State :=
  let n := atBits t
  let low := fun (v : W64) => v.toNat % 2 ^ n
  s.atomForm x (n / 8) o i
    (fun l old => op n (atSigned t) old (low (x.src true (n == 64) x.f.b l)) (low (x.src true (n == 64) x.f.c l)))
    (fun v => if n = 32 && atSigned t then (BitVec.ofNat 32 v).signExtend 64 else BitVec.ofNat 64 v)

/-- `atom.add` (R258). -/
def execAtomAdd (t : AtTy) (o : Ord) (f : F) (s : State) : Host.Outcome State Fault Refusal :=
  issue (.atomAdd t o f) s fun x s => s.atomInt x t o (.atomAdd t o f) amoAdd

/-- `atom.min` (R258). -/
def execAtomMin (t : AtTy) (o : Ord) (f : F) (s : State) : Host.Outcome State Fault Refusal :=
  issue (.atomMin t o f) s fun x s => s.atomInt x t o (.atomMin t o f) amoMin

/-- `atom.max` (R258). -/
def execAtomMax (t : AtTy) (o : Ord) (f : F) (s : State) : Host.Outcome State Fault Refusal :=
  issue (.atomMax t o f) s fun x s => s.atomInt x t o (.atomMax t o f) amoMax

/-- `atom.and` (R258). -/
def execAtomAnd (t : AtTy) (o : Ord) (f : F) (s : State) : Host.Outcome State Fault Refusal :=
  issue (.atomAnd t o f) s fun x s => s.atomInt x t o (.atomAnd t o f) amoAnd

/-- `atom.or` (R258). -/
def execAtomOr (t : AtTy) (o : Ord) (f : F) (s : State) : Host.Outcome State Fault Refusal :=
  issue (.atomOr t o f) s fun x s => s.atomInt x t o (.atomOr t o f) amoOr

/-- `atom.xor` (R258). -/
def execAtomXor (t : AtTy) (o : Ord) (f : F) (s : State) : Host.Outcome State Fault Refusal :=
  issue (.atomXor t o f) s fun x s => s.atomInt x t o (.atomXor t o f) amoXor

/-- `atom.xchg` (R258). -/
def execAtomXchg (t : AtTy) (o : Ord) (f : F) (s : State) : Host.Outcome State Fault Refusal :=
  issue (.atomXchg t o f) s fun x s => s.atomInt x t o (.atomXchg t o f) amoXchg

/-- `atom.cas` (R258). -/
def execAtomCas (t : AtTy) (o : Ord) (f : F) (s : State) : Host.Outcome State Fault Refusal :=
  issue (.atomCas t o f) s fun x s => s.atomInt x t o (.atomCas t o f) amoCas

/-- `atom.fadd` (R258). -/
def execAtomFadd (t : FaTy) (o : Ord) (f : F) (s : State) : Host.Outcome State Fault Refusal :=
  issue (.atomFadd t o f) s fun x s =>
    let wide := t == .f64
    let n := if wide then 64 else 32
    s.atomForm x (n / 8) o (.atomFadd t o f)
      (fun l old => some (faddOf t old ((x.src true wide x.f.b l).toNat % 2 ^ n))) (fun v => BitVec.ofNat 64 v)

end Sys2Proof.Machine
end

