-- ==== Sys2Proof/Machine/Waits.lean ====
section
/-! DEFINITION. Join barriers (R277 to R279), address waits (R282) and rings (R283, R284): atomics and reads at the point of a
line, and the waits that look again. -/
namespace Sys2Proof.Machine

/-- A read of bytes of one line at their home after the wave's own accesses, with the first key (R95). The line's L1 copy goes, so
that no later load of the core returns an older value (R99, R106). -/
def State.readPoint (s : State) (x : Ctx) (kind : Kind) (va : W64) (n : Nat) : State × Nat × Read :=
  let r := s.waveKeys x kind va n
  match r.2 with
  | .fault fi => (r.1, 0, .fault fi)
  | .wait why => (r.1, 0, .wait why)
  | .keys ks =>
    match r.1.reachAll x.die ks with
    | (.ok, _) => let s := (r.1.drainOver x.core ks).dropL1Line x.core (lineOf (ks.headD 0)); (s, ks.headD 0, .bytes (s.homeBytes ks))
    | (.poison, k) => (r.1, 0, .fault { code := .poison, addr := va, kind := kind, pa := keyPa k })
    | (.dead, k) => (r.1, 0, .fault { code := .remdead, addr := va, kind := kind, inc := r.1.incAt x.die k })
    | (.hold why, _) => (r.1, 0, .wait why)

/-- A release by the wave at a line: its wait, its flush unless the home is the host, then its performances with the pair that
it carries (R116, R250, R252). -/
def State.releaseLine (s : State) (x : Ctx) (scope k : Nat) (i : Instr) (go : State → Sig → Nat → State) : State :=
  s.relBegin x scope i fun s =>
    let s := if 2 ≤ scope && homeOf k != .host then s.relFlush x.key scope else s
    match s.waves.fetch x.key with
    | some w => go s w.sigacc w.sigfl
    | none => s

/-- The release part of a home step with rmw = 1 (R116, R278). -/
def State.rmwRelease (s : State) (x : Ctx) (scope : Nat) (sig : Sig) (fl k : Nat) : State :=
  let s := if scope = 1 then s.teamRelease x.key sig fl else s.relSlot x.key scope sig fl (lineOf k) true
  s.sigAdd x.key (lineOf k)

/-- The limits of a record of 64 bytes in the global space (R278, R284). -/
def recordFault (va : W64) (kind : Kind) : Option Fi :=
  if va.toNat % 64 ≠ 0 then some { code := .misalign, addr := va, kind := kind }
  else if rowOf va ≠ .global then some { code := .prot, addr := va, kind := kind }
  else none

/-- An atomic form on a record: its faults, or its performances (R51, R278, R284). -/
def State.recordForm (s : State) (x : Ctx) (i : Instr) (go : State → Nat → State) : State :=
  let va := x.src false false x.f.a 0
  match recordFault va .atomic with
  | some fi => s.raise x fi
  | none =>
    let r := s.readPoint x .atomic va 64
    match r.2.2 with
    | .fault fi => r.1.raise x fi
    | .wait why => r.1.stallAt x why i
    | .bytes _ => go r.1 r.2.1

/-- `jarr` (R278). -/
def execJarr (f : F) (s : State) : Host.Outcome State Fault Refusal :=
  issue (.jarr f) s fun x s =>
    s.recordForm x (.jarr f) fun s k =>
      let p := x.src false false x.f.b 0 != 0
      s.releaseLine x f.sc.toNat k (.jarr f) fun s sig fl =>
        (x.performs.foldl (fun (s : State) _ => (s.barrierStep k p).rmwRelease x f.sc.toNat sig fl k) s).advance x

/-! ### Waits -/

/-- The member whose recovery holds a read back, if that is what it waits for (R425, R436). -/
def Stall.heldBy : Stall → Option Nat
  | .member m => some m
  | _ => Option.none

/-- One look of `jwait` at its barrier: STATUS is not 0, or the split waits on (R279). -/
def State.jwaitStep (s : State) (x : Ctx) (i : Instr) : State :=
  let va := x.src false false x.f.a 0
  let r := s.readPoint x .load va 64
  match r.2.2 with
  | .fault fi => r.1.raise x fi
  | .wait why => r.1.stallAt x (.word why.heldBy) i
  | .bytes bs =>
    if field bs 0x10 4 % 4 = 0 then r.1.stallAt x (.word none) i
    else
      let s := r.1.acqStep x.key x.f.sc.toNat (lineOf r.2.1)
      let v := BitVec.ofNat 64 (field bs 8 8)
      (match x.f.d.file with
        | .none => s
        | .s => s.writeS x v
        | _ => s.writeV x true x.act fun _ => v).advance x

/-- `jwait` (R279). -/
def execJwait (f : F) (s : State) : Host.Outcome State Fault Refusal :=
  issue (.jwait f) s fun x s =>
    match recordFault (x.src false false x.f.a 0) .load with
    | some fi => s.raise x fi
    | none => s.jwaitStep x (.jwait f)

/-- What an address wait reads: the word, with the acquire that a satisfied wait makes; or a fault, or what it waits for. -/
inductive Look where
  | word (v : W32) (s acquired : State)
  | fault (s : State) (fi : Fi)
  | wait (s : State) (m : Option Nat)
  deriving DecidableEq, Repr

/-- The read of an address wait, never of an L1 copy (R95, R131, R282). -/
def State.lookWord (s : State) (x : Ctx) (scope : Nat) (va : W64) : Look :=
  let ofLane := fun (free acq : Lane) =>
    match free, acq with
    | .done s v, .done t _ => Look.word (BitVec.ofNat 32 v) s t
    | .wait s _, _ => .wait s none
    | _, _ => .fault s { code := .prot, addr := va, kind := .load }
  match rowOf va with
  | .global =>
    let r := s.readPoint x .load va 4
    match r.2.2 with
    | .fault fi => .fault r.1 fi
    | .wait why => .wait r.1 why.heldBy
    | .bytes bs => .word (BitVec.ofNat 32 (ofBytes bs)) r.1 (r.1.acqStep x.key scope (lineOf r.2.1))
  | .team => ofLane (s.loadTeam' x { n := 4, use := .load } va) (s.loadTeam' x { n := 4, use := .load, scope := scope } va)
  | .window => ofLane (s.loadWindow' x { n := 4, use := .load } va) (s.loadWindow' x { n := 4, use := .load, scope := scope } va)
  | _ => .fault s { code := .prot, addr := va, kind := .load }

/-- One look of an address wait at its word (R282). -/
def State.awaitStep (s : State) (x : Ctx) (o : Ord) (eq : Bool) (i : Instr) : State :=
  let b := (x.src true false x.f.b 0).truncate 32
  match s.lookWord x (if o == .acq then x.f.sc.toNat else 0) (x.addr 0) with
  | .fault s fi => s.raise x fi
  | .wait s m => s.stallAt x (.word m) i
  | .word v s t => if (v == b) == eq then t.advance x else s.stallAt x (.word none) i

/-- An address wait at issue (R282). -/
def State.awaitForm (s : State) (x : Ctx) (o : Ord) (eq : Bool) (i : Instr) : State :=
  if (x.addr 0).toNat % 4 ≠ 0 then s.raise x { code := .misalign, addr := x.addr 0, kind := .load }
  else s.awaitStep x o eq i

/-- `await.eq` (R282). -/
def execAwaitEq (o : Ord) (f : F) (s : State) : Host.Outcome State Fault Refusal :=
  issue (.awaitEq o f) s fun x s => s.awaitForm x o true (.awaitEq o f)

/-- `await.ne` (R282). -/
def execAwaitNe (o : Ord) (f : F) (s : State) : Host.Outcome State Fault Refusal :=
  issue (.awaitNe o f) s fun x s => s.awaitForm x o false (.awaitNe o f)

/-- WAIT_REREAD (R279, R282): a waiting split looks again. -/
def execWaitReread (w : WRef) (e : Nat) (s : State) : Host.Outcome State Fault Refusal :=
  .next (match (s.waves.fetch (wkey w.core w.slot)).bind fun v => if v.halted then none else v.ex.splits.fetch e with
  | some { stall := .word _, form := some i, .. } =>
    let go := fun (f : F) (k : Ctx → State) => match s.ctxAt w.core w.slot e f with | some x => k x | none => s
    (match i with
      | .jwait f => go f fun x => s.jwaitStep x i
      | .awaitEq o f => go f fun x => s.awaitStep x o true i
      | .awaitNe o f => go f fun x => s.awaitStep x o false i
      | _ => s)
  | _ => s)

/-! ### Rings -/

/-- A descriptor that the ring forms reject (R284). -/
def ringBad (bs : List W8) : Bool :=
  let n := field bs 8 1
  n = 0 || 16 < n || !zeros bs 9 7 || !zeros bs 0x34 12

/-- Sets a bit of ERR (R283). -/
def State.ringErr (s : State) (k : Nat) (bs : List W8) (b : Nat) : State := s.writeHome (k + 0x30) (toBytes 4 (field bs 0x30 4 ||| b))

/-- `qres` at the home: the index, all ones when there is none (R284). -/
def State.ringReserve (s : State) (k : Nat) (bs : List W8) : State × W64 :=
  let resv := BitVec.ofNat 64 (field bs 0x10 8)
  let publ := BitVec.ofNat 64 (field bs 0x18 8)
  let take := BitVec.ofNat 64 (field bs 0x20 8)
  if ringBad bs then (s.ringErr k bs 2, -1)
  else if (resv - take).toNat < 2 ^ field bs 8 1 ∧ (resv - publ).toNat < 64 then
    (s.writeHome (k + 0x10) (toBytes 8 (resv + 1).toNat), resv)
  else (s, -1)

/-- The shift of PWIN over its published prefix: PUBL and PWIN (R284). -/
def publish : Nat → W64 → W64 → W64 × W64
  | 0, publ, pwin => (publ, pwin)
  | n + 1, publ, pwin => if bit pwin 0 then publish n (publ + 1) (pwin >>> 1) else (publ, pwin)

/-- `qpub` at the home (R284). -/
def State.ringPublish (s : State) (k : Nat) (bs : List W8) (i : W64) : State :=
  let resv := field bs 0x10 8
  let publ := field bs 0x18 8
  let pwin := BitVec.ofNat 64 (field bs 0x28 8)
  if ringBad bs then s.ringErr k bs 2
  else if publ ≤ i.toNat ∧ i.toNat < resv ∧ i.toNat - publ < 64 ∧ bit pwin (i.toNat - publ) = false then
    let r := publish 64 (BitVec.ofNat 64 publ) (pwin ||| BitVec.ofNat 64 (2 ^ (i.toNat - publ)))
    (s.writeHome (k + 0x18) (toBytes 8 r.1.toNat)).writeHome (k + 0x28) (toBytes 8 r.2.toNat)
  else s.ringErr k bs 1

/-- `qtake` at the home (R284). -/
def State.ringTake (s : State) (k : Nat) (bs : List W8) : State × W64 :=
  let publ := field bs 0x18 8
  let take := field bs 0x20 8
  if ringBad bs then (s.ringErr k bs 2, -1)
  else if take < publ then (s.writeHome (k + 0x20) (toBytes 8 (take + 1)), BitVec.ofNat 64 take)
  else (s, -1)

/-- Writes the result of one performance of a ring form (R51, R284). -/
def State.ringResult (s : State) (x : Ctx) (l : Nat) (v : W64) : State :=
  match x.f.d.file with
  | .s => s.writeS x v
  | _ => s.writeV x true (if x.conv then x.act else laneBit l) fun _ => v

/-- `qres` (R284). -/
def execQres (f : F) (s : State) : Host.Outcome State Fault Refusal :=
  issue (.qres f) s fun x s =>
    s.recordForm x (.qres f) fun s k =>
      (x.performs.foldl (fun (s : State) l =>
        let r := s.ringReserve k (s.homeBytes (keysFrom k 64))
        (r.1.ringResult x l r.2).sigAdd x.key (lineOf k)) s).advance x

/-- `qpub` (R284). -/
def execQpub (f : F) (s : State) : Host.Outcome State Fault Refusal :=
  issue (.qpub f) s fun x s =>
    s.recordForm x (.qpub f) fun s k =>
      let i := x.src false true x.f.b (lowLane x.act)
      s.releaseLine x 4 k (.qpub f) fun s sig fl =>
        (x.performs.foldl (fun (s : State) _ =>
          (s.ringPublish k (s.homeBytes (keysFrom k 64)) i).rmwRelease x 4 sig fl k) s).advance x

/-- `qtake` (R284). -/
def execQtake (f : F) (s : State) : Host.Outcome State Fault Refusal :=
  issue (.qtake f) s fun x s =>
    s.recordForm x (.qtake f) fun s k =>
      (x.performs.foldl (fun (s : State) l =>
        let r := s.ringTake k (s.homeBytes (keysFrom k 64))
        ((r.1.ringResult x l r.2).acqStep x.key 4 (lineOf k)).sigAdd x.key (lineOf k)) s).advance x

end Sys2Proof.Machine
end

