-- ==== Sys2Proof/Machine/Links.lean ====
section
/-! DEFINITION. The links: messages from peers (R432, R434, R459, R460), members and their recovery (R433, R435, R436, R461,
R462), the ports (R458, R466), and the control node's accesses (R455 to R457). -/
namespace Sys2Proof.Machine

/-! ### Messages -/

/-- A message is stale: its sender is not ALIVE, or its incarnation differs (R432). -/
def Die.stale (x : Die) (m inc : Nat) : Bool := (x.agent m).st != .alive || (x.agent m).inc != inc

/-- The line that a message names; nothing for one that names no line of this device. -/
def msgLine : LinkMsg → Option Nat
  | .loadReq pa _ | .store pa _ _ | .lineFlit pa _ _ | .atomic _ _ pa _ _ _ _ _ _ | .release pa _ _ _ _ | .acquire pa _ _
  | .arrival pa _ _ _ _ => some (lineOf pa)
  | .loadResp _ _ | .homeWrite _ _ | .flush _ => none

/-- The release part at the home of a message that carries a signature (R459, R460). The header names no core, and the slot's anchor
is core 0 of the sender (R115; DESIGN CHOICE, log entry 38). -/
def State.remoteRelease (s : State) (m pa : Nat) (rmw : Bool) (sig : Sig) (floor scope : Nat) : State :=
  if scope < 5 then s else s.slotRelease (lineOf pa) rmw sig floor scope m 0

/-- Signature and floor of an answer at a scope (R459): a message carries them at scopes 5 and 6 alone. -/
def answerPair (scope : Nat) (q : Sig × Nat) : Sig × Nat := if scope < 5 then (0, 6) else q

def State.answer (s : State) (data : List W8) (sig : Sig := 0) (floor : Nat := 6) : State := { s with reply := ⟨false, data, sig, floor⟩ }
def State.refuse (s : State) : State := { s with reply := ⟨true, [], 0, 6⟩ }

/-- A whole-line write in flits (R434): the first reserves the line, the last performs the write. -/
def State.lineFlit (s : State) (m pa k : Nat) (data : List W8) : State :=
  let line := lineOf pa
  let had := (s.reserved.fetch line).map (fun r => r.2)
  if data.length ≠ 32 ∨ (had.getD []).length ≠ 32 * k then s
  else
    let bs := had.getD [] ++ data
    if k < 3 then { s with reserved := s.reserved.ins line (m, bs) }
    else ({ s with reserved := s.reserved.del line }.writeHere (128 * line) bs).answer []

/-- An atomic of a peer (R460). -/
def State.remoteAtomic (s : State) (m op : Nat) (ty : AtTy) (pa : Nat) (b c : W64) (sig : Sig) (floor rel acq : Nat) : State :=
  let fa := if op = 8 then FaTy.f32 else if op = 9 then .f64 else .bf16x2
  let n := if op < 8 then atBits ty else if op = 9 then 64 else 32
  let o := s.homeNat pa (n / 8)
  let low := fun (v : W64) => v.toNat % 2 ^ n
  let new := if op < 8 then amoOf op n (atSigned ty) o (low b) (low c) else some (faddOf fa o (low b))
  let q := answerPair acq (s.slotAcquire (lineOf pa))
  let s := match new with | some v => s.writeHere pa (toBytes (n / 8) v) | none => s
  (s.remoteRelease m pa true sig floor rel).answer (toBytes (n / 8) o) q.1 q.2

/-- The bytes of a message that its mask selects, with their keys (R459). -/
def masked (pa : Nat) (data : List W8) (mask : List Bool) : List (Nat × W8) :=
  (((keysFrom pa data.length).zip data).zip mask).filterMap fun p => if p.2 then some p.1 else none

/-- A value that a member's home holds now (R95, R97, R460): where it differs from what was known of the home, another party has
written it, so no copy of the line is left on this device and what the slot there holds is open. -/
def State.homeHolds (s : State) (m pa : Nat) (data : List W8) : State :=
  let ks := keysFrom (memberKey m pa) data.length
  if s.homeBytes ks = data then s
  else
    let ls := (ks.map lineOf).dedup
    let s := ls.foldl (fun (s : State) l => s.dropPeerCopies l) s
    { s with peerMem := (ks.zip data).foldl (fun f p => FMap.ins f p.1 p.2) s.peerMem
             peerSlots := ls.foldl (fun f l => FMap.del f l) s.peerSlots }

/-- A die's L2 takes bytes of a member's line (R97). -/
def State.takeCopy (s : State) (d m pa : Nat) (data : List W8) : State :=
  let ks := keysFrom (memberKey m pa) data.length
  let s := (ks.map lineOf).dedup.foldl (fun (s : State) l => s.fitL2 d l) s
  { s with peerCopy := (ks.zip data).foldl (fun f p => FMap.ins f (copyKey d p.1) p.2) s.peerCopy }

/-- Performs a message at a line that is not reserved, or that its sender has reserved (R434, R437, R460). -/
def State.perform (s : State) (d m : Nat) (msg : LinkMsg) : State :=
  let bad := fun (pa n : Nat) => decide (memTop < pa + n)
  let poisoned := fun (pa : Nat) => s.poisoned (lineOf pa)
  match msg with
  | .loadReq pa n =>
    if bad pa n || poisoned pa then s.refuse
    else
      let who := (s.dirCopy.fetch (lineOf pa)).getD []
      ({ s with dirCopy := s.dirCopy.ins (lineOf pa) (if who.contains m then who else m :: who) } : State).answer (s.homeBytes (keysFrom pa n))
  | .store pa data mask =>
    if bad pa data.length then s.refuse
    else ((masked pa data mask).foldl (fun (s : State) p => s.writeHere p.1 [p.2]) s).answer []
  | .lineFlit pa k data => if bad pa 128 then s.refuse else s.lineFlit m pa k data
  | .atomic op ty pa b c sig floor rel acq =>
    if bad pa 8 || poisoned pa then s.refuse else s.remoteAtomic m op ty pa b c sig floor rel acq
  | .release pa data sig floor scope =>
    if bad pa data.length then s.refuse else ((s.writeHere pa data).remoteRelease m pa false sig floor scope).answer []
  | .acquire pa n scope =>
    if bad pa n || poisoned pa then s.refuse
    else let q := answerPair scope (s.slotAcquire (lineOf pa)); s.answer (s.homeBytes (keysFrom pa n)) q.1 q.2
  | .arrival pa p sig floor scope =>
    if bad pa 64 || poisoned pa then s.refuse else ((s.barrierStep pa p).remoteRelease m pa true sig floor scope).answer []
  | .loadResp pa data => (s.homeHolds m pa data).takeCopy d m pa data
  | .homeWrite pa data =>
    let ls := ((keysFrom (memberKey m pa) data.length).map lineOf).dedup
    ls.foldl (fun (s : State) l => s.dropPeerCopies l) (s.homeHolds m pa data)
  | .flush scope => if scope < 5 then s else s.flushL1 (flushRegion scope 0)

/-- The message may be performed now: its line is free, or its sender's own flit continues the write that reserved it (R434). -/
def State.msgFree (s : State) (m : Nat) (msg : LinkMsg) : Bool :=
  match (msgLine msg).bind fun l => s.reserved.fetch l with
  | none => true
  | some r => r.1 == m && (match msg with | .lineFlit _ k _ => k != 0 | _ => false)

/-! ### Accesses of the control node (R455, R456) -/

/-- A physical address and size that the control node may use (R455). -/
def hostSizeOk (addr n : Nat) : Bool := (n == 4 || n == 8 || n == 64) && addr % n == 0 && decide (addr + n ≤ memTop)

/-- A host access to the device's memory, once its line is free. A read of a poisoned line draws an error response. -/
def State.hostMem' (s : State) (addr n : Nat) (data : Option (List W8)) : State :=
  match data with
  | some bs => (s.writeHere addr bs).answer []
  | none => if s.poisoned (lineOf addr) then s.refuse else s.answer (s.homeBytes (keysFrom addr n))

/-- A host access to a block of the supervisor window (R455), after what a release does first, unless nothing is performed. -/
def State.hostBlock (s : State) (addr : W64) (n : Nat) (data : Option (List W8)) (first : State → State) : State :=
  match blockOf addr with
  | none => s.refuse
  | some (b, off) =>
    if !b.widthOk off n then s.refuse
    else match data with
      | some bs => ((first s).supWrite b off n (ofBytes bs)).answer []
      | none => s.answer (toBytes n (s.supRead b off n))

/-- A host request, an access or a release (R455, R456), that is not held. -/
def State.hostDo (s : State) (port : Nat) (addr : W64) (n : Nat) (data : Option (List W8)) (release : Bool) : State :=
  let flush := fun (s : State) => if release then s.scopeFlush 4 s.myMember (dieAnchor port) else s
  if data.any fun bs => bs.length != n then s.refuse
  else if addr.toNat < memTop then
    if !hostSizeOk addr.toNat n || !bit (s.die port).bootst 2 then s.refuse
    else
      let s := (flush s).hostMem' addr.toNat n data
      if release then s.putSlot ⟨lineOf addr.toNat, 0, 4, 6, s.myMember, dieAnchor port⟩ else s
  else if rowOf addr = .supervisor then s.hostBlock addr n data flush
  else s.refuse

/-- A request of a port is held (R456). -/
def HeldReq.port : HeldReq → Option Nat
  | .msg _ _ _ => none
  | .host p _ _ _ | .hostRel p _ _ => some p

/-- The device address lies in a reserved line (R434). -/
def State.hostWaits (s : State) (addr : W64) : Bool := decide (addr.toNat < memTop) && s.isReserved (lineOf addr.toNat)

/-- Performs a request from outside, or holds it (R434, R456). -/
def State.request (s : State) (r : HeldReq) : State :=
  let hold : State := { s with linkq := s.linkq ++ [r] }
  match r with
  | .msg d m msg => if s.msgFree m msg then s.perform d m msg else hold
  | .host p a n data => if s.hostWaits a then hold else s.hostDo p a n data false
  | .hostRel p a data =>
    if s.hostWaits a || s.linkq.any (fun q => q.port == some p) then hold else s.hostDo p a data.length (some data) true

/-- Tries the held requests again, in order. -/
def State.retryLinks (s : State) : State :=
  s.linkq.foldl (fun (s : State) r => s.request r) { s with linkq := [] }

/-- SCALEUP_MESSAGE (R432): a stale message is counted and dropped; a device in no domain drops every message (R461). -/
def execScaleupMessage (die member inc : Nat) (msg : LinkMsg) (s : State) : Host.Outcome State Fault Refusal :=
  .next (
    let x := s.die die
    if x.stale member inc then
      let a := x.agent member
      s.updDie die fun x => x.setAgent member { a with drops := min (a.drops + 1) 0xFFFFFFFF }
    else if !bit x.myinc 24 then s
    else (s.request (.msg die member msg)).retryLinks)

/-- HOST_ACCESS (R455). -/
def execHostAccess (port : Nat) (addr : W64) (n : Nat) (data : Option (List W8)) (s : State) : Host.Outcome State Fault Refusal :=
  .next (s.request (.host port addr n data))

/-- HOST_RELEASE (R456). -/
def execHostRelease (port : Nat) (addr : W64) (data : List W8) (s : State) : Host.Outcome State Fault Refusal :=
  .next (s.request (.hostRel port addr data))

/-! ### Members -/

/-- A line is homed on a die of this device. -/
def homedOn (d line : Nat) : Bool := homeOf (128 * line) == .here && nearDie (stackOf (128 * line)) == d

/-- Drops a die's L2 copies of the lines of some members (R436, R461). -/
def State.dropMemberCopies (s : State) (d : Nat) (who : Nat → Bool) : State :=
  { s with peerCopy := s.peerCopy.dropKeys fun c => c % 2 == d && (match homeOf (c / 2) with | .member m => who m | _ => false) }

def State.setAgentSt (s : State) (d m : Nat) (f : Agent → Agent) : State := s.updDie d fun x => x.setAgent m (f (x.agent m))

/-- A LINK_FENCE record (R413, R433). -/
def State.fenceRecord (s : State) (d m cause : Nat) : State :=
  s.record d .drop { code := 0x30, source := 6, srcid := BitVec.ofNat 32 m, cause := cause, inc := ((s.die d).agent m).inc }

/-- A member becomes RECOVERING (R433, R436); the scrub follows. -/
def State.fenceMember (s : State) (d m cause : Nat) : State :=
  if ((s.die d).agent m).st ≠ .alive then s
  else
    let s := s.fenceRecord d m cause
    (s.setAgentSt d m fun a => { a with st := .recovering, since := s.cc, scrubbing := true }).dropMemberCopies d fun j => j == m

/-- The scrub of a die's directory for a fenced member (R435). -/
def State.scrub (s : State) (d m : Nat) : State :=
  let a := (s.die d).agent m
  if !a.scrubbing then s
  else
    let dir := s.dirCopy.map fun (p : Nat × List Nat) => if homedOn d p.1 then (p.1, p.2.filter fun j => j != m) else p
    let s := { s with dirCopy := dir.filter fun p => !p.2.isEmpty }
    let lines := (s.reserved.filter fun (p : Nat × Nat × List W8) => p.2.1 == m && homedOn d p.1).map fun p => p.1
    let s := lines.foldl (fun (s : State) l => { s.setPoison l true with reserved := s.reserved.del l }) s
    let s := { s with linkq := s.linkq.filter fun r => match r with | .msg e j _ => !(e == d && j == m) | _ => true }
    let hit := (s.die d).slots.flatMap fun (p : Nat × List SigSlot) => p.2.filter fun sl => sl.member == m
    let s := hit.foldl (fun (s : State) sl => s.evictSlot sl) s
    let s := s.updDie d fun x =>
      { x with slots := (x.slots.map fun (p : Nat × List SigSlot) => (p.1, p.2.filter fun sl => sl.member != m)).filter fun p => !p.2.isEmpty }
    let s := s.setAgentSt d m fun a => { a with scrubbing := false }
    (s.record d .overflow { code := 0x34, source := 7, srcid := BitVec.ofNat 32 m, cause := min lines.length 255, inc := a.inc }).retryLinks

/-- SCRUB (R435). -/
def execScrub (die m : Nat) (s : State) : Host.Outcome State Fault Refusal := .next (s.scrub die m)

/-- The acknowledgements that a member owed will not come (R255, R436). -/
def State.loseStores (s : State) (d : Nat) (who : Nat → Bool) : State :=
  { s with waves := s.waves.map fun (p : Nat × Wave) =>
      match if dieOf (p.1 / 64) == d then p.2.heldStores.find? who else none with
      | some m => (p.1, { p.2 with deadStore := some ((s.die d).agent m).inc, heldStores := p.2.heldStores.filter fun j => !who j })
      | none => p }

/-- Forms whose performance at a home is an atomic on one record (R278, R284). -/
def recordAtom : Instr → Option F
  | .jarr f | .qres f | .qpub f | .qtake f => some f
  | _ => none

/-- Atomics, lane by lane or single (R257). -/
def laneAtom : Instr → Option F
  | .atomAdd _ _ f | .atomMin _ _ f | .atomMax _ _ f | .atomAnd _ _ f | .atomOr _ _ f | .atomXor _ _ f | .atomXchg _ _ f
  | .atomCas _ _ f | .atomFadd _ _ f => some f
  | _ => none

/-- The lanes of an atomic whose home is a member. -/
def State.lanesOn (s : State) (x : Ctx) (m : Nat) : List Nat :=
  x.todo.filter fun l =>
    match (s.translate x.die (some x.core) x.w.tag x.w.supervisor .atomic (x.addr l)).2 with
    | .ok k => homeOf k == .member m
    | _ => false

/-- An unanswered atomic ends with REMDEAD when its member returns (R436). -/
def State.endAtom (s : State) (wk e m : Nat) : State :=
  match (s.waves.fetch wk).bind fun w => if w.halted then none else w.ex.splits.fetch e with
  | some { stall := .member j, form := some i, .. } =>
    let inc := ((s.die (dieOf (wk / 64))).agent m).inc
    if j ≠ m then s
    else match laneAtom i, recordAtom i with
      | some f, _ =>
        (match s.ctxAt (wk / 64) (wk % 64) e f with
          | some x => s.raise x { x.laneFault { n := 4, use := .atomic } .remdead (s.lanesOn x m) with inc := inc }
          | none => s)
      | none, some f =>
        (match s.ctxAt (wk / 64) (wk % 64) e f with
          | some x => s.raise x { code := .remdead, addr := x.src false false f.a 0, kind := .atomic, inc := inc }
          | none => s)
      | none, none => s
  | _ => s

/-- The requester actions when a member leaves RECOVERING (R436): its stores are lost, and on a return to ALIVE its atomics too. Of
several splits of a wave the one that holds the lowest lane takes its trap (R246). -/
def State.memberBack (s : State) (d m : Nat) (alive : Bool) : State :=
  let s := s.loseStores d fun j => j == m
  if alive then
    (s.waves.filter fun (p : Nat × Wave) => dieOf (p.1 / 64) == d).foldl (fun (s : State) p =>
      p.2.byLane.foldl (fun (s : State) q => s.endAtom p.1 q.1 m) s) s
  else s

/-- HEARTBEAT_SEND (R433): the device sends its heartbeat every 50 µs. -/
def State.sendHeartbeat (s : State) : State := s.updDie 0 fun x => { x with hbSent := s.cc }
def execHeartbeatSend (s : State) : Host.Outcome State Fault Refusal := .next s.sendHeartbeat

/-- HEARTBEAT (R433). -/
def execHeartbeat (die m : Nat) (s : State) : Host.Outcome State Fault Refusal :=
  .next (if ((s.die die).agent m).st = .alive then s.setAgentSt die m fun a => { a with since := s.cc } else s)

/-- A heartbeat period in cc, and a microsecond (R433, R410). -/
def hbPeriod : Nat := 125000
def usCc : Nat := 2500

/-- HBMISS periods have passed without a heartbeat of a member of the domain (R433, R410). -/
def State.missed (s : State) (d m : Nat) : Bool :=
  let x := s.die d
  bit x.myinc 24 && bits x.myinc 16 8 != m && decide (m < 144) && (x.agent m).st == .alive
    && decide ((x.agent m).since + hbPeriod * max 1 (bits x.hbmiss 0 8) ≤ s.cc)

/-- HEARTBEAT_MISS (R433). -/
def execHeartbeatMiss (die m : Nat) (s : State) : Host.Outcome State Fault Refusal :=
  .next (if s.missed die m then s.fenceMember die m 0 else s)

/-- FENCE (R433). -/
def execFence (die m : Nat) (s : State) : Host.Outcome State Fault Refusal := .next (s.fenceMember die m 1)

/-- A recovering member becomes DEAD (R433, R436). -/
def State.killMember (s : State) (d m cause : Nat) : State :=
  if ((s.die d).agent m).st ≠ .recovering then s
  else
    let s := (s.scrub d m).fenceRecord d m cause
    (s.setAgentSt d m fun a => { a with st := .dead }).memberBack d m false

/-- DEAD (R433). -/
def execDead (die m : Nat) (s : State) : Host.Outcome State Fault Refusal := .next (s.killMember die m 2)

/-- RECMAX has passed since a member was fenced (R433, R410). -/
def State.overdue (s : State) (d m : Nat) : Bool :=
  let x := s.die d
  (x.agent m).st == .recovering && x.recmax != 0 && decide ((x.agent m).since + usCc * x.recmax.toNat ≤ s.cc)

/-- RECMAX_EXPIRE (R433). -/
def execRecmaxExpire (die m : Nat) (s : State) : Host.Outcome State Fault Refusal :=
  .next (if s.overdue die m then s.killMember die m 3 else s)

/-- Every AGENT entry becomes ABSENT (R461). -/
def State.allAbsent (s : State) (d : Nat) : State :=
  (List.range 144).foldl (fun (s : State) m => (s.scrub d m).setAgentSt d m fun a => { st := .absent, inc := 0, drops := a.drops })
    (s.loseStores d fun _ => true)

/-- ASSIGN (R461). -/
def State.assign (s : State) (d m inc : Nat) : State :=
  if bit (s.die d).myinc 24 ∨ inc % 65536 = 0 ∨ 144 ≤ m then s
  else
    let s := (s.allAbsent d).setAgentSt d m fun a => { a with st := .alive, inc := inc % 65536, since := s.cc }
    s.updDie d fun x => { x with myinc := BitVec.ofNat 32 (inc % 65536 + 65536 * m + 2 ^ 24) }
def execAssign (die m inc : Nat) (s : State) : Host.Outcome State Fault Refusal := .next (s.assign die m inc)

/-- The device's own readmission at a die: it takes its incarnation, and starts with every L1 empty (R118, R433). -/
def State.rejoin (s : State) (d inc : Nat) : State :=
  (s.updDie d fun x => { x with myinc := (x.myinc &&& ~~~0xFFFF) ||| BitVec.ofNat 32 inc }).flushL1 (coresFrom (160 * d) 160 ++ sysCoresOf d)

/-- READMIT (R433, R461, R462). -/
def execReadmit (die m inc : Nat) (s : State) : Host.Outcome State Fault Refusal :=
  .next (
    let x := s.die die
    let a := x.agent m
    let inc := inc % 65536
    if !bit x.myinc 24 then s.assign die m inc
    else if a.inc = inc ∨ 144 ≤ m then s
    else
      let own := bits x.myinc 16 8 = m
      let s := if own then s.rejoin die inc else s
      if a.st = .alive then (if own then s.setAgentSt die m fun a => { a with inc := inc } else s)
      else
        let s := (s.scrub die m).setAgentSt die m fun a => { a with st := .alive, inc := inc, since := s.cc }
        if a.st = .recovering then s.memberBack die m true else s)

/-- LEAVE (R461). -/
def execLeave (die : Nat) (s : State) : Host.Outcome State Fault Refusal :=
  .next (((s.updDie die fun x => { x with myinc := x.myinc &&& ~~~0x1000000 }).allAbsent die).dropMemberCopies die fun _ => true)

/-! ### Ports -/

/-- A control port goes up or down: CPSTAT of both dies (R465). -/
def State.controlPort (s : State) (n : Nat) (up : Bool) : State :=
  let put := fun (v : W32) (b : W32) => if up then v ||| b else v &&& ~~~b
  (s.updDie n fun x => { x with cpstat := put x.cpstat 1 }).updDie (1 - n) fun x => { x with cpstat := put x.cpstat 2 }

/-- A LINK_PORT record (R413). -/
def State.portRecord (s : State) (d src : Nat) (up : Bool) : State :=
  s.record d .drop { code := 0x31, source := 6, srcid := BitVec.ofNat 32 src, cause := if up then 1 else 0 }

/-- LINK_PORT (R458, R465, R467): the traffic of a scale-up port takes the path of `portOrder` that is up. Scale-up port 0 to 17, or 128 + n for control port n. -/
def execLinkPort (port : Nat) (up : Bool) (s : State) : Host.Outcome State Fault Refusal :=
  .next (if port < 18 then
      let d := port / 9
      let v := FMap.at' (0 : W64) (s.die d).link (port % 9)
      if bit v 40 == up then s
      else
        (s.updDie d fun x => { x with link := FMap.put 0 x.link (port % 9) (v ^^^ 0x10000000000) }).portRecord d port up
    else if port = 128 ∨ port = 129 then
      let n := port - 128
      if bit (s.die n).cpstat 0 == up then s else (s.controlPort n up).portRecord n port up
    else s)

/-- LINK_LANE (R466, R467): the port runs on the lanes of a mask. -/
def execLinkLane (port : Nat) (mask : W8) (s : State) : Host.Outcome State Fault Refusal :=
  .next (if 18 ≤ port then s
    else
      let d := port / 9
      let v := FMap.at' (0 : W64) (s.die d).link (port % 9)
      let v := (v &&& ~~~(0xFF00000000 : W64)) ||| (mask.zeroExtend 64 <<< 32)
      (s.updDie d fun x => { x with link := FMap.put 0 x.link (port % 9) v }).record d .drop
        { code := 0x32, source := 6, srcid := BitVec.ofNat 32 port, cause := mask.toNat })

end Sys2Proof.Machine
end

