-- ==== Sys2Proof/Machine/Timers.lean ====
section
/-! DEFINITION. Events of the scheduling of waves and of the write-combining buffer: rotation (R48), melding (R49), the boost (R64),
the ends of `yield` and `wait` (R204, R205), and the drain of an entry that has stood for 1024 cc (R96). -/
namespace Sys2Proof.Machine

/-- Changes a wave if one stands there. -/
def State.updRef (s : State) (w : WRef) (f : Wave → Wave) : State := s.updWave (wkey w.core w.slot) f

/-- PARK_ROTATION (R48). A wave that stalls at a context form stands as it is until the form completes (R214). -/
def execParkRotation (w : WRef) (s : State) : Host.Outcome State Fault Refusal :=
  .next (s.updRef w fun v =>
    if 4096 ≤ v.ex.ptimer && v.hnd.isNone && !v.halted && !v.saving then { v with ex := v.ex.rotate } else v)

/-- A split that may meld: it stands between instructions, and none of its lanes is part of the way through one (R49). -/
def Wave.melds (v : Wave) (p : Split) : Bool := p.stall == .none && p.waitTo == 0 && (v.fcm &&& p.mask) == 0

/-- The state after a split takes in another split, or, for an entry above 3, the parked lanes at its PC (R49). CONV stays. -/
def Wave.meld (v : Wave) (e other : Nat) : Wave :=
  match v.ex.splits.fetch e with
  | none => v
  | some p =>
    if !v.melds p then v
    else if other < 4 then
      match v.ex.splits.fetch other with
      | none => v
      | some q =>
        if other = e ∨ q.pc ≠ p.pc ∨ !v.melds q then v
        else { v with ex := ({ v.ex with splits := (v.ex.splits.del other).upd e fun r => { r with mask := p.mask ||| q.mask } }).takeParked }
    else
      let m := v.ex.parkedAt p.pc
      if (v.fcm &&& m) != 0 || (lanesOf m).any fun l => (v.ex.pwait.fetch l).isSome then v
      else { v with ex := { (v.ex.unpark m) with splits := v.ex.splits.upd e fun r => { r with mask := p.mask ||| m } } }

/-- MELD (R49): a choice of the core's, which changes timing alone. -/
def execMeld (w : WRef) (e other : Nat) (s : State) : Host.Outcome State Fault Refusal := .next (s.updRef w fun v => v.meld e other)

/-- The boost of a wave that has been ready for 65536 cc without issuing (R64). -/
def Wave.boost (v : Wave) : Wave := if 65536 ≤ v.readyFor then { v with boosted := true } else v

/-- WAVE_BOOST (R64). -/
def execWaveBoost (w : WRef) (s : State) : Host.Outcome State Fault Refusal := .next (s.updRef w Wave.boost)

/-- YIELD_EXPIRE (R204): the sixteen cc have passed. -/
def execYieldExpire (w : WRef) (s : State) : Host.Outcome State Fault Refusal :=
  .next (s.updRef w fun v => if v.yieldTo < s.cc then { v with yieldTo := 0 } else v)

/-- The waits of a wave that have passed (R205). -/
def Wave.endWaits (v : Wave) (cc : Nat) : Wave :=
  { v with ex := { v.ex with splits := v.ex.splits.map fun (p : Nat × Split) => if p.2.waitTo < cc then (p.1, { p.2 with waitTo := 0 }) else p } }

/-- WAIT_EXPIRE (R205): the cc of a `wait` form have passed. -/
def execWaitExpire (w : WRef) (e : Nat) (s : State) : Host.Outcome State Fault Refusal :=
  .next (s.updRef w fun v =>
    { v with ex := { v.ex with splits := v.ex.splits.upd e fun p => if p.waitTo < s.cc then { p with waitTo := 0 } else p } })

/-- WCB_DRAIN (R96): an entry drains to its home within 1024 cc of its last write (log entry 21). -/
def execWcbDrain (core slot line : Nat) (s : State) : Host.Outcome State Fault Refusal :=
  .next (s.drainWcb core fun e => e.slot == slot && e.line == line && e.last + 1024 ≤ s.cc)

end Sys2Proof.Machine
end

