-- ==== Sys2Proof/Machine/Due.lean ====
section
/-! DEFINITION. The events that fall due at the start of a cc (log entry 1), each as a turn of the agenda. A turn asks for an event;
whether the event may act is tested where it acts, so that a turn for one that may not leaves the state as it is. -/
namespace Sys2Proof.Machine

def ev (l : List Instr) : List Turn := l.map Turn.event

/-- What a split waits for that an event ends (R274, R282, R286, R305). -/
def dueSplit (wk : Nat) (w : Wave) (e : Nat) (sp : Split) : List Instr :=
  match sp.stall with
  | .word _ => [.waitReread ⟨wk / 64, wk % 64⟩ e]
  | .kitty => [.spawnPush ⟨wk / 64, wk % 64⟩ e]
  | .bar b => [.barPhaseComplete w.team b]
  | _ => []

/-- What is due of a wave: its waits, rotation (R48), and records that are full (R56). -/
def dueWave (wk : Nat) (w : Wave) : List Instr :=
  if w.halted then []
  else
    (w.ex.splits.flatMap fun (p : Nat × Split) => dueSplit wk w p.1 p.2)
      ++ (if 4096 ≤ w.ex.ptimer then [.parkRotation ⟨wk / 64, wk % 64⟩] else [])
      ++ (w.ex.rdv.filter fun r => r.waiting == r.mask).map fun r => .rendezvousComplete ⟨wk / 64, wk % 64⟩ r.pc

/-- What is due of a team: window updates and installations (R129, R130). -/
def dueTeam (n : Nat) (t : Team) : List Instr :=
  (t.windows.flatMap fun (p : Nat × Window) => p.2.subs.flatMap fun (q : Nat × List WinUpd) =>
      if q.2.isEmpty then [] else [Instr.windowUpdate n p.1 q.1])
    ++ (t.replicas.filter fun r => !r.installed).map fun r => .replicaInstall n r.owner r.offset

/-- The buffer entries of a core that have stood for 1024 cc (R96). -/
def dueBuffer (g : Nat) (c : Core) (cc : Nat) : List Instr :=
  (c.wcb.filter fun e => e.last + 1024 ≤ cc).map fun e => .wcbDrain g e.slot e.line

/-- What is due of a die but for placement: fault records (R414), held arrivals (R436), submission queues (R394) and
reductions (R310, R347). Copies come last in a cc (`State.copyTurns`). -/
def dueDie (d : Nat) (x : Die) (cc : Nat) : List Instr :=
  List.replicate x.held.length (.faultRecord d)
    ++ ((List.range x.arrivals.length).reverse.map fun i => .heldArrival d i)
    ++ ((x.sq.filter fun (q : Nat × SubQ) => bit q.2.sqd 0).map fun q => .sqTakeEntry d q.1)
    ++ List.replicate x.contribQ.length (.xredContribution d)
    ++ (x.reds.filter fun (q : Nat × Reduction) => q.2.deadline != 0 && q.2.deadline ≤ cc).map fun q => .xredTimeout d q.1

/-- What is due of a near-bank sequencer (R312, R313). -/
def dueBank (st : Nat) (x : Stack) : List Instr :=
  (match x.bankRun with
    | some b => (match b.words[b.idx]? with | some w => [bankInstr st w] | none => []) ++ [.bankRun st]
    | none => if x.bankq.isEmpty then [] else [.bankRun st])
    ++ if x.combines.isEmpty then [] else [.bankCombine st]

/-! ### Arrays -/

/-- The events of one element at which tokens of a configuration stand: its functions, then the hops of its router (R316, R318, R320,
R324, R327, R329, R335). -/
def dueElem (st : Nat) (n : Net) (e : Nat) (slots : List Nat) : List Instr :=
  if e < 768 then
    [.markerForward st e, .peFire st e]
      ++ (match n.g.oper e with
        | 1 => [.steer st e] | 2 => [.carry st e] | 3 => [.invariant st e] | 4 => [.merge st e] | _ => [])
      ++ (slots.filter fun q => q / 64 == e && q % 64 < 24).map fun q => .routeHop st e (q % 64)
  else if e < 832 then [.storePortConsume st (e - 768)]
  else if e < 864 then [.markerForward st e, .mvStep st (e - 832)]
  else [.gateToken st (e - 864)]

/-- What one configuration of an array may do in an ac. -/
def State.dueArr (s : State) (h : ArrH) : List Instr :=
  match s.arr h with
  | none => []
  | some a =>
    let n := s.net h
    let slots := a.bufs.map fun (q : Nat × List (Nat × Tok)) => q.1
    ((slots.map fun q => q / 64).dedup.flatMap fun e => dueElem h.st n e slots)
      ++ ((n.ports 1).map fun p => .readPortEmit h.st p)
      ++ (((n.ports 5).map fun p => p / 2).dedup.map fun i => .weightLoad h.st i)
      ++ ((n.ports 3).map fun p => .copyFedWord h.st p)

/-- What is due of one partition (R331 to R341). -/
def State.duePart (s : State) (st k : Nat) : List Instr :=
  let x := s.stk st
  let run := (x.parts.fetch k).bind fun p => p.running
  let cs := (List.range 4).filter fun c => (x.ctxs.fetch (4 * k + c)).isSome
  let es := if x.ptab.valid k then x.ptab.elems k else []
  [.markerInject st k, .trickBoundary st k, .predicateTrue st k]
    ++ (match run with
      | some c => (es.filter fun e => x.plane.fetch e != some c).map fun e => .planeChange st k e
      | none => [])
    ++ (cs.flatMap fun c => match x.splices.fetch (4 * k + c) with
      | some p => (es.filter fun e => !FMap.at' false p.taken e).map fun e => .spliceReconfig st k c e
      | none => [])
    ++ ((s.loadedCtxs st k).flatMap s.dueArr)
    ++ (cs.flatMap fun c => [.waveCommit st k c, .markerStall st k c, .rollback st k c])
    ++ [.arrayCommandDone st k]

/-- What is due of a stack's array: nothing when no context is loaded; words of copy firings wait at their port (R323). -/
def State.dueStack (s : State) (p : Nat × Stack) : List Instr :=
  (p.2.inbox.filter fun (q : Nat × List (W16 × W64)) => !q.2.isEmpty).map (fun q => .copyFedWord p.1 q.1)
    ++ if p.2.ctxs.isEmpty && p.2.parts.all (fun (q : Nat × Part) => q.2.busy.isNone) then [] else (List.range 4).flatMap (s.duePart p.1)

/-! ### Work for idle cores -/

/-- Tasks that a core may take (R401 to R403): every hand first, then thieves, then the kitty. -/
def State.dueTasks (s : State) : List Instr :=
  let owners := (s.cores.filter fun (p : Nat × Core) => p.1 < 320 && !p.2.hand.isEmpty).map fun p => p.1
  owners.map Instr.takeHand
    ++ (if owners.isEmpty && !(s.cores.any fun (p : Nat × Core) => !p.2.hand.isEmpty) then [] else ((List.range 320).filter s.maySteal).map Instr.steal)
    ++ (if s.kitty.isEmpty then [] else ((List.range 320).filter s.maySteal).map Instr.kittyTake)

/-- The teams that grids wait for (R395, R396). -/
def State.duePlaces (s : State) : List Instr :=
  [0, 1].flatMap fun d =>
    if (s.waitingGrids d).isEmpty then [] else [.placeTeam d]

/-- Every event that is due. Array events fall in every second cc (R8). -/
def State.due (s : State) : List Turn :=
  ev ((s.waves.flatMap fun p => dueWave p.1 p.2).dedup
    ++ (s.teams.flatMap fun p => dueTeam p.1 p.2)
    ++ (s.cores.flatMap fun p => dueBuffer p.1 p.2 s.cc)
    ++ (s.dies.flatMap fun p => dueDie p.1 p.2 s.cc)
    ++ (s.stks.flatMap fun p => dueBank p.1 p.2)
    ++ (if s.cc % 2 = 0 then s.stks.flatMap s.dueStack else [])
    ++ s.duePlaces ++ s.dueTasks)

end Sys2Proof.Machine
end

