-- ==== Sys2Proof/Machine/Cycle.lean ====
section
/-! DEFINITION. The course of a cc (log entry 1): the turns of the cores, then the end of the cc with its timers (R48, R64, R204, R205,
R423 to R425, R433, R468, R470) and the events that then fall due; and the placing of a word for `State.withFetchWord`. -/
namespace Sys2Proof.Machine

/-! ### The timers of a wave -/

/-- A split stands in a timed wait (R205). -/
def Split.timed (p : Split) (cc : Nat) : Bool := p.waitTo != 0 && cc ≤ p.waitTo

/-- The wave is in a timed wait: every valid split is (R205). -/
def Wave.timedWait (w : Wave) (cc : Nat) : Bool := !w.ex.splits.isEmpty && w.ex.splits.all fun (p : Nat × Split) => p.2.timed cc

/-- A split waits for a member that recovers (R425). -/
def State.recovers (s : State) (wk : Nat) (p : Split) : Bool :=
  match p.stall with
  | .member m | .word (some m) => s.member (dieOf (wk / 64)) m == .recovering
  | _ => false

/-- The watchdog of a wave does not run in this cc (R423, R425). -/
def State.exempt (s : State) (wk : Nat) (w : Wave) : Bool :=
  w.timedWait s.cc || w.halted || w.hnd.isSome || w.ex.splits.any fun (p : Nat × Split) => s.recovers wk p.2

/-- One cc of a wave's parking timer and of its exemption (R48, R423). `runs` says that its core may issue in this cc (R468). -/
def State.ageWave (s : State) (wk : Nat) (w : Wave) (runs : Bool) : Wave :=
  let w := if runs && w.hnd.isNone && !w.halted && !w.ex.parked.isEmpty then { w with ex := { w.ex with ptimer := w.ex.ptimer + 1 } } else w
  if s.exempt wk w then { w with exemptWin := true } else w

/-- The end of a watchdog window (R423). -/
def Wave.window (w : Wave) : Wave :=
  let n := if w.wlim == 0 || w.issuedWin || w.exemptWin then w.wdog else w.wdog - 1
  { w with wdog := n, issuedWin := false, exemptWin := false }

/-- A watchdog window of the wave's die ends with this cc: idle cc are not counted on a user core (R423, R468, log entry 20). -/
def State.windowEnds (s : State) (g : Nat) : Bool :=
  if 320 ≤ g then (s.cc + 1) % 256 == 0 else s.coreRuns g && ((s.die (dieOf g)).ucc + 1) % 256 == 0

/-- A wave after this cc. -/
def State.afterCc (s : State) (wk : Nat) (w : Wave) : Wave :=
  let w := s.ageWave wk w (s.coreRuns (wk / 64))
  if s.windowEnds (wk / 64) then w.window else w

/-- The watchdogs that reach 0 with this cc (R424). -/
def State.barks (s : State) : List Turn :=
  ev ((s.waves.filter fun (p : Nat × Wave) => p.2.wlim != 0 && p.2.wdog != 0 && (s.afterCc p.1 p.2).wdog == 0).map fun p => .wdog ⟨p.1 / 64, p.1 % 64⟩)

/-- Each ready wave of a core that may issue has been ready for one more cc (R64, R468). -/
def State.countReady (s : State) : State :=
  { s with waves := s.waves.map fun (p : Nat × Wave) =>
      if s.coreRuns (p.1 / 64) && s.waveReady p.1 p.2 then (p.1, { p.2 with readyFor := p.2.readyFor + 1 }.boost) else p }

/-! ### The timers of the device -/

/-- A core takes over what was written to its registers (R212, R213). -/
def Core.settle (c : Core) : Core :=
  let c := match c.ownNext with | some v => { c with accown := v, ownNext := none } | none => c
  if c.eccClear then { c with ce := 0, ue := 0, eccClear := false } else c

/-- Sensor values at a sample that the device takes of its own (log entry 15). -/
def State.sensors (s : State) (n : Nat) : State × List W16 :=
  ({ s with free := s.free + n }, (List.range n).map fun i => Config.sensor (s.free + i))

/-- The sample of a die, every 2^18 cc (R467). -/
def State.sampleDue (s : State) (d : Nat) : State :=
  if s.cc % 2 ^ 18 ≠ 0 then s
  else
    let r := s.sensors 23
    let v := fun i => r.2.getD i 0
    r.1.sample d (v 0) ((r.2.drop 1).take 10) ((List.range 6).map fun j => (v (12 + 2 * j)) ++ (v (11 + 2 * j)))

/-- An ageing command that ends (R470). -/
def State.ageDue (s : State) (d : Nat) : State :=
  match (s.die d).ageing with
  | none => s
  | some a =>
    if s.cc < a.until_ then s
    else if a.op = 3 then
      let r := s.sensors 1
      r.1.measureEnd d ((r.2.getD 0 0).truncate 8)
    else s.setvEnd d

/-- Scrubs that are pending, members that missed their heartbeats, and members whose recovery takes too long (R433, R435). -/
def State.membersDue (s : State) (d : Nat) : State :=
  let s := (s.die d).agents.foldl (fun (s : State) p => s.scrub d p.1) s
  if !bit (s.die d).myinc 24 then s
  else (List.range 144).foldl (fun (s : State) m =>
    if s.missed d m then s.fenceMember d m 0 else if s.overdue d m then s.killMember d m 3 else s) s

/-- The heartbeat of the device (R433). -/
def State.beatDue (s : State) : State :=
  if s.inDomain && (s.die 0).hbSent + hbPeriod ≤ s.cc then s.sendHeartbeat else s

/-- The handlers of contexts whose save has waited too long (R68). -/
def State.freezeDue (s : State) : State :=
  (s.waves.flatMap fun (p : Nat × Wave) => p.2.ex.splits.filterMap fun (q : Nat × Split) => q.2.ask).foldl
    (fun s a => s.freezeHandlers a.core a.tag) s

/-- The timers of one die. -/
def State.dieDue (s : State) (d : Nat) : State :=
  let s := ((s.sampleDue d).ageDue d).membersDue d
  leaves s (execPlacementStarvation d s)

/-! ### The cc -/

/-- The end of a cc: timers count, and the events of the next cc fall due. -/
def State.endCycle (s : State) : State :=
  let barks := s.barks
  let ucc := fun (d : Nat) => if (s.die d).idle s.cc then (s.die d).ucc else (s.die d).ucc + 1
  let s := { s with waves := s.waves.map fun (p : Nat × Wave) => (p.1, s.afterCc p.1 p.2), cores := s.cores.map fun (p : Nat × Core) => (p.1, p.2.settle) }
  let s := (s.updDie 0 fun x => { x.settle with ucc := ucc 0 }).updDie 1 fun x => { x.settle with ucc := ucc 1 }
  let s := { s with cc := s.cc + 1, phase := 0 }
  let s := { s with waves := s.waves.map fun (p : Nat × Wave) => (p.1, p.2.endWaits s.cc) }
  let s := (((s.dieDue 0).dieDue 1).beatDue).freezeDue.endGone
  { s with agenda := barks ++ s.due }

/-- With an empty agenda: the issues of this cc, once, and then its end. -/
def State.schedule (s : State) : State :=
  if s.phase = 0 then
    let s := s.countReady
    { s with phase := 1, agenda := s.issueTurns }
  else s.endCycle

/-- An issue that reloads no watchdog: in a handler, or of a form that was issued before and stalled (R423, R425). -/
def State.keepsWdog (s : State) (wk e : Nat) : Bool :=
  match s.waves.fetch wk with
  | some w => w.hnd.isSome || (match w.ex.splits.fetch e with | some sp => sp.stall != .none | none => false)
  | none => false

/-- Applies a change to the state that an outcome answers. -/
def mapNext (f : State → State) : Host.Outcome State Fault Refusal → Host.Outcome State Fault Refusal
  | .next s => .next (f s)
  | .fault r => .fault r
  | .refused r => .refused r

/-- A wave that stands at an address, for `State.withFetchWord`. -/
def loneWave : Wave := { team := 0, tag := 1, k := [(0, 0xFFFFFFFF)], ex := ExecSt.start 0 }

/-- Places the sixteen bytes of an instruction at address 0, a translation of that page, and a wave on user core 0 that stands
there and issues next. -/
def State.placeWord (s : State) (bs : List W8) : State :=
  let s := ((keysFrom 0 bs.length).zip bs).foldl (fun s p => { s.putDram p.1 p.2 with l2d := s.l2d.del p.1 }) s
  let s := s.updCore 0 fun c => { c with icache := [], tlb := [⟨1, 0, 0, 30, 0, true, true, true, true⟩] }
  { s.setWave (wkey 0 0) loneWave with agenda := [.issue 0 0 0], poison := s.poison.del 0 }

end Sys2Proof.Machine
end

