-- ==== Sys2Proof/Machine/Convert.lean ====
section
/-! DEFINITION. Conversions (R236 to R240, with R142, R150, R151). -/
namespace Sys2Proof.Machine

/-- The format of a floating conversion code; nothing for an integer (R183). -/
def cvtFmt : CvtFmt → Option Fmt
  | .f64 => some .f64 | .f32 => some .f32 | .f16 => some .f16 | .bf16 => some .bf16
  | .i32 | .u32 | .i64 | .u64 => none

/-- Width and signedness of an integer conversion code. -/
def cvtIntTy : CvtFmt → Nat × Bool
  | .i32 => (32, true) | .u32 => (32, false) | .i64 => (64, true) | _ => (64, false)

/-- The number that a source pattern stands for (R237). -/
def cvtIn (src : CvtFmt) (ftz : Bool) (b : Nat) : Fv :=
  match cvtFmt src with
  | some f => flushIn f ftz (valueOf f (b % 2 ^ f.width))
  | none => .ofInt (numOf (cvtIntTy src).2 (cvtIntTy src).1 b)

/-- The 64 bits of a converted result (R218, R230, R237). -/
def cvtOut (dst : CvtFmt) (rm : Rm) (u : Nat) (ftz sat : Bool) (v : Fv) : Val :=
  match cvtFmt dst with
  | some f => let r := roundFp f rm u ftz sat v; (BitVec.ofNat 64 r.1, r.2)
  | none =>
    let r := roundInt (cvtIntTy dst).1 (cvtIntTy dst).2 rm u sat v
    (if (cvtIntTy dst).2 then BitVec.ofInt 64 (sextNat (cvtIntTy dst).1 r.1) else BitVec.ofNat 64 r.1, r.2)

/-- `cvt` (R236, R237). -/
def execCvt (c : Cls) (dst src : CvtFmt) (r : Rc) (f : F) (s : State) : Host.Outcome State Fault Refusal :=
  issue (.cvt c dst src r f) s fun x s =>
    s.typed x c (Forms.cvtWide dst) fun x l =>
      cvtOut dst (x.w.rmOf r) (x.rndBits c l 0) x.w.ftz (bit x.f.imm8 0)
        (cvtIn src x.w.ftz (x.src false (Forms.cvtWide src) x.f.a l).toNat)

/-- An FP32 operand of a narrow conversion at a lane, with FTZ applied (R232, R238). -/
def Ctx.f32At (x : Ctx) (o : Src) (l : Nat) : Fv := x.fpElem .vF32 o l 0

/-- Two FP32 values to two FP8 values (R238). -/
def Ctx.fp8Pair (x : Ctx) (f : Fmt) (r : Rc) (l : Nat) : Val :=
  let a := roundFp f (x.w.rmOf r) (x.rndBits .v l 0) false false (x.f32At x.f.a l)
  let b := roundFp f (x.w.rmOf r) (x.rndBits .v l 1) false false (x.f32At x.f.b l)
  (BitVec.ofNat 64 (a.1 + 256 * b.1), match a.2 with | some g => some g | none => b.2)

/-- `vcvt.e4m3x2.f32` (R238). -/
def execVcvtE4m3x2F32 (r : Rc) (f : F) (s : State) : Host.Outcome State Fault Refusal :=
  issue (.vcvtE4m3x2F32 r f) s fun x s => s.typed x .v false fun x l => x.fp8Pair .e4m3 r l

/-- `vcvt.e5m2x2.f32` (R238). -/
def execVcvtE5m2x2F32 (r : Rc) (f : F) (s : State) : Host.Outcome State Fault Refusal :=
  issue (.vcvtE5m2x2F32 r f) s fun x s => s.typed x .v false fun x l => x.fp8Pair .e5m2 r l

/-- One FP8 byte to FP32, exact (R238). -/
def Ctx.fp8Byte (x : Ctx) (f : Fmt) (l : Nat) : Val :=
  let b := (x.src false false x.f.a l).toNat / 2 ^ (8 * x.f.imm8.toNat) % 256
  (BitVec.ofNat 64 (roundFp .f32 .rne 0 false false (valueOf f b)).1, none)

/-- `vcvt.f32.e4m3` (R238). -/
def execVcvtF32E4m3 (f : F) (s : State) : Host.Outcome State Fault Refusal :=
  issue (.vcvtF32E4m3 f) s fun x s => s.typed x .v false fun x l => x.fp8Byte .e4m3 l

/-- `vcvt.f32.e5m2` (R238). -/
def execVcvtF32E5m2 (f : F) (s : State) : Host.Outcome State Fault Refusal :=
  issue (.vcvtF32E5m2 f) s fun x s => s.typed x .v false fun x l => x.fp8Byte .e5m2 l

/-- A value times a power of two. -/
def Fv.scale (v : Fv) (k : Int) : Fv := match v with | .fin n m e => .fin n m (e + k) | w => w

/-- The exponent of a block's scale (R151): floor(log2 amax) + 125, from 0 to 254. -/
def mxScale (vs : List Fv) : Nat :=
  let top := vs.foldl (fun (t : Option Int) v =>
    match v with
    | .fin _ m e =>
      if m = 0 then t
      else
        let k : Int := Nat.log2 m + e
        match t with | none => some k | some j => some (max j k)
    | _ => t) none
  match top with
  | none => 0
  | some k => (max 0 (min 254 (k + 125))).toNat

/-- mx_quant of R151: the scale and the 32 elements; `us` gives each element's random value. -/
def mxQuant (vs : List Fv) (rm : Rm) (us : Nat → Nat) : Nat × List Nat :=
  if vs.any fun v => v.isNan || v.isInf then (0xFF, vs.map fun _ => 0)
  else
    let e := mxScale vs
    (e, ((List.range vs.length).zip vs).map fun p => (roundFp .e2m1 rm (us p.1) false false (p.2.scale (127 - (e : Int)))).1)

/-- `vcvt.mxf4.f32` (R239). -/
def execVcvtMxf4F32 (r : Rc) (f : F) (s : State) : Host.Outcome State Fault Refusal :=
  issueWith (fun _ => false) (fun x => !x.conv) (.vcvtMxf4F32 r f) s fun x s =>
    let vs := (List.range 32).map fun l => if bit x.act l then x.f32At x.f.a l else Fv.zero false
    let q := mxQuant vs (x.w.rmOf r) fun l => x.rndBits .v l 0
    let word := fun j => (List.range 8).foldl (fun (n : Nat) i => n + q.2.getD (8 * j + i) 0 * 16 ^ i) 0
    let s := s.writeV x false x.act fun l => BitVec.ofNat 64 (if l < 4 then word l else if l = 4 then q.1 else 0)
    (s.flag x .fpx (vs.any fun v => v.isSnan || v.isInf)).advance x

/-- `vcvt.f32.mxf4` (R240). -/
def execVcvtF32Mxf4 (r : Rc) (f : F) (s : State) : Host.Outcome State Fault Refusal :=
  issue (.vcvtF32Mxf4 r f) s fun x s =>
    s.typed x .v false fun x l =>
      let c := (x.src false false x.f.a l).toNat / 2 ^ (4 * (x.f.imm8.toNat % 8)) % 16
      let b := (x.src false false x.f.b l).toNat % 256
      if b = 0xFF then (BitVec.ofNat 64 (Fmt.canon .f32), none)
      else
        let q := roundFp .f32 (x.w.rmOf r) (x.rndBits .v l 0) x.w.ftz false ((valueOf .e2m1 c).scale ((b : Int) - 127))
        (BitVec.ofNat 64 q.1, q.2)

end Sys2Proof.Machine
end

