-- ==== Sys2Proof/Machine/Reset.lean ====
section
/-! DEFINITION. The two resets of the module and the end of the zeroing of DRAM (R463, R465; log entry 14). What no reset rule
names and lies outside the device stays: the memories of the peers and of the host, and the model's own counters. -/
namespace Sys2Proof.Machine

/-- A cold reset: every part at its reset value, DRAM zero, no poison, LFL 6 (R463). -/
def State.cold (s : State) : State :=
  { State.reset with peerMem := s.peerMem, hostMem := s.hostMem, free := s.free, nextId := s.nextId }

/-- COLD_RESET (R463). -/
def execColdReset (s : State) : Host.Outcome State Fault Refusal := .next s.cold

/-- The lines of this device that hold dirty bytes in an L2. -/
def State.dirtyLines (s : State) : List Nat := (s.l2d.map fun (p : Nat × W8) => lineOf p.1).dedup

/-- Writes a dirty line to DRAM before a warm reset; the write to a row that is marked failed fails, and the line is poisoned
(R362, R463). -/
def State.settleDirty (s : State) (line : Nat) : State :=
  if s.failedLine line then (s.dropDirty line).setPoison line true else s.cleanLine line

/-- A warm reset (R463): DRAM with LFL and poison marks is kept. -/
def State.warm (s : State) : State :=
  let t := s.dirtyLines.foldl State.settleDirty s
  let ready := fun (d : Nat) => { bootst := (s.die d).bootst &&& 4 : Die }
  { State.reset with
    dram := t.dram, lfl := t.lfl, poison := t.poison, hard := t.hard, saves := t.saves, peerMem := s.peerMem, hostMem := s.hostMem, free := s.free
    nextId := s.nextId, dies := [(0, ready 0), (1, ready 1)] }

/-- WARM_RESET (R463). -/
def execWarmReset (s : State) : Host.Outcome State Fault Refusal := .next s.warm

/-- DRAM_READY (R463, R465): BOOTST[2] says that DRAM is zeroed. -/
def execDramReady (s : State) : Host.Outcome State Fault Refusal :=
  .next ((s.updDie 0 fun d => { d with bootst := d.bootst ||| 4 }).updDie 1 fun d => { d with bootst := d.bootst ||| 4 })

end Sys2Proof.Machine
end

