-- ==== Sys2Proof/Machine/Dispatch.lean ====
section
/-! DEFINITION. The dispatch: one arm per constructor of `Instr`, each one call of its meaning. -/
namespace Sys2Proof.Machine

/-- What an instruction or an event does at a state. -/
def exec (i : Instr) (s : State) : Host.Outcome State Fault Refusal :=
  match i with
  | .nop f => Sys2Proof.Machine.execNop f s
  | .br f => Sys2Proof.Machine.execBr f s
  | .brNz f => Sys2Proof.Machine.execBrNz f s
  | .brZ f => Sys2Proof.Machine.execBrZ f s
  | .brx f => Sys2Proof.Machine.execBrx f s
  | .call f => Sys2Proof.Machine.execCall f s
  | .callIndirect f => Sys2Proof.Machine.execCallIndirect f s
  | .ret f => Sys2Proof.Machine.execRet f s
  | .join f => Sys2Proof.Machine.execJoin f s
  | .yield f => Sys2Proof.Machine.execYield f s
  | .exit f => Sys2Proof.Machine.execExit f s
  | .kill f => Sys2Proof.Machine.execKill f s
  | .wait f => Sys2Proof.Machine.execWait f s
  | .trap f => Sys2Proof.Machine.execTrap f s
  | .tret f => Sys2Proof.Machine.execTret f s
  | .bkpt f => Sys2Proof.Machine.execBkpt f s
  | .rdsys f => Sys2Proof.Machine.execRdsys f s
  | .wrsys f => Sys2Proof.Machine.execWrsys f s
  | .kmov f => Sys2Proof.Machine.execKmov f s
  | .kand f => Sys2Proof.Machine.execKand f s
  | .kor f => Sys2Proof.Machine.execKor f s
  | .kxor f => Sys2Proof.Machine.execKxor f s
  | .kandn f => Sys2Proof.Machine.execKandn f s
  | .knot f => Sys2Proof.Machine.execKnot f s
  | .ctxsave f => Sys2Proof.Machine.execCtxsave f s
  | .ctxload f => Sys2Proof.Machine.execCtxload f s
  | .tlbinv f => Sys2Proof.Machine.execTlbinv f s
  | .l1inv f => Sys2Proof.Machine.execL1inv f s
  | .intAdd c t f => Sys2Proof.Machine.execIntAdd c t f s
  | .intSub c t f => Sys2Proof.Machine.execIntSub c t f s
  | .intMul c t f => Sys2Proof.Machine.execIntMul c t f s
  | .intMulhi c t f => Sys2Proof.Machine.execIntMulhi c t f s
  | .intMad c t f => Sys2Proof.Machine.execIntMad c t f s
  | .intMin c t f => Sys2Proof.Machine.execIntMin c t f s
  | .intMax c t f => Sys2Proof.Machine.execIntMax c t f s
  | .intAbs c t f => Sys2Proof.Machine.execIntAbs c t f s
  | .intNeg c t f => Sys2Proof.Machine.execIntNeg c t f s
  | .intAnd c t f => Sys2Proof.Machine.execIntAnd c t f s
  | .intOr c t f => Sys2Proof.Machine.execIntOr c t f s
  | .intXor c t f => Sys2Proof.Machine.execIntXor c t f s
  | .intAndn c t f => Sys2Proof.Machine.execIntAndn c t f s
  | .intNot c t f => Sys2Proof.Machine.execIntNot c t f s
  | .intShl c t f => Sys2Proof.Machine.execIntShl c t f s
  | .intShr c t f => Sys2Proof.Machine.execIntShr c t f s
  | .intRot c t f => Sys2Proof.Machine.execIntRot c t f s
  | .intFshl c t f => Sys2Proof.Machine.execIntFshl c t f s
  | .intFshr c t f => Sys2Proof.Machine.execIntFshr c t f s
  | .intBfe c t f => Sys2Proof.Machine.execIntBfe c t f s
  | .intBfi c t f => Sys2Proof.Machine.execIntBfi c t f s
  | .intPopc c t f => Sys2Proof.Machine.execIntPopc c t f s
  | .intClz c t f => Sys2Proof.Machine.execIntClz c t f s
  | .intCtz c t f => Sys2Proof.Machine.execIntCtz c t f s
  | .intBrev c t f => Sys2Proof.Machine.execIntBrev c t f s
  | .intDiv c t f => Sys2Proof.Machine.execIntDiv c t f s
  | .intRem c t f => Sys2Proof.Machine.execIntRem c t f s
  | .intSel c t f => Sys2Proof.Machine.execIntSel c t f s
  | .intMov c t f => Sys2Proof.Machine.execIntMov c t f s
  | .smovh t f => Sys2Proof.Machine.execSmovh t f s
  | .intLea c t f => Sys2Proof.Machine.execIntLea c t f s
  | .intAddSat c t f => Sys2Proof.Machine.execIntAddSat c t f s
  | .intSubSat c t f => Sys2Proof.Machine.execIntSubSat c t f s
  | .intMulSat c t f => Sys2Proof.Machine.execIntMulSat c t f s
  | .intMadSat c t f => Sys2Proof.Machine.execIntMadSat c t f s
  | .intAbsSat c t f => Sys2Proof.Machine.execIntAbsSat c t f s
  | .intNegSat c t f => Sys2Proof.Machine.execIntNegSat c t f s
  | .intCmpEq c t f => Sys2Proof.Machine.execIntCmpEq c t f s
  | .intCmpNe c t f => Sys2Proof.Machine.execIntCmpNe c t f s
  | .intCmpLt c t f => Sys2Proof.Machine.execIntCmpLt c t f s
  | .intCmpLe c t f => Sys2Proof.Machine.execIntCmpLe c t f s
  | .intCmpGt c t f => Sys2Proof.Machine.execIntCmpGt c t f s
  | .intCmpGe c t f => Sys2Proof.Machine.execIntCmpGe c t f s
  | .aadd f => Sys2Proof.Machine.execAadd f s
  | .asub f => Sys2Proof.Machine.execAsub f s
  | .aneg f => Sys2Proof.Machine.execAneg f s
  | .amul f => Sys2Proof.Machine.execAmul f s
  | .ashl f => Sys2Proof.Machine.execAshl f s
  | .amov f => Sys2Proof.Machine.execAmov f s
  | .aset f => Sys2Proof.Machine.execAset f s
  | .atos f => Sys2Proof.Machine.execAtos f s
  | .atosLane f => Sys2Proof.Machine.execAtosLane f s
  | .vtos t f => Sys2Proof.Machine.execVtos t f s
  | .vtoa t f => Sys2Proof.Machine.execVtoa t f s
  | .fpAdd k r f => Sys2Proof.Machine.execFpAdd k r f s
  | .fpSub k r f => Sys2Proof.Machine.execFpSub k r f s
  | .fpMul k r f => Sys2Proof.Machine.execFpMul k r f s
  | .fpFma k r f => Sys2Proof.Machine.execFpFma k r f s
  | .fpMin k f => Sys2Proof.Machine.execFpMin k f s
  | .fpMax k f => Sys2Proof.Machine.execFpMax k f s
  | .fpAbs k f => Sys2Proof.Machine.execFpAbs k f s
  | .fpNeg k f => Sys2Proof.Machine.execFpNeg k f s
  | .fpRcp k f => Sys2Proof.Machine.execFpRcp k f s
  | .fpRsqrt k f => Sys2Proof.Machine.execFpRsqrt k f s
  | .fpSqrt k r f => Sys2Proof.Machine.execFpSqrt k r f s
  | .fpExp2 k f => Sys2Proof.Machine.execFpExp2 k f s
  | .fpLog2 k f => Sys2Proof.Machine.execFpLog2 k f s
  | .fpSin k f => Sys2Proof.Machine.execFpSin k f s
  | .fpCos k f => Sys2Proof.Machine.execFpCos k f s
  | .fpClass k f => Sys2Proof.Machine.execFpClass k f s
  | .fpCmpEq k f => Sys2Proof.Machine.execFpCmpEq k f s
  | .fpCmpNe k f => Sys2Proof.Machine.execFpCmpNe k f s
  | .fpCmpLt k f => Sys2Proof.Machine.execFpCmpLt k f s
  | .fpCmpLe k f => Sys2Proof.Machine.execFpCmpLe k f s
  | .fpCmpGt k f => Sys2Proof.Machine.execFpCmpGt k f s
  | .fpCmpGe k f => Sys2Proof.Machine.execFpCmpGe k f s
  | .fpCmpUn k f => Sys2Proof.Machine.execFpCmpUn k f s
  | .cvt c dst src r f => Sys2Proof.Machine.execCvt c dst src r f s
  | .vcvtE4m3x2F32 r f => Sys2Proof.Machine.execVcvtE4m3x2F32 r f s
  | .vcvtE5m2x2F32 r f => Sys2Proof.Machine.execVcvtE5m2x2F32 r f s
  | .vcvtF32E4m3 f => Sys2Proof.Machine.execVcvtF32E4m3 f s
  | .vcvtF32E5m2 f => Sys2Proof.Machine.execVcvtF32E5m2 f s
  | .vcvtMxf4F32 r f => Sys2Proof.Machine.execVcvtMxf4F32 r f s
  | .vcvtF32Mxf4 r f => Sys2Proof.Machine.execVcvtF32Mxf4 r f s
  | .ld z o f => Sys2Proof.Machine.execLd z o f s
  | .st z o f => Sys2Proof.Machine.execSt z o f s
  | .ldSync f => Sys2Proof.Machine.execLdSync f s
  | .ldTake f => Sys2Proof.Machine.execLdTake f s
  | .stFill f => Sys2Proof.Machine.execStFill f s
  | .feLaneComplete w e => Sys2Proof.Machine.execFeLaneComplete w e s
  | .atomAdd t o f => Sys2Proof.Machine.execAtomAdd t o f s
  | .atomMin t o f => Sys2Proof.Machine.execAtomMin t o f s
  | .atomMax t o f => Sys2Proof.Machine.execAtomMax t o f s
  | .atomAnd t o f => Sys2Proof.Machine.execAtomAnd t o f s
  | .atomOr t o f => Sys2Proof.Machine.execAtomOr t o f s
  | .atomXor t o f => Sys2Proof.Machine.execAtomXor t o f s
  | .atomXchg t o f => Sys2Proof.Machine.execAtomXchg t o f s
  | .atomCas t o f => Sys2Proof.Machine.execAtomCas t o f s
  | .atomFadd t o f => Sys2Proof.Machine.execAtomFadd t o f s
  | .fenceSc f => Sys2Proof.Machine.execFenceSc f s
  | .fenceXp f => Sys2Proof.Machine.execFenceXp f s
  | .pf f => Sys2Proof.Machine.execPf f s
  | .pfL2 f => Sys2Proof.Machine.execPfL2 f s
  | .cinv f => Sys2Proof.Machine.execCinv f s
  | .lineclr f => Sys2Proof.Machine.execLineclr f s
  | .wopen f => Sys2Proof.Machine.execWopen f s
  | .wsub f => Sys2Proof.Machine.execWsub f s
  | .wclose f => Sys2Proof.Machine.execWclose f s
  | .wunsub f => Sys2Proof.Machine.execWunsub f s
  | .windowUpdate owner off sub => Sys2Proof.Machine.execWindowUpdate owner off sub s
  | .wcbDrain core slot line => Sys2Proof.Machine.execWcbDrain core slot line s
  | .shflIdx f => Sys2Proof.Machine.execShflIdx f s
  | .shflUp f => Sys2Proof.Machine.execShflUp f s
  | .shflDn f => Sys2Proof.Machine.execShflDn f s
  | .shflXor f => Sys2Proof.Machine.execShflXor f s
  | .voteAll f => Sys2Proof.Machine.execVoteAll f s
  | .voteAny f => Sys2Proof.Machine.execVoteAny f s
  | .voteUni f => Sys2Proof.Machine.execVoteUni f s
  | .ballot f => Sys2Proof.Machine.execBallot f s
  | .matchLanes f => Sys2Proof.Machine.execMatchLanes f s
  | .red op f => Sys2Proof.Machine.execRed op f s
  | .scan op f => Sys2Proof.Machine.execScan op f s
  | .scanX op f => Sys2Proof.Machine.execScanX op f s
  | .rendezvousComplete w pc => Sys2Proof.Machine.execRendezvousComplete w pc s
  | .barArr f => Sys2Proof.Machine.execBarArr f s
  | .barWait f => Sys2Proof.Machine.execBarWait f s
  | .barSync f => Sys2Proof.Machine.execBarSync f s
  | .barPhaseComplete team b => Sys2Proof.Machine.execBarPhaseComplete team b s
  | .jarr f => Sys2Proof.Machine.execJarr f s
  | .jwait f => Sys2Proof.Machine.execJwait f s
  | .tadd f => Sys2Proof.Machine.execTadd f s
  | .tmin f => Sys2Proof.Machine.execTmin f s
  | .tmax f => Sys2Proof.Machine.execTmax f s
  | .tand f => Sys2Proof.Machine.execTand f s
  | .tor f => Sys2Proof.Machine.execTor f s
  | .txchg f => Sys2Proof.Machine.execTxchg f s
  | .tcas f => Sys2Proof.Machine.execTcas f s
  | .awaitEq o f => Sys2Proof.Machine.execAwaitEq o f s
  | .awaitNe o f => Sys2Proof.Machine.execAwaitNe o f s
  | .waitReread w e => Sys2Proof.Machine.execWaitReread w e s
  | .qres f => Sys2Proof.Machine.execQres f s
  | .qpub f => Sys2Proof.Machine.execQpub f s
  | .qtake f => Sys2Proof.Machine.execQtake f s
  | .mma t f => Sys2Proof.Machine.execMma t f s
  | .mmaClu t f => Sys2Proof.Machine.execMmaClu t f s
  | .accld f => Sys2Proof.Machine.execAccld f s
  | .accst f => Sys2Proof.Machine.execAccst f s
  | .acczero f => Sys2Proof.Machine.execAcczero f s
  | .cparm f => Sys2Proof.Machine.execCparm f s
  | .cpfire f => Sys2Proof.Machine.execCpfire f s
  | .cpbook f => Sys2Proof.Machine.execCpbook f s
  | .cpbind f => Sys2Proof.Machine.execCpbind f s
  | .cpdisarm f => Sys2Proof.Machine.execCpdisarm f s
  | .copyFire die tpl => Sys2Proof.Machine.execCopyFire die tpl s
  | .copyComplete die tpl => Sys2Proof.Machine.execCopyComplete die tpl s
  | .spawn f => Sys2Proof.Machine.execSpawn f s
  | .spawnPush w e => Sys2Proof.Machine.execSpawnPush w e s
  | .alaunch f => Sys2Proof.Machine.execAlaunch f s
  | .asplice f => Sys2Proof.Machine.execAsplice f s
  | .xred f => Sys2Proof.Machine.execXred f s
  | .xredContribution die => Sys2Proof.Machine.execXredContribution die s
  | .xredTimeout die tag => Sys2Proof.Machine.execXredTimeout die tag s
  | .bnkop f => Sys2Proof.Machine.execBnkop f s
  | .bankRun stack => Sys2Proof.Machine.execBankRun stack s
  | .bankNop stack => Sys2Proof.Machine.execBankNop stack s
  | .bankCopy stack rd ra n => Sys2Proof.Machine.execBankCopy stack rd ra n s
  | .bankAnd stack rd ra rb n => Sys2Proof.Machine.execBankAnd stack rd ra rb n s
  | .bankOr stack rd ra rb n => Sys2Proof.Machine.execBankOr stack rd ra rb n s
  | .bankXor stack rd ra rb n => Sys2Proof.Machine.execBankXor stack rd ra rb n s
  | .bankAndn stack rd ra rb n => Sys2Proof.Machine.execBankAndn stack rd ra rb n s
  | .bankNot stack rd ra n => Sys2Proof.Machine.execBankNot stack rd ra n s
  | .bankAdd stack rd ra rb n => Sys2Proof.Machine.execBankAdd stack rd ra rb n s
  | .bankSub stack rd ra rb n => Sys2Proof.Machine.execBankSub stack rd ra rb n s
  | .bankSetc stack rd imm n => Sys2Proof.Machine.execBankSetc stack rd imm n s
  | .bankLt stack rd ra rb n => Sys2Proof.Machine.execBankLt stack rd ra rb n s
  | .bankMac8 stack rd ra imm => Sys2Proof.Machine.execBankMac8 stack rd ra imm s
  | .bankCvtf stack rd ra imm => Sys2Proof.Machine.execBankCvtf stack rd ra imm s
  | .bankXpose stack rd ra => Sys2Proof.Machine.execBankXpose stack rd ra s
  | .bankCombine stack => Sys2Proof.Machine.execBankCombine stack s
  | .peFire stack elem => Sys2Proof.Machine.execPeFire stack elem s
  | .steer stack elem => Sys2Proof.Machine.execSteer stack elem s
  | .carry stack elem => Sys2Proof.Machine.execCarry stack elem s
  | .invariant stack elem => Sys2Proof.Machine.execInvariant stack elem s
  | .merge stack elem => Sys2Proof.Machine.execMerge stack elem s
  | .routeHop stack elem src => Sys2Proof.Machine.execRouteHop stack elem src s
  | .readPortEmit stack port => Sys2Proof.Machine.execReadPortEmit stack port s
  | .copyFedWord stack port => Sys2Proof.Machine.execCopyFedWord stack port s
  | .storePortConsume stack port => Sys2Proof.Machine.execStorePortConsume stack port s
  | .weightLoad stack node => Sys2Proof.Machine.execWeightLoad stack node s
  | .mvStep stack node => Sys2Proof.Machine.execMvStep stack node s
  | .gateToken stack gate => Sys2Proof.Machine.execGateToken stack gate s
  | .trickBoundary stack part => Sys2Proof.Machine.execTrickBoundary stack part s
  | .planeChange stack part elem => Sys2Proof.Machine.execPlaneChange stack part elem s
  | .spliceReconfig stack part ctx elem => Sys2Proof.Machine.execSpliceReconfig stack part ctx elem s
  | .markerInject stack part => Sys2Proof.Machine.execMarkerInject stack part s
  | .markerForward stack elem => Sys2Proof.Machine.execMarkerForward stack elem s
  | .waveCommit stack part ctx => Sys2Proof.Machine.execWaveCommit stack part ctx s
  | .markerStall stack part ctx => Sys2Proof.Machine.execMarkerStall stack part ctx s
  | .rollback stack part ctx => Sys2Proof.Machine.execRollback stack part ctx s
  | .parkRotation w => Sys2Proof.Machine.execParkRotation w s
  | .teamRetire team => Sys2Proof.Machine.execTeamRetire team s
  | .wdog w => Sys2Proof.Machine.execWdog w s
  | .faultRecord die => Sys2Proof.Machine.execFaultRecord die s
  | .sqTakeEntry die sq => Sys2Proof.Machine.execSqTakeEntry die sq s
  | .placeTeam die => Sys2Proof.Machine.execPlaceTeam die s
  | .compaction core => Sys2Proof.Machine.execCompaction core s
  | .takeHand core => Sys2Proof.Machine.execTakeHand core s
  | .steal core => Sys2Proof.Machine.execSteal core s
  | .kittyTake core => Sys2Proof.Machine.execKittyTake core s
  | .heldArrival die idx => Sys2Proof.Machine.execHeldArrival die idx s
  | .predicateTrue stack part => Sys2Proof.Machine.execPredicateTrue stack part s
  | .arrayCommandDone stack part => Sys2Proof.Machine.execArrayCommandDone stack part s
  | .replicaInstall sub owner off => Sys2Proof.Machine.execReplicaInstall sub owner off s
  | .arrayUe stack part hurt => Sys2Proof.Machine.execArrayUe stack part hurt s
  | .preempt stack part ask => Sys2Proof.Machine.execPreempt stack part ask s
  | .save stack part ctx => Sys2Proof.Machine.execSave stack part ctx s
  | .restore stack part ctx => Sys2Proof.Machine.execRestore stack part ctx s
  | .resume stack part ctx => Sys2Proof.Machine.execResume stack part ctx s
  | .stop stack part ctx => Sys2Proof.Machine.execStop stack part ctx s
  | .configFieldWrite stack off v => Sys2Proof.Machine.execConfigFieldWrite stack off v s
  | .failedRowWrite stack idx v => Sys2Proof.Machine.execFailedRowWrite stack idx v s
  | .meld w e other => Sys2Proof.Machine.execMeld w e other s
  | .translationWalk die tag va => Sys2Proof.Machine.execTranslationWalk die tag va s
  | .replay die srcid seq src => Sys2Proof.Machine.execReplay die srcid seq src s
  | .deliver die srcid seq src code => Sys2Proof.Machine.execDeliver die srcid seq src code s
  | .killCmd die srcid seq src => Sys2Proof.Machine.execKillCmd die srcid seq src s
  | .killtree die srcid => Sys2Proof.Machine.execKilltree die srcid s
  | .fqheadWrite die v => Sys2Proof.Machine.execFqheadWrite die v s
  | .scaleupMessage die member inc msg => Sys2Proof.Machine.execScaleupMessage die member inc msg s
  | .heartbeatSend => Sys2Proof.Machine.execHeartbeatSend s
  | .heartbeat die m => Sys2Proof.Machine.execHeartbeat die m s
  | .heartbeatMiss die m => Sys2Proof.Machine.execHeartbeatMiss die m s
  | .fence die m => Sys2Proof.Machine.execFence die m s
  | .dead die m => Sys2Proof.Machine.execDead die m s
  | .recmaxExpire die m => Sys2Proof.Machine.execRecmaxExpire die m s
  | .readmit die m inc => Sys2Proof.Machine.execReadmit die m inc s
  | .assign die m inc => Sys2Proof.Machine.execAssign die m inc s
  | .leave die => Sys2Proof.Machine.execLeave die s
  | .scrub die m => Sys2Proof.Machine.execScrub die m s
  | .linkPort port up => Sys2Proof.Machine.execLinkPort port up s
  | .linkLane port mask => Sys2Proof.Machine.execLinkLane port mask s
  | .hostAccess port addr n data => Sys2Proof.Machine.execHostAccess port addr n data s
  | .hostRelease port addr data => Sys2Proof.Machine.execHostRelease port addr data s
  | .coldReset => Sys2Proof.Machine.execColdReset s
  | .warmReset => Sys2Proof.Machine.execWarmReset s
  | .dramReady => Sys2Proof.Machine.execDramReady s
  | .bootpc die v => Sys2Proof.Machine.execBootpc die v s
  | .sysroot die v => Sys2Proof.Machine.execSysroot die v s
  | .run die v => Sys2Proof.Machine.execRun die v s
  | .sqd die q v => Sys2Proof.Machine.execSqd die q v s
  | .telemetrySample die pwr tdie clt stk => Sys2Proof.Machine.execTelemetrySample die pwr tdie clt stk s
  | .drain die cl => Sys2Proof.Machine.execDrain die cl s
  | .undrain die cl => Sys2Proof.Machine.execUndrain die cl s
  | .measure die cl => Sys2Proof.Machine.execMeasure die cl s
  | .measureDone die margin => Sys2Proof.Machine.execMeasureDone die margin s
  | .setv die cl voff => Sys2Proof.Machine.execSetv die cl voff s
  | .setvDone die => Sys2Proof.Machine.execSetvDone die s
  | .retire die cl => Sys2Proof.Machine.execRetire die cl s
  | .unretire die cl => Sys2Proof.Machine.execUnretire die cl s
  | .arrayReset stack => Sys2Proof.Machine.execArrayReset stack s
  | .clrcnt die => Sys2Proof.Machine.execClrcnt die s
  | .registerWrite addr n v => Sys2Proof.Machine.execRegisterWrite addr n v s
  | .placementStarvation die => Sys2Proof.Machine.execPlacementStarvation die s
  | .handlerFreeze core tag => Sys2Proof.Machine.execHandlerFreeze core tag s
  | .waveBoost w => Sys2Proof.Machine.execWaveBoost w s
  | .yieldExpire w => Sys2Proof.Machine.execYieldExpire w s
  | .waitExpire w e => Sys2Proof.Machine.execWaitExpire w e s

end Sys2Proof.Machine
end

