-- ==== Sys2Proof/Machine/Upset.lean ====
section
/-! DEFINITION. Soft errors from outside the machine (R89, R437, R466): an error that strikes a register, and an error that the
device finds and counts. What a read of a struck register does stands with the reads (R91, R92). -/
namespace Sys2Proof.Machine

/-- An error strikes a code word: one that its code cannot correct stays one (R89). -/
def strike (m : FMap Bool) (n : Nat) (hard : Bool) : FMap Bool := FMap.ins m n (hard || FMap.at' false m n)

/-- An error strikes a register of a wave (R89). Files without check bits take none. -/
def Wave.strike (w : Wave) (file : DFile) (n : Nat) (hard : Bool) : Wave :=
  match file with
  | .v => if n < 256 then { w with vpois := Machine.strike w.vpois n hard } else w
  | .s => if n < 64 then { w with spois := Machine.strike w.spois n hard } else w
  | .a => if n < 32 then { w with apois := Machine.strike w.apois n hard } else w
  | .sys => { w with ypois := Machine.strike w.ypois n hard }
  | _ => w

/-- Parity fails in a line that a core's L1 or instruction cache holds: the copy goes, and the die counts it (R466). -/
def State.parity (s : State) (g line : Nat) : State :=
  let c := s.core g
  if c.l1.any (fun p => lineOf p.1 == line) || c.icache.any (fun p => lineOf p.1 == line) then
    (s.updCore g fun c => { c with l1 := c.l1.dropKeys fun k => lineOf k == line, icache := c.icache.dropKeys fun k => lineOf k == line }).updDie
      (dieOf g) fun d => { d with l1e := satAdd d.l1e 1 }
  else s

/-- A flit is sent again on a scale-up port: RETRY, the low half of LINK, counts it (R466, R467). -/
def State.retryFlit (s : State) (port : Nat) : State :=
  if 18 ≤ port then s
  else s.updDie (port / 9) fun d =>
    let v := FMap.at' (0 : W64) d.link (port % 9)
    { d with link := FMap.put 0 d.link (port % 9) ((v &&& ~~~0xFFFFFFFF) ||| (satAdd (v.truncate 32) 1).zeroExtend 64) }

/-- One soft error. -/
def State.upset (s : State) : Upset → State
  | .wave g slot file n hard => s.updWave (wkey g slot) fun w => w.strike file n hard
  | .team t n hard => if n < 16 then s.updTeam t fun t => { t with tpois := strike t.tpois n hard } else s
  | .coreReg g n hard => s.updCore g fun c => { c with ypois := strike c.ypois n hard }
  | .accRow g row hard => s.updCore g fun c => { c with accpois := strike c.accpois row hard }
  | .l1 g line => s.parity g line
  | .dram st => s.updStk st fun x => { x with dramce := satAdd x.dramce 1 }
  | .dramBad line => if homeOf (128 * line) = .here then s.foundBad line else s
  | .flit port => s.retryFlit port

end Sys2Proof.Machine
end

