-- ==== Sys2Proof/Machine/Step.lean ====
section
/-! DEFINITION. One step of the device: the next turn of the agenda, or the choice of turns when it is empty (log entry 1). -/
namespace Sys2Proof.Machine

/-- One step. -/
def step (s : State) : Host.Outcome State Fault Refusal :=
  match s.agenda with
  | [] => .next s.schedule
  | .event i :: rest => exec i { s with agenda := rest }
  | .upset u :: rest => .next ({ s with agenda := rest }.upset u)
  | .issue g slot e :: rest =>
    let r := { s with agenda := rest }.prepare g slot e
    match r.2 with
    | none => .next r.1
    | some i => mapNext (fun t => t.afterIssue (wkey g slot) (s.keepsWdog (wkey g slot) e)) (exec i r.1)

/-- `s` with an instruction where the next step fetches (log entry 1): its first word is bits 63..0 of `w`, its extension word
bits 127..64. -/
def State.withFetchWord (s : State) (nbits w : Nat) : State := s.placeWord (toBytes 16 (w % 2 ^ nbits))

end Sys2Proof.Machine
end

