-- ==== Sys2Proof/Laws/Map.lean ====
section
/-! SUPPORT. Laws of the finite maps: what a read gives after a write, and that writes keep the canonical form. -/
namespace Sys2Proof.FMap
variable {α : Type}

@[simp] theorem fetch_nil (i : Nat) : fetch ([] : FMap α) i = none := rfl
@[simp] theorem at'_nil (d : α) (i : Nat) : at' d ([] : FMap α) i = d := rfl

/-! ### Read after write -/

theorem fetch_ins (m : FMap α) (i j : Nat) (x : α) : fetch (ins m i x) j = if j = i then some x else fetch m j := by
  induction m with
  | nil => simp [ins, fetch, eq_comm]
  | cons p m ih =>
    obtain ⟨k, v⟩ := p
    simp only [ins]
    split
    · simp only [fetch]
    · split
      · subst k; simp only [fetch]
        by_cases h : j = i <;> simp [h]
      · simp only [fetch, ih]
        by_cases h : j = k
        · subst h; simp; omega
        · simp [h]

@[simp] theorem fetch_ins_same (m : FMap α) (i : Nat) (x : α) : fetch (ins m i x) i = some x := by simp [fetch_ins]

theorem fetch_ins_of_ne (m : FMap α) {i j : Nat} (x : α) (h : j ≠ i) : fetch (ins m i x) j = fetch m j := by
  simp [fetch_ins, h]

theorem fetch_del (m : FMap α) (i j : Nat) : fetch (del m i) j = if j = i then none else fetch m j := by
  induction m with
  | nil => simp [del]
  | cons p m ih =>
    obtain ⟨k, v⟩ := p
    simp only [del]
    split
    · subst k; simp only [fetch, ih]
      by_cases h : j = i <;> simp [h]
    · simp only [fetch, ih]
      by_cases h : j = k
      · subst h; simp; omega
      · simp [h]

theorem fetch_upd (m : FMap α) (i j : Nat) (f : α → α) :
    fetch (upd m i f) j = if j = i then (fetch m i).map f else fetch m j := by
  unfold upd
  split <;> rename_i h
  · by_cases hj : j = i <;> simp [hj, h]
  · by_cases hj : j = i <;> simp [fetch_ins, hj, h]

theorem upd_of_fetch {m : FMap α} {i : Nat} {v : α} (h : fetch m i = some v) (f : α → α) : upd m i f = ins m i (f v) := by
  simp [upd, h]

theorem upd_of_none {m : FMap α} {i : Nat} (h : fetch m i = none) (f : α → α) : upd m i f = m := by
  simp [upd, h]

theorem ins_ins (m : FMap α) (i : Nat) (x y : α) : ins (ins m i x) i y = ins m i y := by
  induction m with
  | nil => simp [ins]
  | cons p m ih =>
    obtain ⟨k, v⟩ := p
    simp only [ins]
    split
    · simp [ins]
    · split
      · simp [ins]
      · rename_i h1 h2
        simp [ins, h1, h2, ih]

theorem upd_ins (m : FMap α) (i : Nat) (x : α) (f : α → α) : upd (ins m i x) i f = ins m i (f x) := by
  rw [upd_of_fetch (fetch_ins_same m i x), ins_ins]

theorem at'_ins (d : α) (m : FMap α) (i j : Nat) (x : α) : at' d (ins m i x) j = if j = i then x else at' d m j := by
  unfold at'; rw [fetch_ins]; split <;> rfl

theorem at'_del (d : α) (m : FMap α) (i j : Nat) : at' d (del m i) j = if j = i then d else at' d m j := by
  unfold at'; rw [fetch_del]; split <;> rfl

theorem at'_put [DecidableEq α] (d : α) (m : FMap α) (i j : Nat) (x : α) :
    at' d (put d m i x) j = if j = i then x else at' d m j := by
  unfold put
  split
  · rename_i h; rw [at'_del, h]
  · rw [at'_ins]

@[simp] theorem at'_put_same [DecidableEq α] (d : α) (m : FMap α) (i : Nat) (x : α) : at' d (put d m i x) i = x := by
  simp [at'_put]

theorem at'_put_of_ne [DecidableEq α] (d : α) (m : FMap α) {i j : Nat} (x : α) (h : j ≠ i) :
    at' d (put d m i x) j = at' d m j := by simp [at'_put, h]

theorem fetch_dropKeys (m : FMap α) (p : Nat → Bool) (j : Nat) :
    fetch (dropKeys m p) j = if p j then none else fetch m j := by
  unfold dropKeys
  induction m with
  | nil => simp
  | cons e m ih =>
    obtain ⟨k, v⟩ := e
    by_cases hk : p k
    · simp only [List.filter_cons, hk]
      simp only [Bool.not_true, Bool.false_eq_true, if_false, ih, fetch]
      by_cases hj : j = k
      · subst hj; simp [hk]
      · simp [hj]
    · simp only [List.filter_cons, hk]
      simp only [Bool.not_false, if_true, fetch, ih]
      by_cases hj : j = k
      · subst hj; simp [hk]
      · simp [hj]

/-! ### The canonical form -/

theorem above_mono {m : FMap α} {a b : Nat} (h : a ≤ b) (hb : above (some b) m = true) : above (some a) m = true := by
  cases m with
  | nil => rfl
  | cons p m =>
    obtain ⟨k, v⟩ := p
    simp only [above, Bool.and_eq_true, decide_eq_true_eq] at hb ⊢
    exact ⟨by omega, hb.2⟩

theorem above_some_of_none {k : Nat} {v : α} {m : FMap α} (h : above none ((k, v) :: m) = true) : above (some k) m = true := h

theorem above_ins {m : FMap α} {b i : Nat} (x : α) (hb : b < i) (h : above (some b) m = true) : above (some b) (ins m i x) = true := by
  induction m generalizing b with
  | nil => simp [ins, above, hb]
  | cons p m ih =>
    obtain ⟨k, v⟩ := p
    simp only [above, Bool.and_eq_true, decide_eq_true_eq] at h
    simp only [ins]
    split
    · rename_i hik; simp [above, hb, hik, h.2]
    · split
      · rename_i hik; subst hik; simp [above, h]
      · simp only [above, Bool.and_eq_true, decide_eq_true_eq]
        exact ⟨h.1, ih (by omega) h.2⟩

theorem above_del {m : FMap α} {b : Nat} (i : Nat) (h : above (some b) m = true) : above (some b) (del m i) = true := by
  induction m generalizing b with
  | nil => rfl
  | cons p m ih =>
    obtain ⟨k, v⟩ := p
    simp only [above, Bool.and_eq_true, decide_eq_true_eq] at h
    simp only [del]
    split
    · exact above_mono (by omega) (ih h.2)
    · simp only [above, Bool.and_eq_true, decide_eq_true_eq]
      exact ⟨h.1, ih h.2⟩

theorem sorted_ins {m : FMap α} (i : Nat) (x : α) (h : sorted m = true) : sorted (ins m i x) = true := by
  cases m with
  | nil => rfl
  | cons p m =>
    obtain ⟨k, v⟩ := p
    unfold sorted at h ⊢
    simp only [ins]
    split
    · rename_i hik
      simp only [above, Bool.and_eq_true, decide_eq_true_eq] at h ⊢
      exact ⟨hik, h⟩
    · split
      · rename_i hik; subst hik; exact h
      · exact above_ins x (by omega) (above_some_of_none h)

theorem sorted_of_above {m : FMap α} {b : Nat} (h : above (some b) m = true) : sorted m = true := by
  cases m with
  | nil => rfl
  | cons p m =>
    obtain ⟨k, v⟩ := p
    simp only [above, Bool.and_eq_true] at h
    exact h.2

theorem sorted_del {m : FMap α} (i : Nat) (h : sorted m = true) : sorted (del m i) = true := by
  cases m with
  | nil => rfl
  | cons p m =>
    obtain ⟨k, v⟩ := p
    simp only [del]
    split
    · exact sorted_of_above (above_del i (above_some_of_none h))
    · exact above_del i (above_some_of_none h)

theorem mem_ins {m : FMap α} {i : Nat} {x : α} {p : Nat × α} (h : p ∈ ins m i x) : p = (i, x) ∨ p ∈ m := by
  induction m with
  | nil => exact .inl (by simpa [ins] using h)
  | cons q m ih =>
    obtain ⟨k, v⟩ := q
    simp only [ins] at h
    split at h
    · simpa using h
    · split at h
      · rcases List.mem_cons.mp h with h | h
        · exact .inl h
        · exact .inr (List.mem_cons_of_mem _ h)
      · rcases List.mem_cons.mp h with h | h
        · exact .inr (h ▸ List.mem_cons_self ..)
        · exact (ih h).imp id (List.mem_cons_of_mem _)

theorem mem_of_mem_del {m : FMap α} {i : Nat} {p : Nat × α} (h : p ∈ del m i) : p ∈ m := by
  induction m with
  | nil => simp [del] at h
  | cons q m ih =>
    obtain ⟨k, v⟩ := q
    simp only [del] at h
    split at h
    · exact List.mem_cons_of_mem _ (ih h)
    · rcases List.mem_cons.mp h with h | h
      · exact h ▸ List.mem_cons_self ..
      · exact List.mem_cons_of_mem _ (ih h)

/-- A write keeps the canonical form. -/
theorem canon_put [DecidableEq α] {d : α} {m : FMap α} (i : Nat) (x : α) (h : canon d m = true) : canon d (put d m i x) = true := by
  simp only [canon, Bool.and_eq_true, List.all_eq_true, decide_eq_true_eq] at h ⊢
  unfold put
  split
  · exact ⟨sorted_del i h.1, fun p hp => h.2 p (mem_of_mem_del hp)⟩
  · rename_i hx
    refine ⟨sorted_ins i x h.1, fun p hp => ?_⟩
    rcases mem_ins hp with rfl | hp
    · exact hx
    · exact h.2 p hp

theorem fetch_of_above {m : FMap α} {b j : Nat} (h : above (some b) m = true) (hj : j ≤ b) : fetch m j = none := by
  induction m generalizing b with
  | nil => rfl
  | cons p m ih =>
    obtain ⟨k, v⟩ := p
    simp only [above, Bool.and_eq_true, decide_eq_true_eq] at h
    simp only [fetch]
    rw [if_neg (by omega)]
    exact ih h.2 (by omega)

/-- In a canonical map a key reads as the default exactly when it is not listed. -/
theorem fetch_eq_none_iff [DecidableEq α] {d : α} {m : FMap α} (h : canon d m = true) (i : Nat) :
    fetch m i = none ↔ at' d m i = d := by
  simp only [canon, Bool.and_eq_true, List.all_eq_true, decide_eq_true_eq] at h
  refine ⟨fun hn => by simp [at', hn], fun ha => ?_⟩
  cases hf : fetch m i with
  | none => rfl
  | some v =>
    have hmem : (i, v) ∈ m := by
      clear h ha
      induction m with
      | nil => simp at hf
      | cons q m ih =>
        obtain ⟨k, u⟩ := q
        simp only [fetch] at hf
        split at hf
        · rename_i hk; subst hk; cases hf; exact List.mem_cons_self ..
        · exact List.mem_cons_of_mem _ (ih hf)
    have := h.2 _ hmem
    simp only [at', hf, Option.getD_some] at ha
    exact absurd ha this

end Sys2Proof.FMap
end

