-- ==== Sys2Proof/Laws/State.lean ====
section
/-! SUPPORT. What each replacement of a part of the state does to each field: one equation per field and replacement. -/
namespace Sys2Proof.Machine
namespace State

/-! ### `setCore` -/

@[simp] theorem setCore_dram (s : State) (g : Nat) (c : Core) : (s.setCore g c).dram = s.dram := rfl
@[simp] theorem setCore_l2d (s : State) (g : Nat) (c : Core) : (s.setCore g c).l2d = s.l2d := rfl
@[simp] theorem setCore_lfl (s : State) (g : Nat) (c : Core) : (s.setCore g c).lfl = s.lfl := rfl
@[simp] theorem setCore_poison (s : State) (g : Nat) (c : Core) : (s.setCore g c).poison = s.poison := rfl
@[simp] theorem setCore_hard (s : State) (g : Nat) (c : Core) : (s.setCore g c).hard = s.hard := rfl
@[simp] theorem setCore_peerMem (s : State) (g : Nat) (c : Core) : (s.setCore g c).peerMem = s.peerMem := rfl
@[simp] theorem setCore_hostMem (s : State) (g : Nat) (c : Core) : (s.setCore g c).hostMem = s.hostMem := rfl
@[simp] theorem setCore_peerCopy (s : State) (g : Nat) (c : Core) : (s.setCore g c).peerCopy = s.peerCopy := rfl
@[simp] theorem setCore_dirCopy (s : State) (g : Nat) (c : Core) : (s.setCore g c).dirCopy = s.dirCopy := rfl
@[simp] theorem setCore_reserved (s : State) (g : Nat) (c : Core) : (s.setCore g c).reserved = s.reserved := rfl
@[simp] theorem setCore_peerSlots (s : State) (g : Nat) (c : Core) : (s.setCore g c).peerSlots = s.peerSlots := rfl
@[simp] theorem setCore_watch (s : State) (g : Nat) (c : Core) : (s.setCore g c).watch = s.watch := rfl
@[simp] theorem setCore_linkq (s : State) (g : Nat) (c : Core) : (s.setCore g c).linkq = s.linkq := rfl
@[simp] theorem setCore_cores (s : State) (g : Nat) (c : Core) : (s.setCore g c).cores = s.cores.ins g c := rfl
@[simp] theorem setCore_waves (s : State) (g : Nat) (c : Core) : (s.setCore g c).waves = s.waves := rfl
@[simp] theorem setCore_teams (s : State) (g : Nat) (c : Core) : (s.setCore g c).teams = s.teams := rfl
@[simp] theorem setCore_grids (s : State) (g : Nat) (c : Core) : (s.setCore g c).grids = s.grids := rfl
@[simp] theorem setCore_kept (s : State) (g : Nat) (c : Core) : (s.setCore g c).kept = s.kept := rfl
@[simp] theorem setCore_dies (s : State) (g : Nat) (c : Core) : (s.setCore g c).dies = s.dies := rfl
@[simp] theorem setCore_stks (s : State) (g : Nat) (c : Core) : (s.setCore g c).stks = s.stks := rfl
@[simp] theorem setCore_kbase (s : State) (g : Nat) (c : Core) : (s.setCore g c).kbase = s.kbase := rfl
@[simp] theorem setCore_klog2n (s : State) (g : Nat) (c : Core) : (s.setCore g c).klog2n = s.klog2n := rfl
@[simp] theorem setCore_kitty (s : State) (g : Nat) (c : Core) : (s.setCore g c).kitty = s.kitty := rfl
@[simp] theorem setCore_kittyTook (s : State) (g : Nat) (c : Core) : (s.setCore g c).kittyTook = s.kittyTook := rfl
@[simp] theorem setCore_saves (s : State) (g : Nat) (c : Core) : (s.setCore g c).saves = s.saves := rfl
@[simp] theorem setCore_nextId (s : State) (g : Nat) (c : Core) : (s.setCore g c).nextId = s.nextId := rfl
@[simp] theorem setCore_cc (s : State) (g : Nat) (c : Core) : (s.setCore g c).cc = s.cc := rfl
@[simp] theorem setCore_phase (s : State) (g : Nat) (c : Core) : (s.setCore g c).phase = s.phase := rfl
@[simp] theorem setCore_cur (s : State) (g : Nat) (c : Core) : (s.setCore g c).cur = s.cur := rfl
@[simp] theorem setCore_agenda (s : State) (g : Nat) (c : Core) : (s.setCore g c).agenda = s.agenda := rfl
@[simp] theorem setCore_free (s : State) (g : Nat) (c : Core) : (s.setCore g c).free = s.free := rfl
@[simp] theorem setCore_reply (s : State) (g : Nat) (c : Core) : (s.setCore g c).reply = s.reply := rfl

/-! ### `updCore` -/

@[simp] theorem updCore_dram (s : State) (g : Nat) (f : Core → Core) : (s.updCore g f).dram = s.dram := rfl
@[simp] theorem updCore_l2d (s : State) (g : Nat) (f : Core → Core) : (s.updCore g f).l2d = s.l2d := rfl
@[simp] theorem updCore_lfl (s : State) (g : Nat) (f : Core → Core) : (s.updCore g f).lfl = s.lfl := rfl
@[simp] theorem updCore_poison (s : State) (g : Nat) (f : Core → Core) : (s.updCore g f).poison = s.poison := rfl
@[simp] theorem updCore_hard (s : State) (g : Nat) (f : Core → Core) : (s.updCore g f).hard = s.hard := rfl
@[simp] theorem updCore_peerMem (s : State) (g : Nat) (f : Core → Core) : (s.updCore g f).peerMem = s.peerMem := rfl
@[simp] theorem updCore_hostMem (s : State) (g : Nat) (f : Core → Core) : (s.updCore g f).hostMem = s.hostMem := rfl
@[simp] theorem updCore_peerCopy (s : State) (g : Nat) (f : Core → Core) : (s.updCore g f).peerCopy = s.peerCopy := rfl
@[simp] theorem updCore_dirCopy (s : State) (g : Nat) (f : Core → Core) : (s.updCore g f).dirCopy = s.dirCopy := rfl
@[simp] theorem updCore_reserved (s : State) (g : Nat) (f : Core → Core) : (s.updCore g f).reserved = s.reserved := rfl
@[simp] theorem updCore_peerSlots (s : State) (g : Nat) (f : Core → Core) : (s.updCore g f).peerSlots = s.peerSlots := rfl
@[simp] theorem updCore_watch (s : State) (g : Nat) (f : Core → Core) : (s.updCore g f).watch = s.watch := rfl
@[simp] theorem updCore_linkq (s : State) (g : Nat) (f : Core → Core) : (s.updCore g f).linkq = s.linkq := rfl
@[simp] theorem updCore_cores (s : State) (g : Nat) (f : Core → Core) : (s.updCore g f).cores = s.cores.ins g (f (s.core g)) := rfl
@[simp] theorem updCore_waves (s : State) (g : Nat) (f : Core → Core) : (s.updCore g f).waves = s.waves := rfl
@[simp] theorem updCore_teams (s : State) (g : Nat) (f : Core → Core) : (s.updCore g f).teams = s.teams := rfl
@[simp] theorem updCore_grids (s : State) (g : Nat) (f : Core → Core) : (s.updCore g f).grids = s.grids := rfl
@[simp] theorem updCore_kept (s : State) (g : Nat) (f : Core → Core) : (s.updCore g f).kept = s.kept := rfl
@[simp] theorem updCore_dies (s : State) (g : Nat) (f : Core → Core) : (s.updCore g f).dies = s.dies := rfl
@[simp] theorem updCore_stks (s : State) (g : Nat) (f : Core → Core) : (s.updCore g f).stks = s.stks := rfl
@[simp] theorem updCore_kbase (s : State) (g : Nat) (f : Core → Core) : (s.updCore g f).kbase = s.kbase := rfl
@[simp] theorem updCore_klog2n (s : State) (g : Nat) (f : Core → Core) : (s.updCore g f).klog2n = s.klog2n := rfl
@[simp] theorem updCore_kitty (s : State) (g : Nat) (f : Core → Core) : (s.updCore g f).kitty = s.kitty := rfl
@[simp] theorem updCore_kittyTook (s : State) (g : Nat) (f : Core → Core) : (s.updCore g f).kittyTook = s.kittyTook := rfl
@[simp] theorem updCore_saves (s : State) (g : Nat) (f : Core → Core) : (s.updCore g f).saves = s.saves := rfl
@[simp] theorem updCore_nextId (s : State) (g : Nat) (f : Core → Core) : (s.updCore g f).nextId = s.nextId := rfl
@[simp] theorem updCore_cc (s : State) (g : Nat) (f : Core → Core) : (s.updCore g f).cc = s.cc := rfl
@[simp] theorem updCore_phase (s : State) (g : Nat) (f : Core → Core) : (s.updCore g f).phase = s.phase := rfl
@[simp] theorem updCore_cur (s : State) (g : Nat) (f : Core → Core) : (s.updCore g f).cur = s.cur := rfl
@[simp] theorem updCore_agenda (s : State) (g : Nat) (f : Core → Core) : (s.updCore g f).agenda = s.agenda := rfl
@[simp] theorem updCore_free (s : State) (g : Nat) (f : Core → Core) : (s.updCore g f).free = s.free := rfl
@[simp] theorem updCore_reply (s : State) (g : Nat) (f : Core → Core) : (s.updCore g f).reply = s.reply := rfl

/-! ### `setDie` -/

@[simp] theorem setDie_dram (s : State) (d : Nat) (x : Die) : (s.setDie d x).dram = s.dram := rfl
@[simp] theorem setDie_l2d (s : State) (d : Nat) (x : Die) : (s.setDie d x).l2d = s.l2d := rfl
@[simp] theorem setDie_lfl (s : State) (d : Nat) (x : Die) : (s.setDie d x).lfl = s.lfl := rfl
@[simp] theorem setDie_poison (s : State) (d : Nat) (x : Die) : (s.setDie d x).poison = s.poison := rfl
@[simp] theorem setDie_hard (s : State) (d : Nat) (x : Die) : (s.setDie d x).hard = s.hard := rfl
@[simp] theorem setDie_peerMem (s : State) (d : Nat) (x : Die) : (s.setDie d x).peerMem = s.peerMem := rfl
@[simp] theorem setDie_hostMem (s : State) (d : Nat) (x : Die) : (s.setDie d x).hostMem = s.hostMem := rfl
@[simp] theorem setDie_peerCopy (s : State) (d : Nat) (x : Die) : (s.setDie d x).peerCopy = s.peerCopy := rfl
@[simp] theorem setDie_dirCopy (s : State) (d : Nat) (x : Die) : (s.setDie d x).dirCopy = s.dirCopy := rfl
@[simp] theorem setDie_reserved (s : State) (d : Nat) (x : Die) : (s.setDie d x).reserved = s.reserved := rfl
@[simp] theorem setDie_peerSlots (s : State) (d : Nat) (x : Die) : (s.setDie d x).peerSlots = s.peerSlots := rfl
@[simp] theorem setDie_watch (s : State) (d : Nat) (x : Die) : (s.setDie d x).watch = s.watch := rfl
@[simp] theorem setDie_linkq (s : State) (d : Nat) (x : Die) : (s.setDie d x).linkq = s.linkq := rfl
@[simp] theorem setDie_cores (s : State) (d : Nat) (x : Die) : (s.setDie d x).cores = s.cores := rfl
@[simp] theorem setDie_waves (s : State) (d : Nat) (x : Die) : (s.setDie d x).waves = s.waves := rfl
@[simp] theorem setDie_teams (s : State) (d : Nat) (x : Die) : (s.setDie d x).teams = s.teams := rfl
@[simp] theorem setDie_grids (s : State) (d : Nat) (x : Die) : (s.setDie d x).grids = s.grids := rfl
@[simp] theorem setDie_kept (s : State) (d : Nat) (x : Die) : (s.setDie d x).kept = s.kept := rfl
@[simp] theorem setDie_dies (s : State) (d : Nat) (x : Die) : (s.setDie d x).dies = s.dies.ins d x := rfl
@[simp] theorem setDie_stks (s : State) (d : Nat) (x : Die) : (s.setDie d x).stks = s.stks := rfl
@[simp] theorem setDie_kbase (s : State) (d : Nat) (x : Die) : (s.setDie d x).kbase = s.kbase := rfl
@[simp] theorem setDie_klog2n (s : State) (d : Nat) (x : Die) : (s.setDie d x).klog2n = s.klog2n := rfl
@[simp] theorem setDie_kitty (s : State) (d : Nat) (x : Die) : (s.setDie d x).kitty = s.kitty := rfl
@[simp] theorem setDie_kittyTook (s : State) (d : Nat) (x : Die) : (s.setDie d x).kittyTook = s.kittyTook := rfl
@[simp] theorem setDie_saves (s : State) (d : Nat) (x : Die) : (s.setDie d x).saves = s.saves := rfl
@[simp] theorem setDie_nextId (s : State) (d : Nat) (x : Die) : (s.setDie d x).nextId = s.nextId := rfl
@[simp] theorem setDie_cc (s : State) (d : Nat) (x : Die) : (s.setDie d x).cc = s.cc := rfl
@[simp] theorem setDie_phase (s : State) (d : Nat) (x : Die) : (s.setDie d x).phase = s.phase := rfl
@[simp] theorem setDie_cur (s : State) (d : Nat) (x : Die) : (s.setDie d x).cur = s.cur := rfl
@[simp] theorem setDie_agenda (s : State) (d : Nat) (x : Die) : (s.setDie d x).agenda = s.agenda := rfl
@[simp] theorem setDie_free (s : State) (d : Nat) (x : Die) : (s.setDie d x).free = s.free := rfl
@[simp] theorem setDie_reply (s : State) (d : Nat) (x : Die) : (s.setDie d x).reply = s.reply := rfl

/-! ### `updDie` -/

@[simp] theorem updDie_dram (s : State) (d : Nat) (f : Die → Die) : (s.updDie d f).dram = s.dram := rfl
@[simp] theorem updDie_l2d (s : State) (d : Nat) (f : Die → Die) : (s.updDie d f).l2d = s.l2d := rfl
@[simp] theorem updDie_lfl (s : State) (d : Nat) (f : Die → Die) : (s.updDie d f).lfl = s.lfl := rfl
@[simp] theorem updDie_poison (s : State) (d : Nat) (f : Die → Die) : (s.updDie d f).poison = s.poison := rfl
@[simp] theorem updDie_hard (s : State) (d : Nat) (f : Die → Die) : (s.updDie d f).hard = s.hard := rfl
@[simp] theorem updDie_peerMem (s : State) (d : Nat) (f : Die → Die) : (s.updDie d f).peerMem = s.peerMem := rfl
@[simp] theorem updDie_hostMem (s : State) (d : Nat) (f : Die → Die) : (s.updDie d f).hostMem = s.hostMem := rfl
@[simp] theorem updDie_peerCopy (s : State) (d : Nat) (f : Die → Die) : (s.updDie d f).peerCopy = s.peerCopy := rfl
@[simp] theorem updDie_dirCopy (s : State) (d : Nat) (f : Die → Die) : (s.updDie d f).dirCopy = s.dirCopy := rfl
@[simp] theorem updDie_reserved (s : State) (d : Nat) (f : Die → Die) : (s.updDie d f).reserved = s.reserved := rfl
@[simp] theorem updDie_peerSlots (s : State) (d : Nat) (f : Die → Die) : (s.updDie d f).peerSlots = s.peerSlots := rfl
@[simp] theorem updDie_watch (s : State) (d : Nat) (f : Die → Die) : (s.updDie d f).watch = s.watch := rfl
@[simp] theorem updDie_linkq (s : State) (d : Nat) (f : Die → Die) : (s.updDie d f).linkq = s.linkq := rfl
@[simp] theorem updDie_cores (s : State) (d : Nat) (f : Die → Die) : (s.updDie d f).cores = s.cores := rfl
@[simp] theorem updDie_waves (s : State) (d : Nat) (f : Die → Die) : (s.updDie d f).waves = s.waves := rfl
@[simp] theorem updDie_teams (s : State) (d : Nat) (f : Die → Die) : (s.updDie d f).teams = s.teams := rfl
@[simp] theorem updDie_grids (s : State) (d : Nat) (f : Die → Die) : (s.updDie d f).grids = s.grids := rfl
@[simp] theorem updDie_kept (s : State) (d : Nat) (f : Die → Die) : (s.updDie d f).kept = s.kept := rfl
@[simp] theorem updDie_dies (s : State) (d : Nat) (f : Die → Die) : (s.updDie d f).dies = s.dies.ins d (f (s.die d)) := rfl
@[simp] theorem updDie_stks (s : State) (d : Nat) (f : Die → Die) : (s.updDie d f).stks = s.stks := rfl
@[simp] theorem updDie_kbase (s : State) (d : Nat) (f : Die → Die) : (s.updDie d f).kbase = s.kbase := rfl
@[simp] theorem updDie_klog2n (s : State) (d : Nat) (f : Die → Die) : (s.updDie d f).klog2n = s.klog2n := rfl
@[simp] theorem updDie_kitty (s : State) (d : Nat) (f : Die → Die) : (s.updDie d f).kitty = s.kitty := rfl
@[simp] theorem updDie_kittyTook (s : State) (d : Nat) (f : Die → Die) : (s.updDie d f).kittyTook = s.kittyTook := rfl
@[simp] theorem updDie_saves (s : State) (d : Nat) (f : Die → Die) : (s.updDie d f).saves = s.saves := rfl
@[simp] theorem updDie_nextId (s : State) (d : Nat) (f : Die → Die) : (s.updDie d f).nextId = s.nextId := rfl
@[simp] theorem updDie_cc (s : State) (d : Nat) (f : Die → Die) : (s.updDie d f).cc = s.cc := rfl
@[simp] theorem updDie_phase (s : State) (d : Nat) (f : Die → Die) : (s.updDie d f).phase = s.phase := rfl
@[simp] theorem updDie_cur (s : State) (d : Nat) (f : Die → Die) : (s.updDie d f).cur = s.cur := rfl
@[simp] theorem updDie_agenda (s : State) (d : Nat) (f : Die → Die) : (s.updDie d f).agenda = s.agenda := rfl
@[simp] theorem updDie_free (s : State) (d : Nat) (f : Die → Die) : (s.updDie d f).free = s.free := rfl
@[simp] theorem updDie_reply (s : State) (d : Nat) (f : Die → Die) : (s.updDie d f).reply = s.reply := rfl

/-! ### `setStk` -/

@[simp] theorem setStk_dram (s : State) (n : Nat) (x : Stack) : (s.setStk n x).dram = s.dram := rfl
@[simp] theorem setStk_l2d (s : State) (n : Nat) (x : Stack) : (s.setStk n x).l2d = s.l2d := rfl
@[simp] theorem setStk_lfl (s : State) (n : Nat) (x : Stack) : (s.setStk n x).lfl = s.lfl := rfl
@[simp] theorem setStk_poison (s : State) (n : Nat) (x : Stack) : (s.setStk n x).poison = s.poison := rfl
@[simp] theorem setStk_hard (s : State) (n : Nat) (x : Stack) : (s.setStk n x).hard = s.hard := rfl
@[simp] theorem setStk_peerMem (s : State) (n : Nat) (x : Stack) : (s.setStk n x).peerMem = s.peerMem := rfl
@[simp] theorem setStk_hostMem (s : State) (n : Nat) (x : Stack) : (s.setStk n x).hostMem = s.hostMem := rfl
@[simp] theorem setStk_peerCopy (s : State) (n : Nat) (x : Stack) : (s.setStk n x).peerCopy = s.peerCopy := rfl
@[simp] theorem setStk_dirCopy (s : State) (n : Nat) (x : Stack) : (s.setStk n x).dirCopy = s.dirCopy := rfl
@[simp] theorem setStk_reserved (s : State) (n : Nat) (x : Stack) : (s.setStk n x).reserved = s.reserved := rfl
@[simp] theorem setStk_peerSlots (s : State) (n : Nat) (x : Stack) : (s.setStk n x).peerSlots = s.peerSlots := rfl
@[simp] theorem setStk_watch (s : State) (n : Nat) (x : Stack) : (s.setStk n x).watch = s.watch := rfl
@[simp] theorem setStk_linkq (s : State) (n : Nat) (x : Stack) : (s.setStk n x).linkq = s.linkq := rfl
@[simp] theorem setStk_cores (s : State) (n : Nat) (x : Stack) : (s.setStk n x).cores = s.cores := rfl
@[simp] theorem setStk_waves (s : State) (n : Nat) (x : Stack) : (s.setStk n x).waves = s.waves := rfl
@[simp] theorem setStk_teams (s : State) (n : Nat) (x : Stack) : (s.setStk n x).teams = s.teams := rfl
@[simp] theorem setStk_grids (s : State) (n : Nat) (x : Stack) : (s.setStk n x).grids = s.grids := rfl
@[simp] theorem setStk_kept (s : State) (n : Nat) (x : Stack) : (s.setStk n x).kept = s.kept := rfl
@[simp] theorem setStk_dies (s : State) (n : Nat) (x : Stack) : (s.setStk n x).dies = s.dies := rfl
@[simp] theorem setStk_stks (s : State) (n : Nat) (x : Stack) : (s.setStk n x).stks = s.stks.ins n x := rfl
@[simp] theorem setStk_kbase (s : State) (n : Nat) (x : Stack) : (s.setStk n x).kbase = s.kbase := rfl
@[simp] theorem setStk_klog2n (s : State) (n : Nat) (x : Stack) : (s.setStk n x).klog2n = s.klog2n := rfl
@[simp] theorem setStk_kitty (s : State) (n : Nat) (x : Stack) : (s.setStk n x).kitty = s.kitty := rfl
@[simp] theorem setStk_kittyTook (s : State) (n : Nat) (x : Stack) : (s.setStk n x).kittyTook = s.kittyTook := rfl
@[simp] theorem setStk_saves (s : State) (n : Nat) (x : Stack) : (s.setStk n x).saves = s.saves := rfl
@[simp] theorem setStk_nextId (s : State) (n : Nat) (x : Stack) : (s.setStk n x).nextId = s.nextId := rfl
@[simp] theorem setStk_cc (s : State) (n : Nat) (x : Stack) : (s.setStk n x).cc = s.cc := rfl
@[simp] theorem setStk_phase (s : State) (n : Nat) (x : Stack) : (s.setStk n x).phase = s.phase := rfl
@[simp] theorem setStk_cur (s : State) (n : Nat) (x : Stack) : (s.setStk n x).cur = s.cur := rfl
@[simp] theorem setStk_agenda (s : State) (n : Nat) (x : Stack) : (s.setStk n x).agenda = s.agenda := rfl
@[simp] theorem setStk_free (s : State) (n : Nat) (x : Stack) : (s.setStk n x).free = s.free := rfl
@[simp] theorem setStk_reply (s : State) (n : Nat) (x : Stack) : (s.setStk n x).reply = s.reply := rfl

/-! ### `updStk` -/

@[simp] theorem updStk_dram (s : State) (n : Nat) (f : Stack → Stack) : (s.updStk n f).dram = s.dram := rfl
@[simp] theorem updStk_l2d (s : State) (n : Nat) (f : Stack → Stack) : (s.updStk n f).l2d = s.l2d := rfl
@[simp] theorem updStk_lfl (s : State) (n : Nat) (f : Stack → Stack) : (s.updStk n f).lfl = s.lfl := rfl
@[simp] theorem updStk_poison (s : State) (n : Nat) (f : Stack → Stack) : (s.updStk n f).poison = s.poison := rfl
@[simp] theorem updStk_hard (s : State) (n : Nat) (f : Stack → Stack) : (s.updStk n f).hard = s.hard := rfl
@[simp] theorem updStk_peerMem (s : State) (n : Nat) (f : Stack → Stack) : (s.updStk n f).peerMem = s.peerMem := rfl
@[simp] theorem updStk_hostMem (s : State) (n : Nat) (f : Stack → Stack) : (s.updStk n f).hostMem = s.hostMem := rfl
@[simp] theorem updStk_peerCopy (s : State) (n : Nat) (f : Stack → Stack) : (s.updStk n f).peerCopy = s.peerCopy := rfl
@[simp] theorem updStk_dirCopy (s : State) (n : Nat) (f : Stack → Stack) : (s.updStk n f).dirCopy = s.dirCopy := rfl
@[simp] theorem updStk_reserved (s : State) (n : Nat) (f : Stack → Stack) : (s.updStk n f).reserved = s.reserved := rfl
@[simp] theorem updStk_peerSlots (s : State) (n : Nat) (f : Stack → Stack) : (s.updStk n f).peerSlots = s.peerSlots := rfl
@[simp] theorem updStk_watch (s : State) (n : Nat) (f : Stack → Stack) : (s.updStk n f).watch = s.watch := rfl
@[simp] theorem updStk_linkq (s : State) (n : Nat) (f : Stack → Stack) : (s.updStk n f).linkq = s.linkq := rfl
@[simp] theorem updStk_cores (s : State) (n : Nat) (f : Stack → Stack) : (s.updStk n f).cores = s.cores := rfl
@[simp] theorem updStk_waves (s : State) (n : Nat) (f : Stack → Stack) : (s.updStk n f).waves = s.waves := rfl
@[simp] theorem updStk_teams (s : State) (n : Nat) (f : Stack → Stack) : (s.updStk n f).teams = s.teams := rfl
@[simp] theorem updStk_grids (s : State) (n : Nat) (f : Stack → Stack) : (s.updStk n f).grids = s.grids := rfl
@[simp] theorem updStk_kept (s : State) (n : Nat) (f : Stack → Stack) : (s.updStk n f).kept = s.kept := rfl
@[simp] theorem updStk_dies (s : State) (n : Nat) (f : Stack → Stack) : (s.updStk n f).dies = s.dies := rfl
@[simp] theorem updStk_stks (s : State) (n : Nat) (f : Stack → Stack) : (s.updStk n f).stks = s.stks.ins n (f (s.stk n)) := rfl
@[simp] theorem updStk_kbase (s : State) (n : Nat) (f : Stack → Stack) : (s.updStk n f).kbase = s.kbase := rfl
@[simp] theorem updStk_klog2n (s : State) (n : Nat) (f : Stack → Stack) : (s.updStk n f).klog2n = s.klog2n := rfl
@[simp] theorem updStk_kitty (s : State) (n : Nat) (f : Stack → Stack) : (s.updStk n f).kitty = s.kitty := rfl
@[simp] theorem updStk_kittyTook (s : State) (n : Nat) (f : Stack → Stack) : (s.updStk n f).kittyTook = s.kittyTook := rfl
@[simp] theorem updStk_saves (s : State) (n : Nat) (f : Stack → Stack) : (s.updStk n f).saves = s.saves := rfl
@[simp] theorem updStk_nextId (s : State) (n : Nat) (f : Stack → Stack) : (s.updStk n f).nextId = s.nextId := rfl
@[simp] theorem updStk_cc (s : State) (n : Nat) (f : Stack → Stack) : (s.updStk n f).cc = s.cc := rfl
@[simp] theorem updStk_phase (s : State) (n : Nat) (f : Stack → Stack) : (s.updStk n f).phase = s.phase := rfl
@[simp] theorem updStk_cur (s : State) (n : Nat) (f : Stack → Stack) : (s.updStk n f).cur = s.cur := rfl
@[simp] theorem updStk_agenda (s : State) (n : Nat) (f : Stack → Stack) : (s.updStk n f).agenda = s.agenda := rfl
@[simp] theorem updStk_free (s : State) (n : Nat) (f : Stack → Stack) : (s.updStk n f).free = s.free := rfl
@[simp] theorem updStk_reply (s : State) (n : Nat) (f : Stack → Stack) : (s.updStk n f).reply = s.reply := rfl

/-! ### `setWave` -/

@[simp] theorem setWave_dram (s : State) (k : Nat) (w : Wave) : (s.setWave k w).dram = s.dram := rfl
@[simp] theorem setWave_l2d (s : State) (k : Nat) (w : Wave) : (s.setWave k w).l2d = s.l2d := rfl
@[simp] theorem setWave_lfl (s : State) (k : Nat) (w : Wave) : (s.setWave k w).lfl = s.lfl := rfl
@[simp] theorem setWave_poison (s : State) (k : Nat) (w : Wave) : (s.setWave k w).poison = s.poison := rfl
@[simp] theorem setWave_hard (s : State) (k : Nat) (w : Wave) : (s.setWave k w).hard = s.hard := rfl
@[simp] theorem setWave_peerMem (s : State) (k : Nat) (w : Wave) : (s.setWave k w).peerMem = s.peerMem := rfl
@[simp] theorem setWave_hostMem (s : State) (k : Nat) (w : Wave) : (s.setWave k w).hostMem = s.hostMem := rfl
@[simp] theorem setWave_peerCopy (s : State) (k : Nat) (w : Wave) : (s.setWave k w).peerCopy = s.peerCopy := rfl
@[simp] theorem setWave_dirCopy (s : State) (k : Nat) (w : Wave) : (s.setWave k w).dirCopy = s.dirCopy := rfl
@[simp] theorem setWave_reserved (s : State) (k : Nat) (w : Wave) : (s.setWave k w).reserved = s.reserved := rfl
@[simp] theorem setWave_peerSlots (s : State) (k : Nat) (w : Wave) : (s.setWave k w).peerSlots = s.peerSlots := rfl
@[simp] theorem setWave_watch (s : State) (k : Nat) (w : Wave) : (s.setWave k w).watch = s.watch := rfl
@[simp] theorem setWave_linkq (s : State) (k : Nat) (w : Wave) : (s.setWave k w).linkq = s.linkq := rfl
@[simp] theorem setWave_cores (s : State) (k : Nat) (w : Wave) : (s.setWave k w).cores = s.cores := rfl
@[simp] theorem setWave_waves (s : State) (k : Nat) (w : Wave) : (s.setWave k w).waves = s.waves.ins k w := rfl
@[simp] theorem setWave_teams (s : State) (k : Nat) (w : Wave) : (s.setWave k w).teams = s.teams := rfl
@[simp] theorem setWave_grids (s : State) (k : Nat) (w : Wave) : (s.setWave k w).grids = s.grids := rfl
@[simp] theorem setWave_kept (s : State) (k : Nat) (w : Wave) : (s.setWave k w).kept = s.kept := rfl
@[simp] theorem setWave_dies (s : State) (k : Nat) (w : Wave) : (s.setWave k w).dies = s.dies := rfl
@[simp] theorem setWave_stks (s : State) (k : Nat) (w : Wave) : (s.setWave k w).stks = s.stks := rfl
@[simp] theorem setWave_kbase (s : State) (k : Nat) (w : Wave) : (s.setWave k w).kbase = s.kbase := rfl
@[simp] theorem setWave_klog2n (s : State) (k : Nat) (w : Wave) : (s.setWave k w).klog2n = s.klog2n := rfl
@[simp] theorem setWave_kitty (s : State) (k : Nat) (w : Wave) : (s.setWave k w).kitty = s.kitty := rfl
@[simp] theorem setWave_kittyTook (s : State) (k : Nat) (w : Wave) : (s.setWave k w).kittyTook = s.kittyTook := rfl
@[simp] theorem setWave_saves (s : State) (k : Nat) (w : Wave) : (s.setWave k w).saves = s.saves := rfl
@[simp] theorem setWave_nextId (s : State) (k : Nat) (w : Wave) : (s.setWave k w).nextId = s.nextId := rfl
@[simp] theorem setWave_cc (s : State) (k : Nat) (w : Wave) : (s.setWave k w).cc = s.cc := rfl
@[simp] theorem setWave_phase (s : State) (k : Nat) (w : Wave) : (s.setWave k w).phase = s.phase := rfl
@[simp] theorem setWave_cur (s : State) (k : Nat) (w : Wave) : (s.setWave k w).cur = s.cur := rfl
@[simp] theorem setWave_agenda (s : State) (k : Nat) (w : Wave) : (s.setWave k w).agenda = s.agenda := rfl
@[simp] theorem setWave_free (s : State) (k : Nat) (w : Wave) : (s.setWave k w).free = s.free := rfl
@[simp] theorem setWave_reply (s : State) (k : Nat) (w : Wave) : (s.setWave k w).reply = s.reply := rfl

/-! ### `updWave` -/

@[simp] theorem updWave_dram (s : State) (k : Nat) (f : Wave → Wave) : (s.updWave k f).dram = s.dram := rfl
@[simp] theorem updWave_l2d (s : State) (k : Nat) (f : Wave → Wave) : (s.updWave k f).l2d = s.l2d := rfl
@[simp] theorem updWave_lfl (s : State) (k : Nat) (f : Wave → Wave) : (s.updWave k f).lfl = s.lfl := rfl
@[simp] theorem updWave_poison (s : State) (k : Nat) (f : Wave → Wave) : (s.updWave k f).poison = s.poison := rfl
@[simp] theorem updWave_hard (s : State) (k : Nat) (f : Wave → Wave) : (s.updWave k f).hard = s.hard := rfl
@[simp] theorem updWave_peerMem (s : State) (k : Nat) (f : Wave → Wave) : (s.updWave k f).peerMem = s.peerMem := rfl
@[simp] theorem updWave_hostMem (s : State) (k : Nat) (f : Wave → Wave) : (s.updWave k f).hostMem = s.hostMem := rfl
@[simp] theorem updWave_peerCopy (s : State) (k : Nat) (f : Wave → Wave) : (s.updWave k f).peerCopy = s.peerCopy := rfl
@[simp] theorem updWave_dirCopy (s : State) (k : Nat) (f : Wave → Wave) : (s.updWave k f).dirCopy = s.dirCopy := rfl
@[simp] theorem updWave_reserved (s : State) (k : Nat) (f : Wave → Wave) : (s.updWave k f).reserved = s.reserved := rfl
@[simp] theorem updWave_peerSlots (s : State) (k : Nat) (f : Wave → Wave) : (s.updWave k f).peerSlots = s.peerSlots := rfl
@[simp] theorem updWave_watch (s : State) (k : Nat) (f : Wave → Wave) : (s.updWave k f).watch = s.watch := rfl
@[simp] theorem updWave_linkq (s : State) (k : Nat) (f : Wave → Wave) : (s.updWave k f).linkq = s.linkq := rfl
@[simp] theorem updWave_cores (s : State) (k : Nat) (f : Wave → Wave) : (s.updWave k f).cores = s.cores := rfl
@[simp] theorem updWave_waves (s : State) (k : Nat) (f : Wave → Wave) : (s.updWave k f).waves = s.waves.upd k f := rfl
@[simp] theorem updWave_teams (s : State) (k : Nat) (f : Wave → Wave) : (s.updWave k f).teams = s.teams := rfl
@[simp] theorem updWave_grids (s : State) (k : Nat) (f : Wave → Wave) : (s.updWave k f).grids = s.grids := rfl
@[simp] theorem updWave_kept (s : State) (k : Nat) (f : Wave → Wave) : (s.updWave k f).kept = s.kept := rfl
@[simp] theorem updWave_dies (s : State) (k : Nat) (f : Wave → Wave) : (s.updWave k f).dies = s.dies := rfl
@[simp] theorem updWave_stks (s : State) (k : Nat) (f : Wave → Wave) : (s.updWave k f).stks = s.stks := rfl
@[simp] theorem updWave_kbase (s : State) (k : Nat) (f : Wave → Wave) : (s.updWave k f).kbase = s.kbase := rfl
@[simp] theorem updWave_klog2n (s : State) (k : Nat) (f : Wave → Wave) : (s.updWave k f).klog2n = s.klog2n := rfl
@[simp] theorem updWave_kitty (s : State) (k : Nat) (f : Wave → Wave) : (s.updWave k f).kitty = s.kitty := rfl
@[simp] theorem updWave_kittyTook (s : State) (k : Nat) (f : Wave → Wave) : (s.updWave k f).kittyTook = s.kittyTook := rfl
@[simp] theorem updWave_saves (s : State) (k : Nat) (f : Wave → Wave) : (s.updWave k f).saves = s.saves := rfl
@[simp] theorem updWave_nextId (s : State) (k : Nat) (f : Wave → Wave) : (s.updWave k f).nextId = s.nextId := rfl
@[simp] theorem updWave_cc (s : State) (k : Nat) (f : Wave → Wave) : (s.updWave k f).cc = s.cc := rfl
@[simp] theorem updWave_phase (s : State) (k : Nat) (f : Wave → Wave) : (s.updWave k f).phase = s.phase := rfl
@[simp] theorem updWave_cur (s : State) (k : Nat) (f : Wave → Wave) : (s.updWave k f).cur = s.cur := rfl
@[simp] theorem updWave_agenda (s : State) (k : Nat) (f : Wave → Wave) : (s.updWave k f).agenda = s.agenda := rfl
@[simp] theorem updWave_free (s : State) (k : Nat) (f : Wave → Wave) : (s.updWave k f).free = s.free := rfl
@[simp] theorem updWave_reply (s : State) (k : Nat) (f : Wave → Wave) : (s.updWave k f).reply = s.reply := rfl

/-! ### `setTeam` -/

@[simp] theorem setTeam_dram (s : State) (k : Nat) (x : Team) : (s.setTeam k x).dram = s.dram := rfl
@[simp] theorem setTeam_l2d (s : State) (k : Nat) (x : Team) : (s.setTeam k x).l2d = s.l2d := rfl
@[simp] theorem setTeam_lfl (s : State) (k : Nat) (x : Team) : (s.setTeam k x).lfl = s.lfl := rfl
@[simp] theorem setTeam_poison (s : State) (k : Nat) (x : Team) : (s.setTeam k x).poison = s.poison := rfl
@[simp] theorem setTeam_hard (s : State) (k : Nat) (x : Team) : (s.setTeam k x).hard = s.hard := rfl
@[simp] theorem setTeam_peerMem (s : State) (k : Nat) (x : Team) : (s.setTeam k x).peerMem = s.peerMem := rfl
@[simp] theorem setTeam_hostMem (s : State) (k : Nat) (x : Team) : (s.setTeam k x).hostMem = s.hostMem := rfl
@[simp] theorem setTeam_peerCopy (s : State) (k : Nat) (x : Team) : (s.setTeam k x).peerCopy = s.peerCopy := rfl
@[simp] theorem setTeam_dirCopy (s : State) (k : Nat) (x : Team) : (s.setTeam k x).dirCopy = s.dirCopy := rfl
@[simp] theorem setTeam_reserved (s : State) (k : Nat) (x : Team) : (s.setTeam k x).reserved = s.reserved := rfl
@[simp] theorem setTeam_peerSlots (s : State) (k : Nat) (x : Team) : (s.setTeam k x).peerSlots = s.peerSlots := rfl
@[simp] theorem setTeam_watch (s : State) (k : Nat) (x : Team) : (s.setTeam k x).watch = s.watch := rfl
@[simp] theorem setTeam_linkq (s : State) (k : Nat) (x : Team) : (s.setTeam k x).linkq = s.linkq := rfl
@[simp] theorem setTeam_cores (s : State) (k : Nat) (x : Team) : (s.setTeam k x).cores = s.cores := rfl
@[simp] theorem setTeam_waves (s : State) (k : Nat) (x : Team) : (s.setTeam k x).waves = s.waves := rfl
@[simp] theorem setTeam_teams (s : State) (k : Nat) (x : Team) : (s.setTeam k x).teams = s.teams.ins k x := rfl
@[simp] theorem setTeam_grids (s : State) (k : Nat) (x : Team) : (s.setTeam k x).grids = s.grids := rfl
@[simp] theorem setTeam_kept (s : State) (k : Nat) (x : Team) : (s.setTeam k x).kept = s.kept := rfl
@[simp] theorem setTeam_dies (s : State) (k : Nat) (x : Team) : (s.setTeam k x).dies = s.dies := rfl
@[simp] theorem setTeam_stks (s : State) (k : Nat) (x : Team) : (s.setTeam k x).stks = s.stks := rfl
@[simp] theorem setTeam_kbase (s : State) (k : Nat) (x : Team) : (s.setTeam k x).kbase = s.kbase := rfl
@[simp] theorem setTeam_klog2n (s : State) (k : Nat) (x : Team) : (s.setTeam k x).klog2n = s.klog2n := rfl
@[simp] theorem setTeam_kitty (s : State) (k : Nat) (x : Team) : (s.setTeam k x).kitty = s.kitty := rfl
@[simp] theorem setTeam_kittyTook (s : State) (k : Nat) (x : Team) : (s.setTeam k x).kittyTook = s.kittyTook := rfl
@[simp] theorem setTeam_saves (s : State) (k : Nat) (x : Team) : (s.setTeam k x).saves = s.saves := rfl
@[simp] theorem setTeam_nextId (s : State) (k : Nat) (x : Team) : (s.setTeam k x).nextId = s.nextId := rfl
@[simp] theorem setTeam_cc (s : State) (k : Nat) (x : Team) : (s.setTeam k x).cc = s.cc := rfl
@[simp] theorem setTeam_phase (s : State) (k : Nat) (x : Team) : (s.setTeam k x).phase = s.phase := rfl
@[simp] theorem setTeam_cur (s : State) (k : Nat) (x : Team) : (s.setTeam k x).cur = s.cur := rfl
@[simp] theorem setTeam_agenda (s : State) (k : Nat) (x : Team) : (s.setTeam k x).agenda = s.agenda := rfl
@[simp] theorem setTeam_free (s : State) (k : Nat) (x : Team) : (s.setTeam k x).free = s.free := rfl
@[simp] theorem setTeam_reply (s : State) (k : Nat) (x : Team) : (s.setTeam k x).reply = s.reply := rfl

/-! ### `updTeam` -/

@[simp] theorem updTeam_dram (s : State) (k : Nat) (f : Team → Team) : (s.updTeam k f).dram = s.dram := rfl
@[simp] theorem updTeam_l2d (s : State) (k : Nat) (f : Team → Team) : (s.updTeam k f).l2d = s.l2d := rfl
@[simp] theorem updTeam_lfl (s : State) (k : Nat) (f : Team → Team) : (s.updTeam k f).lfl = s.lfl := rfl
@[simp] theorem updTeam_poison (s : State) (k : Nat) (f : Team → Team) : (s.updTeam k f).poison = s.poison := rfl
@[simp] theorem updTeam_hard (s : State) (k : Nat) (f : Team → Team) : (s.updTeam k f).hard = s.hard := rfl
@[simp] theorem updTeam_peerMem (s : State) (k : Nat) (f : Team → Team) : (s.updTeam k f).peerMem = s.peerMem := rfl
@[simp] theorem updTeam_hostMem (s : State) (k : Nat) (f : Team → Team) : (s.updTeam k f).hostMem = s.hostMem := rfl
@[simp] theorem updTeam_peerCopy (s : State) (k : Nat) (f : Team → Team) : (s.updTeam k f).peerCopy = s.peerCopy := rfl
@[simp] theorem updTeam_dirCopy (s : State) (k : Nat) (f : Team → Team) : (s.updTeam k f).dirCopy = s.dirCopy := rfl
@[simp] theorem updTeam_reserved (s : State) (k : Nat) (f : Team → Team) : (s.updTeam k f).reserved = s.reserved := rfl
@[simp] theorem updTeam_peerSlots (s : State) (k : Nat) (f : Team → Team) : (s.updTeam k f).peerSlots = s.peerSlots := rfl
@[simp] theorem updTeam_watch (s : State) (k : Nat) (f : Team → Team) : (s.updTeam k f).watch = s.watch := rfl
@[simp] theorem updTeam_linkq (s : State) (k : Nat) (f : Team → Team) : (s.updTeam k f).linkq = s.linkq := rfl
@[simp] theorem updTeam_cores (s : State) (k : Nat) (f : Team → Team) : (s.updTeam k f).cores = s.cores := rfl
@[simp] theorem updTeam_waves (s : State) (k : Nat) (f : Team → Team) : (s.updTeam k f).waves = s.waves := rfl
@[simp] theorem updTeam_teams (s : State) (k : Nat) (f : Team → Team) : (s.updTeam k f).teams = s.teams.upd k f := rfl
@[simp] theorem updTeam_grids (s : State) (k : Nat) (f : Team → Team) : (s.updTeam k f).grids = s.grids := rfl
@[simp] theorem updTeam_kept (s : State) (k : Nat) (f : Team → Team) : (s.updTeam k f).kept = s.kept := rfl
@[simp] theorem updTeam_dies (s : State) (k : Nat) (f : Team → Team) : (s.updTeam k f).dies = s.dies := rfl
@[simp] theorem updTeam_stks (s : State) (k : Nat) (f : Team → Team) : (s.updTeam k f).stks = s.stks := rfl
@[simp] theorem updTeam_kbase (s : State) (k : Nat) (f : Team → Team) : (s.updTeam k f).kbase = s.kbase := rfl
@[simp] theorem updTeam_klog2n (s : State) (k : Nat) (f : Team → Team) : (s.updTeam k f).klog2n = s.klog2n := rfl
@[simp] theorem updTeam_kitty (s : State) (k : Nat) (f : Team → Team) : (s.updTeam k f).kitty = s.kitty := rfl
@[simp] theorem updTeam_kittyTook (s : State) (k : Nat) (f : Team → Team) : (s.updTeam k f).kittyTook = s.kittyTook := rfl
@[simp] theorem updTeam_saves (s : State) (k : Nat) (f : Team → Team) : (s.updTeam k f).saves = s.saves := rfl
@[simp] theorem updTeam_nextId (s : State) (k : Nat) (f : Team → Team) : (s.updTeam k f).nextId = s.nextId := rfl
@[simp] theorem updTeam_cc (s : State) (k : Nat) (f : Team → Team) : (s.updTeam k f).cc = s.cc := rfl
@[simp] theorem updTeam_phase (s : State) (k : Nat) (f : Team → Team) : (s.updTeam k f).phase = s.phase := rfl
@[simp] theorem updTeam_cur (s : State) (k : Nat) (f : Team → Team) : (s.updTeam k f).cur = s.cur := rfl
@[simp] theorem updTeam_agenda (s : State) (k : Nat) (f : Team → Team) : (s.updTeam k f).agenda = s.agenda := rfl
@[simp] theorem updTeam_free (s : State) (k : Nat) (f : Team → Team) : (s.updTeam k f).free = s.free := rfl
@[simp] theorem updTeam_reply (s : State) (k : Nat) (f : Team → Team) : (s.updTeam k f).reply = s.reply := rfl

/-! ### `tick` -/

@[simp] theorem tick_dram (s : State) : (s.tick).dram = s.dram := rfl
@[simp] theorem tick_l2d (s : State) : (s.tick).l2d = s.l2d := rfl
@[simp] theorem tick_lfl (s : State) : (s.tick).lfl = s.lfl := rfl
@[simp] theorem tick_poison (s : State) : (s.tick).poison = s.poison := rfl
@[simp] theorem tick_hard (s : State) : (s.tick).hard = s.hard := rfl
@[simp] theorem tick_peerMem (s : State) : (s.tick).peerMem = s.peerMem := rfl
@[simp] theorem tick_hostMem (s : State) : (s.tick).hostMem = s.hostMem := rfl
@[simp] theorem tick_peerCopy (s : State) : (s.tick).peerCopy = s.peerCopy := rfl
@[simp] theorem tick_dirCopy (s : State) : (s.tick).dirCopy = s.dirCopy := rfl
@[simp] theorem tick_reserved (s : State) : (s.tick).reserved = s.reserved := rfl
@[simp] theorem tick_peerSlots (s : State) : (s.tick).peerSlots = s.peerSlots := rfl
@[simp] theorem tick_watch (s : State) : (s.tick).watch = s.watch := rfl
@[simp] theorem tick_linkq (s : State) : (s.tick).linkq = s.linkq := rfl
@[simp] theorem tick_cores (s : State) : (s.tick).cores = s.cores := rfl
@[simp] theorem tick_waves (s : State) : (s.tick).waves = s.waves := rfl
@[simp] theorem tick_teams (s : State) : (s.tick).teams = s.teams := rfl
@[simp] theorem tick_grids (s : State) : (s.tick).grids = s.grids := rfl
@[simp] theorem tick_kept (s : State) : (s.tick).kept = s.kept := rfl
@[simp] theorem tick_dies (s : State) : (s.tick).dies = s.dies := rfl
@[simp] theorem tick_stks (s : State) : (s.tick).stks = s.stks := rfl
@[simp] theorem tick_kbase (s : State) : (s.tick).kbase = s.kbase := rfl
@[simp] theorem tick_klog2n (s : State) : (s.tick).klog2n = s.klog2n := rfl
@[simp] theorem tick_kitty (s : State) : (s.tick).kitty = s.kitty := rfl
@[simp] theorem tick_kittyTook (s : State) : (s.tick).kittyTook = s.kittyTook := rfl
@[simp] theorem tick_saves (s : State) : (s.tick).saves = s.saves := rfl
@[simp] theorem tick_nextId (s : State) : (s.tick).nextId = s.nextId := rfl
@[simp] theorem tick_cc (s : State) : (s.tick).cc = s.cc := rfl
@[simp] theorem tick_phase (s : State) : (s.tick).phase = s.phase := rfl
@[simp] theorem tick_cur (s : State) : (s.tick).cur = s.cur := rfl
@[simp] theorem tick_agenda (s : State) : (s.tick).agenda = s.agenda := rfl
@[simp] theorem tick_free (s : State) : (s.tick).free = s.free + 1 := rfl
@[simp] theorem tick_reply (s : State) : (s.tick).reply = s.reply := rfl

/-! ### `putDram` -/

@[simp] theorem putDram_dram (s : State) (pa : Nat) (b : W8) : (s.putDram pa b).dram = FMap.put 0 s.dram pa b := rfl
@[simp] theorem putDram_l2d (s : State) (pa : Nat) (b : W8) : (s.putDram pa b).l2d = s.l2d := rfl
@[simp] theorem putDram_lfl (s : State) (pa : Nat) (b : W8) : (s.putDram pa b).lfl = s.lfl := rfl
@[simp] theorem putDram_poison (s : State) (pa : Nat) (b : W8) : (s.putDram pa b).poison = s.poison := rfl
@[simp] theorem putDram_hard (s : State) (pa : Nat) (b : W8) : (s.putDram pa b).hard = s.hard := rfl
@[simp] theorem putDram_peerMem (s : State) (pa : Nat) (b : W8) : (s.putDram pa b).peerMem = s.peerMem := rfl
@[simp] theorem putDram_hostMem (s : State) (pa : Nat) (b : W8) : (s.putDram pa b).hostMem = s.hostMem := rfl
@[simp] theorem putDram_peerCopy (s : State) (pa : Nat) (b : W8) : (s.putDram pa b).peerCopy = s.peerCopy := rfl
@[simp] theorem putDram_dirCopy (s : State) (pa : Nat) (b : W8) : (s.putDram pa b).dirCopy = s.dirCopy := rfl
@[simp] theorem putDram_reserved (s : State) (pa : Nat) (b : W8) : (s.putDram pa b).reserved = s.reserved := rfl
@[simp] theorem putDram_peerSlots (s : State) (pa : Nat) (b : W8) : (s.putDram pa b).peerSlots = s.peerSlots := rfl
@[simp] theorem putDram_watch (s : State) (pa : Nat) (b : W8) : (s.putDram pa b).watch = s.watch := rfl
@[simp] theorem putDram_linkq (s : State) (pa : Nat) (b : W8) : (s.putDram pa b).linkq = s.linkq := rfl
@[simp] theorem putDram_cores (s : State) (pa : Nat) (b : W8) : (s.putDram pa b).cores = s.cores := rfl
@[simp] theorem putDram_waves (s : State) (pa : Nat) (b : W8) : (s.putDram pa b).waves = s.waves := rfl
@[simp] theorem putDram_teams (s : State) (pa : Nat) (b : W8) : (s.putDram pa b).teams = s.teams := rfl
@[simp] theorem putDram_grids (s : State) (pa : Nat) (b : W8) : (s.putDram pa b).grids = s.grids := rfl
@[simp] theorem putDram_kept (s : State) (pa : Nat) (b : W8) : (s.putDram pa b).kept = s.kept := rfl
@[simp] theorem putDram_dies (s : State) (pa : Nat) (b : W8) : (s.putDram pa b).dies = s.dies := rfl
@[simp] theorem putDram_stks (s : State) (pa : Nat) (b : W8) : (s.putDram pa b).stks = s.stks := rfl
@[simp] theorem putDram_kbase (s : State) (pa : Nat) (b : W8) : (s.putDram pa b).kbase = s.kbase := rfl
@[simp] theorem putDram_klog2n (s : State) (pa : Nat) (b : W8) : (s.putDram pa b).klog2n = s.klog2n := rfl
@[simp] theorem putDram_kitty (s : State) (pa : Nat) (b : W8) : (s.putDram pa b).kitty = s.kitty := rfl
@[simp] theorem putDram_kittyTook (s : State) (pa : Nat) (b : W8) : (s.putDram pa b).kittyTook = s.kittyTook := rfl
@[simp] theorem putDram_saves (s : State) (pa : Nat) (b : W8) : (s.putDram pa b).saves = s.saves := rfl
@[simp] theorem putDram_nextId (s : State) (pa : Nat) (b : W8) : (s.putDram pa b).nextId = s.nextId := rfl
@[simp] theorem putDram_cc (s : State) (pa : Nat) (b : W8) : (s.putDram pa b).cc = s.cc := rfl
@[simp] theorem putDram_phase (s : State) (pa : Nat) (b : W8) : (s.putDram pa b).phase = s.phase := rfl
@[simp] theorem putDram_cur (s : State) (pa : Nat) (b : W8) : (s.putDram pa b).cur = s.cur := rfl
@[simp] theorem putDram_agenda (s : State) (pa : Nat) (b : W8) : (s.putDram pa b).agenda = s.agenda := rfl
@[simp] theorem putDram_free (s : State) (pa : Nat) (b : W8) : (s.putDram pa b).free = s.free := rfl
@[simp] theorem putDram_reply (s : State) (pa : Nat) (b : W8) : (s.putDram pa b).reply = s.reply := rfl

/-! ### `setPoison` -/

@[simp] theorem setPoison_dram (s : State) (line : Nat) (b : Bool) : (s.setPoison line b).dram = s.dram := rfl
@[simp] theorem setPoison_l2d (s : State) (line : Nat) (b : Bool) : (s.setPoison line b).l2d = s.l2d := rfl
@[simp] theorem setPoison_lfl (s : State) (line : Nat) (b : Bool) : (s.setPoison line b).lfl = s.lfl := rfl
@[simp] theorem setPoison_poison (s : State) (line : Nat) (b : Bool) : (s.setPoison line b).poison = FMap.put false s.poison line b := rfl
@[simp] theorem setPoison_hard (s : State) (line : Nat) (b : Bool) : (s.setPoison line b).hard = if b then s.hard else s.hard.del line := rfl
@[simp] theorem setPoison_peerMem (s : State) (line : Nat) (b : Bool) : (s.setPoison line b).peerMem = s.peerMem := rfl
@[simp] theorem setPoison_hostMem (s : State) (line : Nat) (b : Bool) : (s.setPoison line b).hostMem = s.hostMem := rfl
@[simp] theorem setPoison_peerCopy (s : State) (line : Nat) (b : Bool) : (s.setPoison line b).peerCopy = s.peerCopy := rfl
@[simp] theorem setPoison_dirCopy (s : State) (line : Nat) (b : Bool) : (s.setPoison line b).dirCopy = s.dirCopy := rfl
@[simp] theorem setPoison_reserved (s : State) (line : Nat) (b : Bool) : (s.setPoison line b).reserved = s.reserved := rfl
@[simp] theorem setPoison_peerSlots (s : State) (line : Nat) (b : Bool) : (s.setPoison line b).peerSlots = s.peerSlots := rfl
@[simp] theorem setPoison_watch (s : State) (line : Nat) (b : Bool) : (s.setPoison line b).watch = s.watch := rfl
@[simp] theorem setPoison_linkq (s : State) (line : Nat) (b : Bool) : (s.setPoison line b).linkq = s.linkq := rfl
@[simp] theorem setPoison_cores (s : State) (line : Nat) (b : Bool) : (s.setPoison line b).cores = s.cores := rfl
@[simp] theorem setPoison_waves (s : State) (line : Nat) (b : Bool) : (s.setPoison line b).waves = s.waves := rfl
@[simp] theorem setPoison_teams (s : State) (line : Nat) (b : Bool) : (s.setPoison line b).teams = s.teams := rfl
@[simp] theorem setPoison_grids (s : State) (line : Nat) (b : Bool) : (s.setPoison line b).grids = s.grids := rfl
@[simp] theorem setPoison_kept (s : State) (line : Nat) (b : Bool) : (s.setPoison line b).kept = s.kept := rfl
@[simp] theorem setPoison_dies (s : State) (line : Nat) (b : Bool) : (s.setPoison line b).dies = s.dies := rfl
@[simp] theorem setPoison_stks (s : State) (line : Nat) (b : Bool) : (s.setPoison line b).stks = s.stks := rfl
@[simp] theorem setPoison_kbase (s : State) (line : Nat) (b : Bool) : (s.setPoison line b).kbase = s.kbase := rfl
@[simp] theorem setPoison_klog2n (s : State) (line : Nat) (b : Bool) : (s.setPoison line b).klog2n = s.klog2n := rfl
@[simp] theorem setPoison_kitty (s : State) (line : Nat) (b : Bool) : (s.setPoison line b).kitty = s.kitty := rfl
@[simp] theorem setPoison_kittyTook (s : State) (line : Nat) (b : Bool) : (s.setPoison line b).kittyTook = s.kittyTook := rfl
@[simp] theorem setPoison_saves (s : State) (line : Nat) (b : Bool) : (s.setPoison line b).saves = s.saves := rfl
@[simp] theorem setPoison_nextId (s : State) (line : Nat) (b : Bool) : (s.setPoison line b).nextId = s.nextId := rfl
@[simp] theorem setPoison_cc (s : State) (line : Nat) (b : Bool) : (s.setPoison line b).cc = s.cc := rfl
@[simp] theorem setPoison_phase (s : State) (line : Nat) (b : Bool) : (s.setPoison line b).phase = s.phase := rfl
@[simp] theorem setPoison_cur (s : State) (line : Nat) (b : Bool) : (s.setPoison line b).cur = s.cur := rfl
@[simp] theorem setPoison_agenda (s : State) (line : Nat) (b : Bool) : (s.setPoison line b).agenda = s.agenda := rfl
@[simp] theorem setPoison_free (s : State) (line : Nat) (b : Bool) : (s.setPoison line b).free = s.free := rfl
@[simp] theorem setPoison_reply (s : State) (line : Nat) (b : Bool) : (s.setPoison line b).reply = s.reply := rfl

end State
end Sys2Proof.Machine
end

