-- ==== Sys2Proof/Safety.lean ====
section
/-! DEFINITION. What counts as a safe run, the form that the memories keep, and the terms in which the claims are stated: an
issuing split, and what a form that writes registers leaves. -/
namespace Sys2Proof

open Sys2Proof.Machine

/-- No step of a run of n steps stops with a fault or a refusal. -/
def SafeFor : Nat → State → Prop
  | 0, _ => True
  | n + 1, s => ∃ t, step s = .next t ∧ SafeFor n t

/-- The canonical form of the memories that have a default: DRAM bytes, poison marks and line floors. -/
def MemoryForm (s : State) : Prop :=
  Memory.wf s.dram ∧ FMap.canon false s.poison = true ∧ FMap.canon 6 s.lfl = true

namespace Machine

/-! ### Issuing -/

/-- The split x issues the well-formed instruction i at s, and the checks that come before its effect pass: every varying
operand lies in the wave's block, none of the registers it reads holds an error, and a uniform or affine destination is written
with CONV = 1 (R18, R75, R91, R92). Correctable errors are corrected and counted first: `Claim.CorrectedErrors`. -/
def Issues (i : Instr) (s : State) (x : Ctx) : Prop :=
  ∃ p f, Forms.spec i = some (p, f) ∧ Forms.check p (Forms.isBr i) f = none ∧ s.here f = some x
    ∧ x.outOfBlock p = false ∧ x.eccBad p = false ∧ x.clean p = true
    ∧ (x.conv = true ∨ (x.f.d.file ≠ .s ∧ x.f.d.file ≠ .a))

/-- The same for a form that reads its registers when it completes (R269, R290): their errors are not tested yet. -/
def Arrives (i : Instr) (s : State) (x : Ctx) : Prop :=
  ∃ p f, Forms.spec i = some (p, f) ∧ Forms.check p (Forms.isBr i) f = none ∧ s.here f = some x
    ∧ x.outOfBlock p = false ∧ (x.conv = true ∨ (x.f.d.file ≠ .s ∧ x.f.d.file ≠ .a))

/-- The execution state of the issuing wave when its split stands at a PC and all else is as before. -/
def Ctx.exAt (x : Ctx) (pc : W64) : ExecSt :=
  { x.w.ex with splits := x.w.ex.splits.ins x.entry { x.sp with pc := pc, stall := .none, form := none, born := 0, ask := none } }

/-- A wave with other varying, scalar, affine or mask registers, flags or execution state, and all else as it was. -/
def Wave.withV (w : Wave) (v : FMap W32) (vp : FMap Bool) : Wave := { w with v := v, vpois := vp }
def Wave.withS (w : Wave) (r : FMap W64) (rp : FMap Bool) : Wave := { w with s := r, spois := rp }
def Wave.withA (w : Wave) (r : FMap Aff) (rp : FMap Bool) : Wave := { w with a := r, apois := rp }
def Wave.withK (w : Wave) (k : FMap W32) : Wave := { w with k := k }
def Wave.withFlags (w : Wave) (f : W32) : Wave := { w with flags := f }
def Wave.withEx (w : Wave) (e : ExecSt) : Wave := { w with ex := e }

/-- The state that differs from s in the issuing wave alone. -/
def State.withWave (s : State) (x : Ctx) (w : Wave) : State := { s with waves := s.waves.ins x.key w }

/-! ### What a form that writes registers leaves -/

/-- Varying registers and their stored errors after a write of register n, or of the pair n and n + 1, at the lanes of m: an
instruction whose active lanes are all 32 ends the errors (R90, R92). -/
def WroteV (x : Ctx) (n : Nat) (pair : Bool) (m : W32) (val : Nat → W64) (v : FMap W32) (vp : FMap Bool) : Prop :=
  (∀ r l, l < 32 → FMap.at' 0 v (32 * r + l) =
    if bit m l = true ∧ r = n then (val l).truncate 32
    else if bit m l = true ∧ pair = true ∧ r = n + 1 then (val l >>> 32).truncate 32
    else FMap.at' 0 x.w.v (32 * r + l)) ∧
  ∀ r, FMap.at' false vp r = if x.act = 0xFFFFFFFF ∧ (r = n ∨ (pair = true ∧ r = n + 1)) then false else FMap.at' false x.w.vpois r

/-- Scalar registers and their stored errors after a write of register n. -/
def WroteS (x : Ctx) (n : Nat) (val : W64) (r : FMap W64) (rp : FMap Bool) : Prop :=
  (∀ k, FMap.at' 0 r k = if k = n then val else FMap.at' 0 x.w.s k) ∧
  ∀ k, FMap.at' false rp k = if k = n then false else FMap.at' false x.w.spois k

/-- Affine registers and their stored errors after a write of register n. -/
def WroteA (x : Ctx) (n : Nat) (val : Aff) (r : FMap Aff) (rp : FMap Bool) : Prop :=
  (∀ k, FMap.at' ⟨0, 0⟩ r k = if k = n then val else FMap.at' ⟨0, 0⟩ x.w.a k) ∧
  ∀ k, FMap.at' false rp k = if k = n then false else FMap.at' false x.w.apois k

/-- Mask registers after a write of the bits of the lanes of m of register n. -/
def WroteK (x : Ctx) (n : Nat) (m : W32) (val : Nat → Bool) (r : FMap W32) : Prop :=
  ∀ k l, l < 32 → bit (FMap.at' 0 r k) l = if k = n ∧ bit m l = true then val l else bit (FMap.at' 0 x.w.k k) l

/-- FLAGS after the flags that some lanes raise (R86). -/
def flagsAfter (old : W32) (ls : List Nat) (raised : Nat → Option Flag) : W32 :=
  ls.foldl (fun g l => match raised l with | some b => g ||| b.bit | none => g) old

/-- The next state of a typed form: its result stands in the destination, its flags are raised, its split has moved to the next
instruction, and nothing else has changed. A team destination is written once for each performance, and each performance reads in it
what the last one left (R51, R80). -/
def Typed (c : Cls) (pair : Bool) (val : Ctx → Nat → Val) (s : State) (x : Ctx) (t : State) : Prop :=
  match c, x.f.d.file with
  | .v, .k => ∃ k, WroteK x x.f.d.num.toNat x.act (fun l => bit (val x l).1 0) k ∧
      t = s.withWave x (((x.w.withK k).withFlags (flagsAfter x.w.flags (lanesOf x.act) fun l => (val x l).2)).withEx (x.exAt x.next))
  | .v, _ => ∃ v vp, WroteV x x.f.d.num.toNat pair x.act (fun l => (val x l).1) v vp ∧
      t = s.withWave x (((x.w.withV v vp).withFlags (flagsAfter x.w.flags (lanesOf x.act) fun l => (val x l).2)).withEx (x.exAt x.next))
  | .s, .t => ∃ (X : Nat → Ctx) (U : FMap Team), X 0 = x ∧
      (∀ j, X (j + 1) = { X j with tm := (X j).tm.map fun tm =>
        (tm.setT s.cc x.f.d.num.toNat (val (X j) 0).1).latest x.f.d.num.toNat }) ∧
      (∀ k, FMap.fetch U k = if k = x.w.team then (s.teams.fetch k).map fun tm =>
          (List.range x.performs.length).foldl (fun tm j => tm.setT s.cc x.f.d.num.toNat (val (X j) 0).1) tm
        else s.teams.fetch k) ∧
      t = { s.withWave x ((x.w.withFlags (flagsAfter x.w.flags (List.range x.performs.length) fun j => (val (X j) 0).2)).withEx
              (x.exAt x.next)) with teams := U }
  | .s, _ => ∃ r rp, WroteS x x.f.d.num.toNat (val x 0).1 r rp ∧
      t = s.withWave x (((x.w.withS r rp).withFlags (flagsAfter x.w.flags [0] fun l => (val x l).2)).withEx (x.exAt x.next))

end Machine
end Sys2Proof
end

