-- ==== Sys2Proof/Laws/Issue.lean ====
section
/-! SUPPORT. What an encoded instruction does at issue before its own effect, how the issuing split moves on, and everything that
the shared register writes and typed forms can do. -/
namespace Sys2Proof.Machine

/-! ### The issuing split -/

theorem here_eq {s : State} {f : F} {x : Ctx} (h : s.here f = some x) :
    x.f = f ∧ x.core = s.cur.core ∧ x.slot = s.cur.slot ∧ x.entry = s.cur.entry ∧ x.cc = s.cc
      ∧ s.waves.fetch x.key = some x.w ∧ x.w.ex.splits.fetch x.entry = some x.sp ∧ x.tm = s.teams.fetch x.w.team := by
  unfold State.here at h
  split at h
  · cases h
  · rename_i w hw
    split at h
    · cases h
    · rename_i sp hsp
      cases h
      exact ⟨rfl, rfl, rfl, rfl, rfl, hw, hsp, rfl⟩

theorem here_f {s : State} {f : F} {x : Ctx} (h : s.here f = some x) : x.f = f := (here_eq h).1
theorem here_wave {s : State} {f : F} {x : Ctx} (h : s.here f = some x) : s.waves.fetch x.key = some x.w := (here_eq h).2.2.2.2.2.1
theorem here_split {s : State} {f : F} {x : Ctx} (h : s.here f = some x) : x.w.ex.splits.fetch x.entry = some x.sp :=
  (here_eq h).2.2.2.2.2.2.1
theorem here_team {s : State} {f : F} {x : Ctx} (h : s.here f = some x) : x.tm = s.teams.fetch x.w.team := (here_eq h).2.2.2.2.2.2.2
theorem here_cc {s : State} {f : F} {x : Ctx} (h : s.here f = some x) : x.cc = s.cc := (here_eq h).2.2.2.2.1

theorem fault_none {x : Ctx} {p : Forms.Spec} {ill unc ecc : Bool} (ho : x.outOfBlock p = false) (hi : ill = false)
    (hu : x.conv = true ∨ (x.f.d.file ≠ .s ∧ x.f.d.file ≠ .a)) (hu' : x.conv = true ∨ unc = false)
    (he : ecc = false ∨ x.eccBad p = false) : x.fault p ill unc ecc = none := by
  unfold Ctx.fault
  rcases hu with hc | ⟨h1, h2⟩
  · rcases he with he | he <;> simp [ho, hi, hc, he]
  · rcases hu' with hc | hu'
    · rcases he with he | he <;> simp [ho, hi, hc, he]
    · rcases he with he | he <;> simp [ho, hi, hu', he, h1, h2]

/-- With no correctable error nothing is corrected. -/
theorem correct_clean {s : State} {x : Ctx} {rs : List Src} (h : rs.all (fun r => x.errorOf r != some false) = true) : s.correct x rs = s := by
  have : rs.dedup.filter (fun r => x.errorOf r == some false) = [] := by
    rw [List.filter_eq_nil_iff]
    intro r hr
    have := List.all_eq_true.mp h r (List.mem_dedup.mp hr)
    simp only [bne_iff_ne] at this
    simp [this]
  unfold State.correct
  rw [this]
  rfl

theorem correct_nil (s : State) (x : Ctx) : s.correct x [] = s := rfl

theorem correct_readBy {s : State} {x : Ctx} {p : Forms.Spec} (h : x.clean p = true) (ecc : Bool) :
    s.correct x (x.readBy p ecc none) = s := by
  cases ecc
  · rfl
  · exact correct_clean h

/-- An instruction whose checks pass has its own effect. -/
theorem issueFull_next {i : Instr} {s : State} {x : Ctx} (h : Issues i s x) {ill unc : Ctx → Bool} (ecc : Bool)
    (hi : ill x = false) (hu : x.conv = true ∨ unc x = false) (body : Ctx → State → State) :
    issueFull ill unc ecc i s body = .next (body x s) := by
  obtain ⟨p, f, hp, -, hx, ho, he, hk, hc⟩ := h
  unfold issueFull
  simp only [hp, hx]
  rw [fault_none ho hi hc hu (Or.inr he), correct_readBy hk]

theorem issue_next {i : Instr} {s : State} {x : Ctx} (h : Issues i s x) (body : Ctx → State → State) :
    issue i s body = .next (body x s) := issueFull_next h true rfl (.inr rfl) body

theorem issueWith_next {i : Instr} {s : State} {x : Ctx} (h : Issues i s x) {ill unc : Ctx → Bool} (hi : ill x = false)
    (hu : x.conv = true ∨ unc x = false) (body : Ctx → State → State) : issueWith ill unc i s body = .next (body x s) :=
  issueFull_next h true hi hu body

theorem issueFull_late {i : Instr} {s : State} {x : Ctx} (h : Arrives i s x) {ill : Ctx → Bool} (hi : ill x = false)
    (body : Ctx → State → State) : issueFull ill (fun _ => false) false i s body = .next (body x s) := by
  obtain ⟨p, f, hp, -, hx, ho, hc⟩ := h
  unfold issueFull
  simp only [hp, hx]
  rw [fault_none ho hi hc (Or.inr rfl) (Or.inl rfl)]
  rfl

theorem issueLate_next {i : Instr} {s : State} {x : Ctx} (h : Arrives i s x) (body : Ctx → State → State) :
    issueLate i s body = .next (body x s) := issueFull_late h rfl body

/-- Whatever happens, an encoded instruction that a resident split issues ends in a next state. -/
theorem issueFull_answers (ill unc : Ctx → Bool) (ecc : Bool) (i : Instr) (s : State) (body : Ctx → State → State)
    (h : ∀ p f, Forms.spec i = some (p, f) → (s.here f).isSome) : ∃ t, issueFull ill unc ecc i s body = .next t := by
  unfold issueFull
  split
  · exact ⟨_, rfl⟩
  · rename_i p f hp
    have := h p f hp
    split
    · rename_i hn; rw [hn] at this; cases this
    · rename_i x _
      simp only
      cases x.fault p (ill x) (unc x) ecc <;> exact ⟨_, rfl⟩

/-! ### One wave changes -/

theorem updWave_eq {s : State} {x : Ctx} (h : s.waves.fetch x.key = some x.w) (g : Wave → Wave) :
    s.updWave x.key g = s.withWave x (g x.w) := by
  simp [State.updWave, State.withWave, FMap.upd_of_fetch h]

@[simp] theorem updWave_withWave (s : State) (x : Ctx) (w : Wave) (g : Wave → Wave) :
    (s.withWave x w).updWave x.key g = s.withWave x (g w) := by
  simp [State.updWave, State.withWave, FMap.upd_ins]

theorem withEx_advance (w : Wave) (e : ExecSt) : (w.withEx e).ex = e := rfl

@[simp] theorem withWave_teams (s : State) (x : Ctx) (w : Wave) : (s.withWave x w).teams = s.teams := rfl
@[simp] theorem withWave_cc (s : State) (x : Ctx) (w : Wave) : (s.withWave x w).cc = s.cc := rfl

theorem withWave_self {s : State} {x : Ctx} (h : s.waves.fetch x.key = some x.w) (g : Wave → Wave) :
    (s.withWave x x.w).updWave x.key g = s.updWave x.key g := by
  rw [updWave_withWave, updWave_eq h]

/-- The split moves on, in a state whose wave is w. -/
theorem advance_withWave {s : State} {x : Ctx} {w : Wave} (he : w.ex = x.w.ex) (hs : x.w.ex.splits.fetch x.entry = some x.sp) :
    (s.withWave x w).advance x = s.withWave x (w.withEx (x.exAt x.next)) := by
  unfold State.advance
  rw [updWave_withWave, he, FMap.upd_of_fetch hs]
  rfl

theorem advance_eq {s : State} {x : Ctx} {f : F} (h : s.here f = some x) :
    s.advance x = s.withWave x (x.w.withEx (x.exAt x.next)) := by
  unfold State.advance
  rw [updWave_eq (here_wave h), FMap.upd_of_fetch (here_split h)]
  rfl

/-! ### Register writes -/

theorem mem_lanesOf {m : W32} {l : Nat} : l ∈ lanesOf m ↔ l < 32 ∧ bit m l = true := by
  simp [lanesOf, bit]

theorem bit_maskFold (ls : List Nat) (m : W32) (l : Nat) (hl : l < 32) :
    bit (ls.foldl (fun m l => m ||| laneBit l) m) l = (bit m l || ls.contains l) := by
  induction ls generalizing m with
  | nil => simp
  | cons a ls ih =>
    rw [List.foldl_cons, ih]
    have h1 : bit (laneBit a) l = (a == l) := by
      simp only [bit, laneBit, BitVec.getLsbD_ofNat, Nat.testBit_two_pow]
      simp only [hl, decide_true, Bool.true_and]
      rfl
    have h2 : bit (m ||| laneBit a) l = (bit m l || (a == l)) := by
      rw [← h1]; simp [bit]
    rw [h2, List.contains_cons, Bool.or_assoc]
    congr 2
    by_cases h : a = l
    · simp [h]
    · simp [h, Ne.symm h]

theorem bit_maskOf (ls : List Nat) (l : Nat) (hl : l < 32) : bit (maskOf ls) l = ls.contains l := by
  unfold maskOf
  rw [bit_maskFold ls 0 l hl]
  simp [bit]

theorem bit_maskWhere (p : Nat → Bool) (l : Nat) (hl : l < 32) : bit (maskWhere p) l = p l := by
  unfold maskWhere
  rw [bit_maskOf _ _ hl]
  by_cases h : p l <;> simp [h, hl]

/-- The lanes of a mask are written and no other key changes. -/
theorem at'_foldl_put (ls : List Nat) (hls : ∀ l ∈ ls, l < 32) (n : Nat) (val : Nat → W32) (v : FMap W32) (r l : Nat) (hl : l < 32) :
    FMap.at' 0 (ls.foldl (fun r l => FMap.put 0 r (32 * n + l) (val l)) v) (32 * r + l) =
      if l ∈ ls ∧ r = n then val l else FMap.at' 0 v (32 * r + l) := by
  induction ls generalizing v with
  | nil => simp
  | cons a ls ih =>
    have ha : a < 32 := hls a (List.mem_cons_self ..)
    rw [List.foldl_cons, ih (fun l h => hls l (List.mem_cons_of_mem _ h)), FMap.at'_put]
    by_cases h1 : l ∈ ls ∧ r = n
    · simp [h1]
    · rw [if_neg h1]
      by_cases h2 : 32 * r + l = 32 * n + a
      · have hr : r = n := by omega
        have hl' : l = a := by omega
        simp [hr, hl']
      · rw [if_neg h2]
        have : ¬(l ∈ a :: ls ∧ r = n) := by
          rintro ⟨hm, hr⟩
          rcases List.mem_cons.mp hm with rfl | hm
          · exact h2 (by rw [hr])
          · exact h1 ⟨hm, hr⟩
        rw [if_neg this]

theorem setV_frame (w : Wave) (n : Nat) (full : Bool) (m : W32) (val : Nat → W32) :
    w.setV n full m val = { w with v := (w.setV n full m val).v, vpois := (w.setV n full m val).vpois } := rfl

theorem setV_v (w : Wave) (n : Nat) (full : Bool) (m : W32) (val : Nat → W32) (r l : Nat) (hl : l < 32) :
    FMap.at' 0 (w.setV n full m val).v (32 * r + l) = if bit m l = true ∧ r = n then val l else FMap.at' 0 w.v (32 * r + l) := by
  unfold Wave.setV
  simp only
  rw [at'_foldl_put _ (fun l h => (mem_lanesOf.mp h).1) n val w.v r l hl]
  by_cases h : bit m l = true ∧ r = n
  · rw [if_pos h, if_pos ⟨mem_lanesOf.mpr ⟨hl, h.1⟩, h.2⟩]
  · rw [if_neg h, if_neg fun h' => h ⟨(mem_lanesOf.mp h'.1).2, h'.2⟩]

theorem setV_vpois (w : Wave) (n : Nat) (full : Bool) (m : W32) (val : Nat → W32) (r : Nat) :
    FMap.at' false (w.setV n full m val).vpois r = if full = true ∧ r = n then false else FMap.at' false w.vpois r := by
  unfold Wave.setV
  simp only
  split
  · rename_i h; rw [FMap.at'_del]; by_cases hr : r = n <;> simp [h, hr]
  · rename_i h; rw [if_neg fun h' => h h'.1]

theorem full_iff (x : Ctx) : x.full = true ↔ x.act = 0xFFFFFFFF := by simp [Ctx.full]

/-- All that a write of a varying destination does to a wave. -/
theorem wroteV_setV {x : Ctx} {w : Wave} (hv : w.v = x.w.v) (hp : w.vpois = x.w.vpois) (n : Nat) (m : W32) (val : Nat → W64) :
    WroteV x n false m val (w.setV n x.full m fun l => (val l).truncate 32).v (w.setV n x.full m fun l => (val l).truncate 32).vpois := by
  refine ⟨fun r l hl => ?_, fun r => ?_⟩
  · rw [setV_v _ _ _ _ _ _ _ hl, hv]; simp
  · rw [setV_vpois, hp]; simp only [full_iff]; simp

theorem wroteV_setPair {x : Ctx} {w : Wave} (hv : w.v = x.w.v) (hp : w.vpois = x.w.vpois) (n : Nat) (m : W32) (val : Nat → W64) :
    WroteV x n true m val (w.setPair n x.full m val).v (w.setPair n x.full m val).vpois := by
  refine ⟨fun r l hl => ?_, fun r => ?_⟩
  · unfold Wave.setPair
    rw [setV_v _ _ _ _ _ _ _ hl, setV_v _ _ _ _ _ _ _ hl, hv]
    by_cases h1 : r = n
    · subst h1; simp
    · by_cases h2 : r = n + 1 <;> simp [h1, h2]
  · unfold Wave.setPair
    rw [setV_vpois, setV_vpois, hp]
    simp only [full_iff]
    by_cases hm : x.act = 0xFFFFFFFF <;> by_cases h1 : r = n <;> by_cases h2 : r = n + 1 <;> simp [hm, h1, h2]

theorem setPair_frame (w : Wave) (n : Nat) (full : Bool) (m : W32) (val : Nat → W64) :
    w.setPair n full m val = { w with v := (w.setPair n full m val).v, vpois := (w.setPair n full m val).vpois } := rfl

theorem wroteS_setS {x : Ctx} {w : Wave} (hs : w.s = x.w.s) (hp : w.spois = x.w.spois) (n : Nat) (v : W64) :
    WroteS x n v (w.setS n v).s (w.setS n v).spois := by
  refine ⟨fun k => ?_, fun k => ?_⟩
  · simp [Wave.setS, FMap.at'_put, hs]
  · simp [Wave.setS, FMap.at'_del, hp]

theorem wroteA_setA {x : Ctx} {w : Wave} (hs : w.a = x.w.a) (hp : w.apois = x.w.apois) (n : Nat) (v : Aff) :
    WroteA x n v (w.setA n v).a (w.setA n v).apois := by
  refine ⟨fun k => ?_, fun k => ?_⟩
  · simp [Wave.setA, FMap.at'_put, hs]
  · simp [Wave.setA, FMap.at'_del, hp]

theorem wroteK_setK {x : Ctx} {w : Wave} (hk : w.k = x.w.k) (n : Nat) (m bits : W32) :
    WroteK x n m (fun l => bit bits l) (w.setK n m bits).k := by
  intro k l hl
  simp only [Wave.setK, FMap.at'_put, hk]
  by_cases h : k = n
  · subst h
    simp only [if_true, true_and]
    cases hm : bit m l <;> simp_all [bit]
  · simp [h]

/-- The write of a varying destination, pair or not. -/
theorem writeV_spec {s : State} {x : Ctx} {w : Wave} (hv : w.v = x.w.v) (hp : w.vpois = x.w.vpois) (pair : Bool) (m : W32)
    (val : Nat → W64) :
    ∃ v vp, WroteV x x.f.d.num.toNat pair m val v vp ∧
      (s.withWave x w).writeV x pair m val = s.withWave x (w.withV v vp) := by
  unfold State.writeV
  rw [updWave_withWave]
  cases pair
  · exact ⟨_, _, wroteV_setV hv hp _ m val, rfl⟩
  · exact ⟨_, _, wroteV_setPair hv hp _ m val, rfl⟩

theorem writeS_spec {s : State} {x : Ctx} {w : Wave} (hv : w.s = x.w.s) (hp : w.spois = x.w.spois) (val : W64) :
    ∃ r rp, WroteS x x.f.d.num.toNat val r rp ∧ (s.withWave x w).writeS x val = s.withWave x (w.withS r rp) := by
  unfold State.writeS
  rw [updWave_withWave]
  exact ⟨_, _, wroteS_setS hv hp _ val, rfl⟩

theorem writeA_spec {s : State} {x : Ctx} {w : Wave} (hv : w.a = x.w.a) (hp : w.apois = x.w.apois) (val : Aff) :
    ∃ r rp, WroteA x x.f.d.num.toNat val r rp ∧ (s.withWave x w).writeA x val = s.withWave x (w.withA r rp) := by
  unfold State.writeA
  rw [updWave_withWave]
  exact ⟨_, _, wroteA_setA hv hp _ val, rfl⟩

theorem writeK_spec {s : State} {x : Ctx} {w : Wave} (hv : w.k = x.w.k) (m bits : W32) :
    ∃ r, WroteK x x.f.d.num.toNat m (fun l => bit bits l) r ∧ (s.withWave x w).writeK x m bits = s.withWave x (w.withK r) := by
  unfold State.writeK
  rw [updWave_withWave]
  exact ⟨_, wroteK_setK hv _ m bits, rfl⟩

/-! ### Flags -/

theorem flagOf_withWave (s : State) (x : Ctx) (w : Wave) (r : Option Flag) :
    (s.withWave x w).flagOf x r =
      s.withWave x (w.withFlags (match r with | some b => w.flags ||| b.bit | none => w.flags)) := by
  cases r with
  | none => rfl
  | some b =>
    simp only [State.flagOf, State.flag, if_true, updWave_withWave]
    rfl

theorem flags_foldl (s : State) (x : Ctx) (ls : List Nat) (r : Nat → Option Flag) (w : Wave) :
    ls.foldl (fun s l => s.flagOf x (r l)) (s.withWave x w) = s.withWave x (w.withFlags (flagsAfter w.flags ls r)) := by
  induction ls generalizing w with
  | nil => rfl
  | cons a ls ih => rw [List.foldl_cons, flagOf_withWave, ih]; rfl

theorem flag_withWave (s : State) (x : Ctx) (w : Wave) (f : Flag) (b : Bool) :
    (s.withWave x w).flag x f b = s.withWave x (w.flag f b) := by
  cases b
  · rfl
  · simp only [State.flag, if_true, updWave_withWave]

/-! ### Typed forms -/

theorem typed_v {s : State} {f : F} {x : Ctx} (h : s.here f = some x) (pair : Bool) (val : Ctx → Nat → Val) :
    Typed .v pair val s x (s.typed x .v pair val) := by
  have hw := here_wave h
  have hsp := here_split h
  have hfirst : ∀ (g : Wave → Wave), s.updWave x.key g = (s.withWave x x.w).updWave x.key g := fun g => (withWave_self hw g).symm
  have hv : ∀ p m (v : Nat → W64), s.writeV x p m v = (s.withWave x x.w).writeV x p m v := fun p m v => hfirst _
  have hk : ∀ m b, s.writeK x m b = (s.withWave x x.w).writeK x m b := fun m b => hfirst _
  unfold Typed State.typed State.varying
  by_cases hf : x.f.d.file = .k
  · simp only [hf]
    obtain ⟨k, hk1, hk2⟩ := writeK_spec (s := s) (x := x) (w := x.w) rfl x.act (maskWhere fun l => bit (val x l).1 0)
    rw [hk, hk2, flags_foldl, advance_withWave (by rfl) hsp]
    refine ⟨k, fun n l hl => ?_, rfl⟩
    rw [hk1 n l hl]
    simp only [bit_maskWhere _ _ hl]
  · obtain ⟨v, vp, h1, h2⟩ := writeV_spec (s := s) (x := x) (w := x.w) rfl rfl pair x.act fun l => (val x l).1
    cases hd : x.f.d.file <;> first | exact absurd hd hf | skip
    all_goals
      simp only
      rw [hv, h2, flags_foldl, advance_withWave (by rfl) hsp]
      exact ⟨v, vp, h1, rfl⟩

/-- The context of each performance of a uniform form whose destination is a team register (R51, R80). -/
def teamSeq (x : Ctx) (cc : Nat) (val : Ctx → Val) : Nat → Ctx
  | 0 => x
  | j + 1 => { teamSeq x cc val j with tm := (teamSeq x cc val j).tm.map fun tm =>
      (tm.setT cc x.f.d.num.toNat (val (teamSeq x cc val j)).1).latest x.f.d.num.toNat }

theorem teamSeq_w (x : Ctx) (cc : Nat) (val : Ctx → Val) (j : Nat) :
    (teamSeq x cc val j).w = x.w ∧ (teamSeq x cc val j).f = x.f := by
  induction j with
  | zero => exact ⟨rfl, rfl⟩
  | succ j ih => exact ih

/-- The team after some performances. -/
def teamAfter (x : Ctx) (cc : Nat) (val : Ctx → Val) (tm : Team) (j : Nat) : Team :=
  (List.range j).foldl (fun tm j => tm.setT cc x.f.d.num.toNat (val (teamSeq x cc val j)).1) tm

theorem teamAfter_succ (x : Ctx) (cc : Nat) (val : Ctx → Val) (tm : Team) (j : Nat) :
    teamAfter x cc val tm (j + 1) = (teamAfter x cc val tm j).setT cc x.f.d.num.toNat (val (teamSeq x cc val j)).1 := by
  simp [teamAfter, List.range_succ]

theorem teamAfter_tcc (x : Ctx) (cc : Nat) (val : Ctx → Val) (tm : Team) (j : Nat) (h : j ≠ 0) : (teamAfter x cc val tm j).tcc = cc + 1 := by
  obtain ⟨k, rfl⟩ := Nat.exists_eq_succ_of_ne_zero h
  rw [teamAfter_succ]
  rfl

/-- A second write of one cc reads as it was last written, whether or not the first one was made to read so. -/
theorem latest_setT {t : Team} {cc n : Nat} (h : t.tcc = cc + 1) (v : W64) :
    ((t.latest n).setT cc n v).latest n = (t.setT cc n v).latest n := by
  simp [Team.latest, Team.setT, h, FMap.ins_ins]

theorem flagsAfter_succ (old : W32) (j : Nat) (r : Nat → Option Flag) :
    flagsAfter old (List.range (j + 1)) r = match r j with
      | some b => flagsAfter old (List.range j) r ||| b.bit | none => flagsAfter old (List.range j) r := by
  rw [flagsAfter, List.range_succ, List.foldl_append]
  rfl

theorem foldl_const_length {α β : Type} (f : α → α) (ls : List β) (a : α) :
    ls.foldl (fun a _ => f a) a = (List.range ls.length).foldl (fun a _ => f a) a := by
  induction ls generalizing a with
  | nil => rfl
  | cons b ls ih =>
    rw [List.foldl_cons, ih, List.length_cons, List.range_succ_eq_map, List.foldl_cons, List.foldl_map]

/-- The performances of a uniform form on a team register, one after another. -/
theorem team_performs {s : State} {f : F} {x : Ctx} (h : s.here f = some x) (val : Ctx → Val) (n : Nat) :
    ∃ W U, (List.range n).foldl (fun (q : State × Ctx) _ =>
        let r := val q.2
        let s := (q.1.writeT q.2 q.2.f.d.num.toNat r.1).flagOf x r.2
        (s, q.2.again s x.f.d.num.toNat)) (s, x) = ({ s with waves := W, teams := U }, teamSeq x s.cc val n) ∧
    W.fetch x.key = some (x.w.withFlags (flagsAfter x.w.flags (List.range n) fun j => (val (teamSeq x s.cc val j)).2)) ∧
    (∀ w, FMap.ins W x.key w = s.waves.ins x.key w) ∧
    (∀ k, FMap.fetch U k = if k = x.w.team then (s.teams.fetch k).map fun tm => teamAfter x s.cc val tm n else s.teams.fetch k) ∧
    (teamSeq x s.cc val n).tm = (s.teams.fetch x.w.team).map fun tm =>
      if n = 0 then tm else (teamAfter x s.cc val tm n).latest x.f.d.num.toNat := by
  induction n with
  | zero =>
    refine ⟨s.waves, s.teams, rfl, here_wave h, fun _ => rfl, fun k => ?_, ?_⟩
    · by_cases hk : k = x.w.team <;> simp [hk, teamAfter]
    · simp [teamSeq, here_team h]
  | succ n ih =>
    obtain ⟨W, U, h1, h2, h3, hU, h4⟩ := ih
    obtain ⟨hxw, hxf⟩ := teamSeq_w x s.cc val n
    have hfold : ∀ {α : Type} (g : α → Nat → α) (a : α), (List.range (n + 1)).foldl g a = g ((List.range n).foldl g a) n := by
      intro α g a
      rw [List.range_succ, List.foldl_append]
      rfl
    rw [hfold, h1]
    dsimp only
    have hteam : ∀ k, FMap.fetch (FMap.upd U x.w.team fun t => t.setT s.cc x.f.d.num.toNat (val (teamSeq x s.cc val n)).1) k =
        if k = x.w.team then (s.teams.fetch k).map fun tm => teamAfter x s.cc val tm (n + 1) else s.teams.fetch k := by
      intro k
      rw [FMap.fetch_upd]
      by_cases hk : k = x.w.team
      · subst hk
        simp only [if_true]
        rw [hU]
        simp only [if_true, Option.map_map]
        congr 1
        funext tm
        simp [teamAfter_succ]
      · rw [if_neg hk, hU, if_neg hk, if_neg hk]
    have htm : (teamSeq x s.cc val (n + 1)).tm = (s.teams.fetch x.w.team).map fun tm =>
        if n + 1 = 0 then tm else (teamAfter x s.cc val tm (n + 1)).latest x.f.d.num.toNat := by
      simp only [teamSeq, h4, Option.map_map]
      congr 1
      funext tm
      simp only [Function.comp, Nat.add_eq_zero_iff, one_ne_zero, and_false, if_false]
      rw [teamAfter_succ]
      by_cases hn : n = 0
      · subst hn; simp [teamAfter]
      · simp only [hn, if_false]; exact latest_setT (teamAfter_tcc x s.cc val tm n hn) _
    have hag : ∀ W', (teamSeq x s.cc val n).again
        { s with waves := W', teams := FMap.upd U x.w.team fun t => t.setT s.cc x.f.d.num.toNat (val (teamSeq x s.cc val n)).1 }
        x.f.d.num.toNat = teamSeq x s.cc val (n + 1) := by
      intro W'
      have : (teamSeq x s.cc val (n + 1)) = { teamSeq x s.cc val n with tm := (teamSeq x s.cc val (n + 1)).tm } := rfl
      rw [this, htm]
      unfold Ctx.again
      simp only [hxw, hteam, if_true, Option.map_map]
      rfl
    have hwr : ({ s with waves := W, teams := U } : State).writeT (teamSeq x s.cc val n) x.f.d.num.toNat
          (val (teamSeq x s.cc val n)).1 =
        { s with waves := W, teams := FMap.upd U x.w.team fun t => t.setT s.cc x.f.d.num.toNat (val (teamSeq x s.cc val n)).1 } := by
      unfold State.writeT State.updTeam
      rw [hxw]
    rw [hxf, hwr]
    cases hr : (val (teamSeq x s.cc val n)).2 with
    | none =>
      refine ⟨W, _, ?_, ?_, h3, hteam, htm⟩
      · simp only [State.flagOf]
        rw [hag]
      · rw [h2, flagsAfter_succ, hr]
    | some b =>
      refine ⟨W.ins x.key (x.w.withFlags (flagsAfter x.w.flags (List.range (n + 1)) fun j => (val (teamSeq x s.cc val j)).2)),
        _, ?_, by rw [FMap.fetch_ins_same], fun w => by rw [FMap.ins_ins, h3], hteam, htm⟩
      rw [← hag]
      have hfl : ∀ (s' : State), s'.waves.fetch x.key = W.fetch x.key → s'.flagOf x (some b) =
          { s' with waves := s'.waves.ins x.key (x.w.withFlags (flagsAfter x.w.flags (List.range (n + 1)) fun j => (val (teamSeq x s.cc val j)).2)) } := by
        intro s' hs'
        simp only [State.flagOf, State.flag, if_true, State.updWave, FMap.upd_of_fetch (hs'.trans h2), flagsAfter_succ, hr]
        rfl
      rw [hfl _ rfl]

theorem typed_st {s : State} {f : F} {x : Ctx} (h : s.here f = some x) (pair : Bool) (val : Ctx → Nat → Val) :
    Typed .s pair val s x (s.typed x .s pair val) := by
  have hw := here_wave h
  have hsp := here_split h
  have hfirst : ∀ (g : Wave → Wave), s.updWave x.key g = (s.withWave x x.w).updWave x.key g := fun g => (withWave_self hw g).symm
  unfold Typed State.typed State.uniform
  by_cases hf : x.f.d.file = .t
  · simp only [hf]
    obtain ⟨W, U, h1, h2, h3, h4, -⟩ := team_performs h (fun x => val x 0) x.performs.length
    rw [foldl_const_length (f := fun (q : State × Ctx) =>
        let r := val q.2 0
        let s := (q.1.writeT q.2 q.2.f.d.num.toNat r.1).flagOf x r.2
        (s, q.2.again s x.f.d.num.toNat)), h1]
    refine ⟨teamSeq x s.cc fun x => val x 0, U, rfl, fun j => rfl, h4, ?_⟩
    unfold State.advance State.updWave State.withWave
    simp only
    have hsp' : FMap.fetch (x.w.withFlags (flagsAfter x.w.flags (List.range x.performs.length) fun j =>
        (val (teamSeq x s.cc (fun x => val x 0) j) 0).2)).ex.splits x.entry = some x.sp := hsp
    rw [FMap.upd_of_fetch h2, h3, FMap.upd_of_fetch hsp']
    rfl
  · obtain ⟨r, rp, h1, h2⟩ := writeS_spec (s := s) (x := x) (w := x.w) rfl rfl (val x 0).1
    have hs : s.writeS x (val x 0).1 = (s.withWave x x.w).writeS x (val x 0).1 := hfirst _
    cases hd : x.f.d.file <;> first | exact absurd hd hf | skip
    all_goals
      simp only
      rw [hs, h2, flagOf_withWave, advance_withWave (by rfl) hsp]
      exact ⟨r, rp, h1, rfl⟩

/-- Everything that a typed form can do. -/
theorem typed_spec {s : State} {f : F} {x : Ctx} (h : s.here f = some x) (c : Cls) (pair : Bool) (val : Ctx → Nat → Val) :
    Typed c pair val s x (s.typed x c pair val) := by
  cases c
  · exact typed_st h pair val
  · exact typed_v h pair val

end Sys2Proof.Machine
end

