-- ==== Sys2Proof/Certificates/Slice0/Obligations.lean ====
section
/-! DEFINITION. The statements about the model. Each `Obligations.<Name>` is a proposition; the definitions before it state, in
the words of the spec's rules, what it claims. -/
namespace Sys2Proof.Claim

open Sys2Proof.Machine

/-! ### Integers as bit vectors -/

/-- The number that a pattern stands for under a type (R218). -/
def numB (t : ITy) {n : Nat} (b : BitVec n) : Int := if ITy.signed t then b.toInt else (b.toNat : Int)

/-- A pattern extended to 64 bits by a type's signedness (R218). -/
def extB (t : ITy) {n : Nat} (b : BitVec n) : W64 := if ITy.signed t then b.signExtend 64 else b.zeroExtend 64

/-- What a stem makes of the patterns of A, B and C and of IMM8, at width n: a pattern, and the flag that it raises. -/
abbrev BvFn := ITy → (n : Nat) → BitVec n → BitVec n → BitVec n → Nat → BitVec n × Option Flag

/-- The pattern of an operand at a lane: its low bits (R71, R218). -/
def opB (x : Ctx) (t : ITy) (n : Nat) (o : Src) (l : Nat) : BitVec n := (x.src false (Forms.wide t) o l).truncate n

/-- A stem at a lane, extended to 64 bits (R218). -/
def stem (t : ITy) (fn : BvFn) (x : Ctx) (l : Nat) : Val :=
  let n := Forms.tyBits t
  let r := fn t n (opB x t n x.f.a l) (opB x t n x.f.b l) (opB x t n x.f.c l) x.f.imm8.toNat
  (extB t r.1, r.2)

/-- Constructors of typed integer forms with what they compute. -/
abbrev IntRow := (Cls → ITy → F → Instr) × BvFn

/-- The wrapping arithmetic of R220. -/
def arithTable : List IntRow :=
  [(.intAdd, fun _ _ a b _ _ => (a + b, none)),
   (.intSub, fun _ _ a b _ _ => (a - b, none)),
   (.intMul, fun _ _ a b _ _ => (a * b, none)),
   (.intMulhi, fun t n a b _ _ => (BitVec.ofInt n ((numB t a * numB t b) / 2 ^ n), none)),
   (.intMad, fun _ _ a b c _ => (a * b + c, none)),
   (.intMin, fun t _ a b _ _ => (if numB t a ≤ numB t b then a else b, none)),
   (.intMax, fun t _ a b _ _ => (if numB t a ≤ numB t b then b else a, none)),
   (.intAbs, fun t _ a _ _ _ => (if ITy.signed t && a.msb then -a else a, none)),
   (.intNeg, fun _ _ a _ _ _ => (-a, none)),
   (.intMov, fun _ _ a _ _ _ => (a, none))]

/-- The logic, shifts and rotates of R220, with the counts of R140. -/
def logicTable : List IntRow :=
  [(.intAnd, fun _ _ a b _ _ => (a &&& b, none)),
   (.intOr, fun _ _ a b _ _ => (a ||| b, none)),
   (.intXor, fun _ _ a b _ _ => (a ^^^ b, none)),
   (.intAndn, fun _ _ a b _ _ => (a &&& ~~~b, none)),
   (.intNot, fun _ _ a _ _ _ => (~~~a, none)),
   (.intShl, fun _ _ a b _ _ => (a <<< b.toNat, none)),
   (.intShr, fun t _ a b _ _ => (if ITy.signed t then a.sshiftRight b.toNat else a >>> b.toNat, none)),
   (.intRot, fun _ n a b _ _ => (a.rotateLeft (b.toNat % n), none)),
   (.intFshl, fun _ n a b c _ => (((a ++ b) <<< (c.toNat % n)).extractLsb' n n, none)),
   (.intFshr, fun _ n a b c _ => (((a ++ b) >>> (c.toNat % n)).extractLsb' 0 n, none))]

/-- Bit fields and bit counts of R220. -/
def fieldTable : List IntRow :=
  [(.intBfe, fun t n a b _ len =>
      let v : BitVec len := (a >>> b.toNat).truncate len
      (if ITy.signed t then v.signExtend n else v.zeroExtend n, none)),
   (.intBfi, fun _ n a b c len =>
      let m : BitVec n := ((1#n <<< len) - 1#n) <<< b.toNat
      ((c &&& ~~~m) ||| ((a <<< b.toNat) &&& m), none)),
   (.intPopc, fun _ n a _ _ _ => (BitVec.ofNat n ((List.range n).countP fun i => a.getLsbD i), none)),
   (.intClz, fun _ n a _ _ _ => (BitVec.ofNat n ((List.range n).takeWhile fun i => !a.getMsbD i).length, none)),
   (.intCtz, fun _ n a _ _ _ => (BitVec.ofNat n ((List.range n).takeWhile fun i => !a.getLsbD i).length, none)),
   (.intBrev, fun _ _ a _ _ _ => (a.reverse, none))]

/-- Division and remainder of R139. -/
def divTable : List IntRow :=
  [(.intDiv, fun t n a b _ _ =>
      if b = 0#n then (BitVec.allOnes n, some .dz) else (if ITy.signed t then a.sdiv b else a.udiv b, none)),
   (.intRem, fun t n a b _ _ =>
      if b = 0#n then (a, some .dz) else (if ITy.signed t then a.srem b else a.umod b, none))]

/-- The nearest number of a type to an exact result, and SATF when it is another (R138). -/
def clampB (t : ITy) (n : Nat) (r : Int) : BitVec n × Option Flag :=
  let lo : Int := if ITy.signed t then -(2 ^ (n - 1)) else 0
  let hi : Int := if ITy.signed t then 2 ^ (n - 1) - 1 else 2 ^ n - 1
  (BitVec.ofInt n (max lo (min hi r)), if lo ≤ r ∧ r ≤ hi then none else some .satf)

/-- The saturating stems of R220. -/
def satTable : List IntRow :=
  [(.intAddSat, fun t n a b _ _ => clampB t n (numB t a + numB t b)),
   (.intSubSat, fun t n a b _ _ => clampB t n (numB t a - numB t b)),
   (.intMulSat, fun t n a b _ _ => clampB t n (numB t a * numB t b)),
   (.intMadSat, fun t n a b c _ => clampB t n (numB t a * numB t b + numB t c)),
   (.intAbsSat, fun t n a _ _ _ => if ITy.signed t then clampB t n (numB t a).natAbs else (a, none)),
   (.intNegSat, fun t n a _ _ _ => clampB t n (-numB t a))]

/-- The relations of the compares of R220. -/
def cmpTable : List ((Cls → ITy → F → Instr) × (Int → Int → Bool)) :=
  [(.intCmpEq, fun a b => a == b), (.intCmpNe, fun a b => a != b), (.intCmpLt, fun a b => decide (a < b)),
   (.intCmpLe, fun a b => decide (a ≤ b)), (.intCmpGt, fun a b => decide (b < a)), (.intCmpGe, fun a b => decide (b ≤ a))]

/-- A compare at a lane: 0 or 1. -/
def cmpAt (t : ITy) (r : Int → Int → Bool) (x : Ctx) (l : Nat) : Val :=
  let n := Forms.tyBits t
  ((r (numB t (opB x t n x.f.a l)) (numB t (opB x t n x.f.b l))).toNat, none)

/-- Completion of a typed form with its result. -/
def Results (i : Instr) (c : Cls) (pair : Bool) (val : Ctx → Nat → Val) : Prop :=
  ∀ s x, Issues i s x → ∃ t, exec i s = .next t ∧ Typed c pair val s x t

end Sys2Proof.Claim

open Sys2Proof Sys2Proof.Machine Sys2Proof.Claim

/-! ### Encoding -/

/-- R163 to R187: the bytes of every well-formed encoded instruction, whatever bytes follow them, decode to that instruction with
every field as it was, and leave what follows. -/
def Obligations.DecodeOfEncode : Prop :=
  ∀ i bs rest, WellFormed i = true → encodeBytes i = some bs → decode (bs ++ rest) = .ok (i, rest)

/-- R174: a word and its extension word have at most one reading: what they decode to is well formed, and encodes to exactly those
words, so that no bit of an accepted word is ignored. -/
def Obligations.EncodeOfDecode : Prop :=
  ∀ w e i, decodeWords w e = .ok i → WellFormed i = true ∧ encode i = some (w, if w.getLsbD 55 then some e else none)

/-- The fields of a word of zeros. -/
def noF : F := unpack 0 0

/-- Words of the spec's own examples, with the instruction that each stands for (R164, R165). -/
def specWords : List (W64 × W64 × Instr) :=
  [-- vlea.i64 v2.d, a1, v4, 3
   (0x603022028100F203, 0, .intLea .v .i64 { noF with d := ⟨.v, 2⟩, a := ⟨.a, 1⟩, b := ⟨.v, 4⟩, imm8 := 3 }),
   -- vcmp.lt.u32 k3, v1, 100
   (0x6040340399015100, 0, .intCmpLt .v .u32 { noF with d := ⟨.k, 3⟩, a := ⟨.v, 1⟩, b := ⟨.imm, 0x64⟩ }),
   -- vsel.i32 v9, v2, 0, k5
   (0x60B094058000D800, 0x0000000060A00000, .intSel .v .i32 { noF with x := true, d := ⟨.v, 9⟩, a := ⟨.v, 2⟩, b := ⟨.imm, 0⟩, c := ⟨.k, 5⟩ }),
   -- aadd a3, a3, 0x200
   (0x40A0320780000000, 0x0000020000000000, .aadd { noF with x := true, d := ⟨.a, 3⟩, a := ⟨.a, 3⟩, b := ⟨.imm, 0⟩, imm32 := 0x200 }),
   -- ld.b32 v4, [a1 + 16]
   (0xC030420200002010, 0, .ld .b32 .plain { noF with d := ⟨.v, 4⟩, a := ⟨.a, 1⟩, imm8 := 16 }),
   -- atom.cas.u32.acq.clu v5, [v2.d], s3, v7
   (0xC3B0540400C03900, 0x0000000040E80000,
     .atomCas .u32 .acq { noF with x := true, d := ⟨.v, 5⟩, a := ⟨.v, 2⟩, b := ⟨.s, 3⟩, c := ⟨.v, 7⟩, sc := 2 }),
   -- fence.sc.dev
   (0xC480000000000000, 0x0000000000100000, .fenceSc { noF with x := true, sc := 4 }),
   -- wopen s5, s2, 4, 1
   (0xC710500581000001, 0, .wopen { noF with d := ⟨.s, 5⟩, a := ⟨.s, 2⟩, b := ⟨.imm, 4⟩, imm8 := 1 }),
   -- shfl.xor v2, v1, 16, k0
   (0xE030240384001800, 0, .shflXor { noF with d := ⟨.v, 2⟩, a := ⟨.v, 1⟩, b := ⟨.imm, 16⟩ }),
   -- red.add.i32 s4, v7, k2
   (0xE210440E00000002, 0, .red .addI32 { noF with d := ⟨.s, 4⟩, a := ⟨.v, 7⟩, imm8 := 2 }),
   -- bar.sync s6, 3
   (0xE400000C00001003, 0, .barSync { noF with a := ⟨.s, 6⟩, imm8 := 3 }),
   -- jarr.dev s2, 0
   (0xE580000580000000, 0x0000000000100000, .jarr { noF with x := true, a := ⟨.s, 2⟩, b := ⟨.imm, 0⟩, sc := 4 }),
   -- mma.bf16 acc2, v16, s4
   (0xF050242001000000, 0, .mma .bf16 { noF with d := ⟨.acc, 2⟩, a := ⟨.v, 16⟩, b := ⟨.s, 4⟩ }),
   -- accst acc0, [s59]
   (0xF1000A000EC00800, 0, .accst { noF with a := ⟨.acc, 0⟩, b := ⟨.s, 59⟩ }),
   -- wrsys accown, s57
   (0x0E71007200000000, 0, .wrsys { noF with d := ⟨.sys, 0x10⟩, a := ⟨.s, 57⟩ }),
   -- ctxload s0
   (0x1800000000000800, 0, .ctxload noF),
   -- cpfire s9, 12
   (0xF200001383000800, 0, .cpfire { noF with a := ⟨.s, 9⟩, b := ⟨.imm, 12⟩ }),
   -- spawn s3
   (0xF300000600000000, 0, .spawn { noF with a := ⟨.s, 3⟩ }),
   -- alaunch s2, s5
   (0xF400000401400000, 0, .alaunch { noF with a := ⟨.s, 2⟩, b := ⟨.s, 5⟩ })]

/-- R164, R165: the words that the spec works out field by field decode to the instructions that they stand for, and encode from
them. -/
def Obligations.SpecWordsDecode : Prop :=
  ∀ q ∈ specWords, decodeWords q.1 q.2.1 = .ok q.2.2 ∧ encode q.2.2 = some (q.1, if q.1.getLsbD 55 then some q.2.1 else none)

/-! ### The step -/

/-- R163, R202: when the bytes at the PC of a ready split, read at the home where its translation leads, decode to an instruction i
(eight bytes, or sixteen with X = 1), no line of them is poisoned or reserved, no older copy of them stands in the instruction cache, and their home is this
device, then the step at that split's turn is exec of i with that split named as the issuing one, after the books of the issue; after it the
watchdog is loaded again, but for an issue in a handler or of a stalled form. -/
def Obligations.StepRunsDecodedInstruction : Prop :=
  ∀ (s : State) g slot e rest w sp i bs,
    s.agenda = .issue g slot e :: rest →
    s.waves.fetch (wkey g slot) = some w → w.ex.splits.fetch e = some sp → slot < 64 →
    ({ s with agenda := rest } : State).waveReady (wkey g slot) w = true →
    ({ s with agenda := rest } : State).splitReady (wkey g slot) w sp = true → w.sound = true →
    sp.pc.toNat % 8 = 0 → decode bs = .ok (i, []) →
    let s0 : State := { s with agenda := rest }
    let after := mapNext fun t => t.afterIssue (wkey g slot) (s0.keepsWdog (wkey g slot) e)
    let r : State := { s0.bookIssue g slot e w with cur := ⟨g, slot, e⟩ }
    let t1 := r.translate (dieOf g) (some g) w.tag w.supervisor .fetch sp.pc
    ∀ k, t1.2 = .ok k → k + 8 ≤ 2 ^ 52 → t1.1.poisoned (lineOf k) = false → t1.1.isReserved (lineOf k) = false → (t1.1.core g).icache.fetch k = none →
      (keysFrom k 8).map t1.1.homeByte = bs.take 8 →
      let u1 := t1.1.updCore g fun c => { c with icache := c.icache.ins k (wordOf (bs.take 8)) }
      (bs.length = 8 → step s = after (exec i u1)) ∧
      (bs.length = 16 →
        let t2 := u1.translate (dieOf g) (some g) w.tag w.supervisor .fetch (sp.pc + 8)
        ∀ j, t2.2 = .ok j → j + 8 ≤ 2 ^ 52 → t2.1.poisoned (lineOf j) = false → t2.1.isReserved (lineOf j) = false → (t2.1.core g).icache.fetch j = none →
          (keysFrom j 8).map t2.1.homeByte = bs.drop 8 →
          step s = after (exec i (t2.1.updCore g fun c => { c with icache := c.icache.ins j (wordOf (bs.drop 8)) })))

/-- The agenda (the model's own schedule, log entry 1): an event at its head is performed, and so is a soft error; with nothing left the turns of the
cores are chosen, once in a cc; then the cc ends. A step never refuses and never faults of its own. -/
def Obligations.StepRunsTheAgenda : Prop :=
  (∀ (s : State) i rest, s.agenda = .event i :: rest → step s = exec i { s with agenda := rest }) ∧
  (∀ (s : State) u rest, s.agenda = .upset u :: rest → step s = .next (({ s with agenda := rest } : State).upset u)) ∧
  (∀ s : State, s.agenda = [] → s.phase = 0 →
    step s = .next { s.countReady with phase := 1, agenda := s.countReady.issueTurns }) ∧
  ∀ s : State, s.agenda = [] → s.phase ≠ 0 → step s = .next s.endCycle

/-! ### Memory and the state after reset -/

/-- R95: what a home holds: a byte of a write performed at its home reads as written, and every other byte at every home reads as
before. -/
def Sys2Proof.Claim.HomeWriteThenRead : Prop :=
  ∀ (s : State) k bs, k % 2 ^ 52 + bs.length ≤ 2 ^ 52 →
    (∀ i < bs.length, (s.writeHome k bs).homeByte (k + i) = bs.getD i 0) ∧
    ∀ j, (j < k ∨ k + bs.length ≤ j) → (s.writeHome k bs).homeByte j = s.homeByte j

/-- R34, R35: a write on the array's path is what DRAM holds, the home's copies of its lines go, and every other byte of DRAM is as
before. -/
def Sys2Proof.Claim.ArrayWriteReachesDram : Prop :=
  ∀ (s : State) pa bs, pa + bs.length ≤ 2 ^ 52 →
    (∀ i < bs.length, (s.writeDram pa bs).homeByte (pa + i) = bs.getD i 0 ∧ (s.writeDram pa bs).l2d.fetch (pa + i) = none) ∧
    ∀ j, (j < pa ∨ pa + bs.length ≤ j) → (s.writeDram pa bs).dramByte j = s.dramByte j

/-- A write at its home, or on the array's path, reads back, and no other byte changes. The statement is the conjunction of its parts, each described at its definition. -/
def Obligations.MemoryWrites : Prop := Sys2Proof.Claim.HomeWriteThenRead ∧ Sys2Proof.Claim.ArrayWriteReachesDram

/-- The invariant of the memories (MEMORY: strictly rising addresses, no entry that equals what an unlisted one reads as): from every state in canonical form, reached or not, a step leaves DRAM, the poison marks and the line floors in canonical form. -/
def Obligations.StepKeepsMemoryForm : Prop :=
  ∀ s t : State, MemoryForm s → step s = .next t → MemoryForm t

/-- R463, R410, R465, R467 and the rules of the registers: what reset leaves: no wave, no team, no grid, no partition and no work; empty caches, TLBs, hands and
signature slots; memories in canonical form; DRAM that reads as zero, line floors of 6 and no poison; accumulators and ACCOWN of zero; every die's registers at the values that the tables give; every
member ALIVE with incarnation 0. (That the cc counter starts at 0 and the heartbeat's time with it, and that the kitty is an empty list whatever its bytes in memory, are the model's: log entries 10, 13 and 9, DESIGN CHOICE.) -/
def Obligations.ResetState : Prop :=
  let s := State.reset
  MemoryForm s ∧ s.waves = [] ∧ s.teams = [] ∧ s.grids = [] ∧ s.kept = [] ∧ s.kitty = [] ∧ s.kbase = 0 ∧ s.klog2n = 0 ∧ s.cc = 0 ∧
  (∀ a, s.dramByte a = 0 ∧ s.homeByte a = if a / 2 ^ 52 = 0 then 0 else s.homeByte a) ∧
  (∀ line, s.lineFloor line = 6 ∧ FMap.at' false s.poison line = false ∧ s.poisoned line = false ∧ s.slotOf line = none) ∧
  (∀ g, (s.core g).l1 = [] ∧ (s.core g).icache = [] ∧ (s.core g).wcb = [] ∧ (s.core g).tlb = [] ∧ (s.core g).hand = [] ∧
    (s.core g).accown = 0 ∧ (∀ k, FMap.at' 0 (s.core g).acc k = 0) ∧ (s.core g).ce = 0 ∧ (s.core g).ue = 0) ∧
  (∀ d, (s.die d).fqbase = 0 ∧ (s.die d).fqlog2n = 0 ∧ (s.die d).fqtail = 0 ∧ (s.die d).fqhead = 0 ∧ (s.die d).fqlost = 0 ∧
    (s.die d).fqerr = 0 ∧ (s.die d).ctxt = 0 ∧ (s.die d).wdlim = 0x00100000 ∧ (s.die d).hbmiss = 4 ∧ (s.die d).recmax = 1000000 ∧
    (s.die d).myinc = 0 ∧ (∀ m, (s.die d).agent m = { st := .alive, inc := 0 }) ∧
    (s.die d).bootpc = 0 ∧ (s.die d).sysroot = 0 ∧ (s.die d).run = 0 ∧ (s.die d).bootst = 0 ∧ (s.die d).cpstat = 0 ∧
    (s.die d).pwr = 0 ∧ (s.die d).tdie = 0 ∧ (s.die d).pcap = 13000 ∧ (s.die d).tlim = 760 ∧ (s.die d).ttrip = 880 ∧
    (s.die d).thr = 0 ∧ (s.die d).thrcnt = 0 ∧ (s.die d).agestat = 0 ∧ (s.die d).stlb = []) ∧
  ∀ n, (s.stk n).parts = [] ∧ (s.stk n).ctxs = [] ∧ (s.stk n).deck = [] ∧ (s.stk n).bankq = [] ∧ (s.stk n).stkpt = 0 ∧ (s.stk n).hold = false

/-! ### Integer forms -/

/-- R220 with R137, R218, R219: the wrapping stems complete on every operand, write the exact result modulo 2^n, extended by the
type, to the destination of every file, raise no flag, and change nothing else but the split's PC. -/
def Sys2Proof.Claim.IntegerArithmeticWraps : Prop :=
  ∀ q ∈ arithTable, ∀ c t f, Results (q.1 c t f) c (Forms.wide t) (stem t q.2)

/-- R220 with R140: logic, shifts, rotates and funnel shifts, in the same frame. -/
def Sys2Proof.Claim.LogicAndShifts : Prop :=
  ∀ q ∈ logicTable, ∀ c t f, Results (q.1 c t f) c (Forms.wide t) (stem t q.2)

/-- R220: bit fields and bit counts, in the same frame. -/
def Sys2Proof.Claim.BitFieldsAndCounts : Prop :=
  ∀ q ∈ fieldTable, ∀ c t f, Results (q.1 c t f) c (Forms.wide t) (stem t q.2)

/-- R139: division truncates toward zero, the remainder takes the sign of the dividend, and a divisor of zero gives all ones and
the dividend and sets DZ, for the lanes that are active and for no other. -/
def Sys2Proof.Claim.DivisionAndRemainder : Prop :=
  ∀ q ∈ divTable, ∀ c t f, Results (q.1 c t f) c (Forms.wide t) (stem t q.2)

/-- Integer arithmetic wraps; logic, shifts, bit fields, counts, division: result, flag and frame. The statement is the conjunction of its parts, each described at its definition. -/
def Obligations.IntegerForms : Prop := Sys2Proof.Claim.IntegerArithmeticWraps ∧ Sys2Proof.Claim.LogicAndShifts ∧ Sys2Proof.Claim.BitFieldsAndCounts ∧ Sys2Proof.Claim.DivisionAndRemainder

/-- R138: a saturating stem writes the nearest number of its type and sets SATF when that is not the exact result. -/
def Obligations.SaturatingForms : Prop :=
  ∀ q ∈ satTable, ∀ c t f, Results (q.1 c t f) c (Forms.wide t) (stem t q.2)

/-- R220: a compare writes 0 or 1 to an s or t register, or the bit of each active lane of a mask register. -/
def Sys2Proof.Claim.IntegerCompares : Prop :=
  ∀ q ∈ cmpTable, ∀ c t f, Results (q.1 c t f) c false (cmpAt t q.2)

/-- R220 to R223: `sel` takes A where the lane's bit of the k register C (v class) or the whole value of C (s class) is not
zero, and B elsewhere; `lea` adds the scaled index, taken at 32 bits, to the base; `movh` puts the low half of A above the low half of its
destination, when that destination holds no stored error. -/
def Sys2Proof.Claim.SelectAddressAndMoveHigh : Prop :=
  (∀ c t f, Results (.intSel c t f) c (Forms.wide t) fun x l =>
    let n := Forms.tyBits t
    let cond := match c with | .v => bit (x.k x.f.c.num.toNat) l | .s => x.src false false x.f.c l != 0
    (extB t (if cond then opB x t n x.f.a l else opB x t n x.f.b l), none)) ∧
  (∀ c t f, Results (.intLea c t f) c (Forms.wide t) fun x l =>
    let n := Forms.tyBits t
    let j : Int := numB t ((x.src false false x.f.b l).truncate 32 : W32)
    (extB t (BitVec.ofInt n (numB t (opB x t n x.f.a l) + j * 2 ^ x.f.imm8.toNat)), none)) ∧
  ∀ t f s x, Issues (.smovh t f) s x →
    x.errorOf x.oldDst = none →
    ∃ t', exec (.smovh t f) s = .next t' ∧ Typed .s false (fun x _ =>
      let old := match x.f.d.file with | .t => x.treg x.f.d.num.toNat | _ => x.w.sreg x.f.d.num.toNat
      (((x.src false false x.f.a 0).truncate 32 ++ (old.truncate 32 : W32) : BitVec 64), none)) s x t'

/-- Integer compares, sel, lea and movh: result, destination and frame. The statement is the conjunction of its parts, each described at its definition. -/
def Obligations.ComparesAndSelects : Prop := Sys2Proof.Claim.IntegerCompares ∧ Sys2Proof.Claim.SelectAddressAndMoveHigh

/-- R71: what a source gives at a lane: a scalar register and a mask register the same value at every lane, an affine register
its base plus the lane times its stride, a varying register its lane, alone or as the pair of an even and the next odd register, and a
team register as it stood when this cc began; a 32-bit operation takes the low half, and an affine form takes a scalar register or an immediate as a base with stride 0. -/
def Obligations.SourceValues : Prop :=
  ∀ (x : Ctx) (own pair : Bool) (n : W8) (l : Nat),
    x.src own pair ⟨.s, n⟩ l = FMap.at' 0 x.w.s n.toNat ∧
    x.src own pair ⟨.k, n⟩ l = (FMap.at' 0 x.w.k n.toNat).zeroExtend 64 ∧
    x.src own pair ⟨.a, n⟩ l = (FMap.at' ⟨0, 0⟩ x.w.a n.toNat).base +
        BitVec.ofInt 64 (l * (FMap.at' ⟨0, 0⟩ x.w.a n.toNat).stride.toInt) ∧
    x.src own false ⟨.v, n⟩ l = (FMap.at' 0 x.w.v (32 * n.toNat + l)).zeroExtend 64 ∧
    x.src own true ⟨.v, n⟩ l =
        BitVec.ofNat 64 ((FMap.at' 0 x.w.v (32 * n.toNat + l)).toNat + 2 ^ 32 * (FMap.at' 0 x.w.v (32 * (n.toNat + 1) + l)).toNat) ∧
    (∀ t, x.tm = some t → t.tcc ≠ x.cc + 1 → x.src own pair ⟨.t, n⟩ l = FMap.at' 0 t.t n.toNat) ∧
    (∀ t, x.tm = some t → t.tcc = x.cc + 1 → x.src own pair ⟨.t, n⟩ l = FMap.at' 0 t.told n.toNat) ∧
    (x.f.x = false ∨ own = true → x.src own pair ⟨.imm, n⟩ l = n.signExtend 64) ∧
    (x.f.x = true ∧ own = false → x.src own pair ⟨.imm, n⟩ l = x.f.imm32.signExtend 64) ∧
    x.affSrc own ⟨.s, n⟩ = ⟨FMap.at' 0 x.w.s n.toNat, 0⟩ ∧ x.affSrc own ⟨.imm, n⟩ = ⟨x.src own false ⟨.imm, n⟩ 0, 0⟩ ∧
    ∀ (t : ITy) (o : Src), (Forms.tyBits t = 32 → opB x t 32 o l = (x.src false (Forms.wide t) o l).truncate 32) ∧ opB x t 64 o l = x.src false (Forms.wide t) o l

/-! ### Affine forms and demotions -/

/-- An affine result: base and exact stride go to the destination when the stride fits 32 signed bits; otherwise the wave takes
AFOVF and the destination is unchanged (R77, R225). -/
def AffineResult (i : Instr) (base : Ctx → W64) (stride : Ctx → Int) : Prop :=
  ∀ s x, Issues i s x →
    (-(2 ^ 31 : Int) ≤ stride x ∧ stride x ≤ 2 ^ 31 - 1 → ∃ r rp, WroteA x x.f.d.num.toNat ⟨base x, BitVec.ofInt 32 (stride x)⟩ r rp ∧
      exec i s = .next (s.withWave x ((x.w.withA r rp).withEx (x.exAt x.next)))) ∧
    (¬(-(2 ^ 31 : Int) ≤ stride x ∧ stride x ≤ 2 ^ 31 - 1) → exec i s = .next (s.raise x { code := .afovf }))

/-- R225 and R77: the seven affine forms; a scalar register or an immediate counts as a base with stride 0. -/
def Sys2Proof.Claim.AffineForms : Prop :=
  let b := fun (o : F → Src) (x : Ctx) => (x.affSrc false (o x.f)).base
  let st := fun (o : F → Src) (x : Ctx) => (x.affSrc false (o x.f)).stride.toInt
  let v := fun (o : F → Src) (x : Ctx) => x.src false false (o x.f) 0
  (∀ f, AffineResult (.aadd f) (fun x => b F.a x + b F.b x) fun x => st F.a x + st F.b x) ∧
  (∀ f, AffineResult (.asub f) (fun x => b F.a x - b F.b x) fun x => st F.a x - st F.b x) ∧
  (∀ f, AffineResult (.aneg f) (fun x => -b F.a x) fun x => -st F.a x) ∧
  (∀ f, AffineResult (.amul f) (fun x => b F.a x * v F.b x) fun x => st F.a x * (v F.b x).toInt) ∧
  (∀ f, AffineResult (.ashl f) (fun x => b F.a x <<< ((v F.b x).toNat % 64)) fun x => st F.a x * 2 ^ ((v F.b x).toNat % 64)) ∧
  (∀ f, AffineResult (.amov f) (b F.a) (st F.a)) ∧
  ∀ f, AffineResult (.aset f) (v F.a) fun x => (v F.b x).toInt

/-- R226, R227: `atos` writes the base or the value at a lane, `vtos` the value of the lowest lane of the split, extended by its type, and
sets DIFF when some lane of the split holds another; nothing else changes. -/
def Sys2Proof.Claim.DemotionToScalar : Prop :=
  (∀ f, Results (.atos f) .s false fun x _ => ((x.affSrc false x.f.a).base, none)) ∧
  (∀ f, Results (.atosLane f) .s false fun x _ => ((x.affSrc false x.f.a).lane x.f.imm8.toNat, none)) ∧
  ∀ t f, Results (.vtos t f) .s false fun x _ =>
    let n := Forms.tyBits t
    let v := fun l => opB x t n x.f.a l
    (extB t (v (lowLane x.sp.mask)), if (lanesOf x.sp.mask).all fun l => v l == v (lowLane x.sp.mask) then none else some .diff)

/-- R228: `vtoa` succeeds exactly when some base and some 32-bit stride reproduce every lane of the split (a split of one lane takes
stride 0); it then writes the base and the stride that do, and otherwise sets NAFF and leaves the destination. -/
def Sys2Proof.Claim.DemotionToAffine : Prop :=
  ∀ t f s x, Issues (.vtoa t f) s x → x.sp.mask ≠ 0 →
    let v := fun l => numB t (opB x t (Forms.tyBits t) x.f.a l)
    let fits := fun (b st : Int) => -(2 ^ 31 : Int) ≤ st ∧ st ≤ 2 ^ 31 - 1 ∧ (∀ l < 32, bit x.sp.mask l = true → v l = b + st * l) ∧
      ((lanesOf x.sp.mask).length = 1 → st = 0)
    (∀ b st, fits b st → ∃ r rp, WroteA x x.f.d.num.toNat ⟨BitVec.ofInt 64 b, BitVec.ofInt 32 st⟩ r rp ∧
      exec (.vtoa t f) s = .next (s.withWave x ((x.w.withA r rp).withEx (x.exAt x.next)))) ∧
    ((¬∃ b st, fits b st) →
      exec (.vtoa t f) s = .next (s.withWave x ((x.w.withFlags (x.w.flags ||| Flag.naff.bit)).withEx (x.exAt x.next))))

/-- Affine forms and AFOVF; demotion of varying values to scalar and affine registers. The statement is the conjunction of its parts, each described at its definition. -/
def Obligations.AffineAndDemotion : Prop := Sys2Proof.Claim.AffineForms ∧ Sys2Proof.Claim.DemotionToScalar ∧ Sys2Proof.Claim.DemotionToAffine

/-! ### Floating point -/

/-- The exact number that a finite value stands for. -/
noncomputable def exactVal : Fv → ℚ
  | .fin n m e => (if n then -1 else 1) * (m : ℚ) * (2 : ℚ) ^ e
  | _ => 0

/-- R141: bits of the exponent field and of the fraction field of a format, and its bias. -/
def shapeOf : Fmt → Nat × Nat × Int
  | .f64 => (11, 52, 1023) | .f32 => (8, 23, 127) | .f16 => (5, 10, 15) | .bf16 => (8, 7, 127)
  | .e5m2 => (5, 2, 15) | .e4m3 => (4, 3, 7) | .e2m1 => (2, 1, 1)

/-- R141: the fraction, the exponent field and the sign of a pattern. -/
def fracOf (f : Fmt) (b : Nat) : Nat := b % 2 ^ (shapeOf f).2.1
def expoOf (f : Fmt) (b : Nat) : Nat := b / 2 ^ (shapeOf f).2.1 % 2 ^ (shapeOf f).1
def signOf (f : Fmt) (b : Nat) : Bool := b / 2 ^ ((shapeOf f).2.1 + (shapeOf f).1) % 2 == 1

/-- R141: the canonical NaN. -/
def nanBits : Fmt → Nat
  | .f64 => 0x7FF8000000000000 | .f32 => 0x7FC00000 | .f16 => 0x7E00 | .bf16 => 0x7FC0 | .e5m2 => 0x7E | _ => 0x7F

/-- R141: the pattern of a signed zero, and of an infinity. -/
def zeroBits (f : Fmt) (n : Bool) : Nat := if n then 2 ^ ((shapeOf f).2.1 + (shapeOf f).1) else 0
def infinityBits (f : Fmt) (n : Bool) : Nat := zeroBits f n + (2 ^ (shapeOf f).1 - 1) * 2 ^ (shapeOf f).2.1

/-- A finite number. -/
def IsNumber (v : Fv) : Prop := v.isNan = false ∧ v.isInf = false

/-- R141, R143: the value of every pattern of every format: infinities and NaNs where the format has them, a NaN signalling when its top fraction bit is 0 in a format wider than 8 bits, subnormals and
normal numbers elsewhere. -/
def Sys2Proof.Claim.FormatValues : Prop :=
  ∀ (f : Fmt) (b : Nat), let q := shapeOf f
    let top := 2 ^ q.1 - 1
    (f ≠ .e4m3 → f ≠ .e2m1 → expoOf f b = top → fracOf f b = 0 → valueOf f b = .inf (signOf f b)) ∧
    (f ≠ .e4m3 → f ≠ .e2m1 → expoOf f b = top → fracOf f b ≠ 0 →
      valueOf f b = .nan (decide (f ≠ .e5m2 ∧ fracOf f b < 2 ^ (q.2.1 - 1)))) ∧
    (f = .e4m3 → expoOf f b = 15 → fracOf f b = 7 → valueOf f b = .nan false) ∧
    ((f = .e2m1 ∨ expoOf f b ≠ top ∨ (f = .e4m3 ∧ fracOf f b ≠ 7)) →
      IsNumber (valueOf f b) ∧ (valueOf f b).neg = signOf f b ∧
      exactVal (valueOf f b) = (if signOf f b then -1 else 1) *
        (if expoOf f b = 0 then (fracOf f b : ℚ) / 2 ^ q.2.1 * (2 : ℚ) ^ (1 - q.2.2)
         else (1 + (fracOf f b : ℚ) / 2 ^ q.2.1) * (2 : ℚ) ^ ((expoOf f b : Int) - q.2.2)))

/-- R145, R146: rounding a magnitude m 2^e to a multiple of 2^q keeps it when it is one already. Otherwise it gives the multiple below or the one above:
toward zero the lower, toward either infinity the one on that side, to nearest the nearer and of two equally near the even one, and
stochastically the upper exactly when the first 16 discarded bits plus u reach 2^16. -/
def Obligations.RoundingModes : Prop :=
  ∀ (m : Nat) (e q : Int) (neg : Bool) (u : Nat), u < 2 ^ 16 →
    (q ≤ e → ∀ rm, roundTo m e q neg rm u = (m * 2 ^ (e - q).toNat, false, false)) ∧
    (e < q → ∀ rm, let w := 2 ^ (q - e).toNat
      let k := (roundTo m e q neg rm u).1
      let lo := m / w
      (k = lo ∨ k = lo + 1) ∧ (m % w = 0 → k = lo) ∧ ((roundTo m e q neg rm u).2.2 = true ↔ m % w ≠ 0) ∧
      (rm = .rtz → k = lo) ∧
      (rm = .rdn → m % w ≠ 0 → k = if neg then lo + 1 else lo) ∧
      (rm = .rup → m % w ≠ 0 → k = if neg then lo else lo + 1) ∧
      (rm = .rne → 2 * (m - lo * w) < w → k = lo) ∧ (rm = .rne → w < 2 * (m - lo * w) → k = lo + 1) ∧
      (rm = .rne → 2 * (m - lo * w) = w → k % 2 = 0) ∧
      (rm = .sr → m % w ≠ 0 → k = if 2 ^ 16 ≤ m % w * 2 ^ 16 / w + u then lo + 1 else lo))

/-- R141, R147: rounding leaves every finite value of a format as it is: the pattern that it gives for the value of a pattern is that pattern, in
every mode, with no flag. -/
def Sys2Proof.Claim.RoundingKeepsRepresentable : Prop :=
  ∀ (f : Fmt) (rm : Rm) (u b : Nat), b < 2 ^ f.width → (valueOf f b).isNan = false → (valueOf f b).isInf = false →
    roundFp f rm u false false (valueOf f b) = (b, none)

/-- R144: sums, products and fused products of finite values are exact before they are rounded, and the order of finite values is
that of their numbers. -/
def Sys2Proof.Claim.FiniteArithmeticIsExact : Prop :=
  ∀ (n m p : Bool) (i j k : Nat) (a b c : Int) (rm : Rm),
    let x := Fv.fin n i a; let y := Fv.fin m j b; let z := Fv.fin p k c
    (exactVal (fvAdd x y rm).1 = exactVal x + exactVal y ∧ (fvAdd x y rm).2 = false) ∧
    (exactVal (fvMul x y).1 = exactVal x * exactVal y ∧ (fvMul x y).2 = false) ∧
    (exactVal (fvFma x y z rm).1 = exactVal x * exactVal y + exactVal z ∧ (fvFma x y z rm).2 = false) ∧
    (fvLt x y = true ↔ exactVal x < exactVal y) ∧
    exactVal x.negate = -exactVal x ∧ exactVal x.absolute = |exactVal x|

/-- Rounding keeps what is representable, and finite sums and products are exact before their one rounding. The statement is the conjunction of its parts, each described at its definition. -/
def Obligations.RoundingIsExact : Prop := Sys2Proof.Claim.RoundingKeepsRepresentable ∧ Sys2Proof.Claim.FiniteArithmeticIsExact

/-- R147: what a value that rounds beyond max finite becomes, in a form without `.sat` and in one with it: an infinity where the mode rounds away and
the format has one, the NaN of E4M3, max finite elsewhere; FPX is set, or SATF under `.sat`, and E2M1 saturates with no flag. (Under stochastic rounding an exact result beyond max finite gives max finite: DESIGN CHOICE, log entry 23, as R147 does not say.) -/
def Obligations.OverflowOutcomes : Prop :=
  ∀ (f : Fmt) (rm : Rm) (u : Nat) (ftz sat : Bool) (n : Bool) (m : Nat) (e : Int),
    let q := max ((Nat.log2 m : Int) + e) (1 - f.bias) - f.mant
    let r := roundTo m e q n rm u
    m ≠ 0 → (f.maxFin.1 : ℚ) * 2 ^ f.maxFin.2 < (r.1 : ℚ) * 2 ^ q →
    let away := match rm with | .rne => true | .rtz => false | .rdn => n | .rup => !n | .sr => r.2.1
    roundFp f rm u ftz sat (.fin n m e) =
      if f = .e2m1 then (maxBits f n, none)
      else if sat then (maxBits f n, some .satf)
      else (if away then (if f = .e4m3 then f.canon else infBits f n) else maxBits f n, some .fpx)

/-- R145: the mode of each rounding code; code 0 takes FPCTL.RM. R231: the random value of an element of a lane. R143, R148, R150: what rounding makes of a NaN, of an infinity, of a zero and of a value that does not overflow: the canonical NaN, with
FPX for a signalling one; the infinity, or in E4M3 its NaN with FPX and under `.sat` 448 with SATF; the zero of its sign; and the multiple that R145 rounds to, replaced by a zero of its sign where FTZ flushes a
subnormal, with no flag. -/
def Sys2Proof.Claim.RoundedValues : Prop :=
  (∀ w : Wave, w.rmOf .rne = .rne ∧ w.rmOf .rtz = .rtz ∧ w.rmOf .rdn = .rdn ∧ w.rmOf .rup = .rup ∧ w.rmOf .sr = .sr ∧
    w.rmOf .fpctl = match w.fpctl.toNat % 4 with | 0 => .rne | 1 => .rtz | 2 => .rdn | _ => .rup) ∧
  (∀ (x : Ctx) l e, x.rndBits .s l e = (x.w.sreg x.f.rnd.toNat).toNat % 65536 ∧
    x.rndBits .v l e = (x.w.vreg x.f.rnd.toNat l).toNat / 2 ^ (16 * e) % 65536) ∧
  ∀ (f : Fmt) (rm : Rm) (u : Nat) (ftz sat : Bool), f ≠ .e2m1 →
    (∀ s, roundFp f rm u ftz sat (.nan s) = (nanBits f, if s then some .fpx else none)) ∧
    (∀ n, roundFp f rm u ftz sat (.inf n) = if f = .e4m3 then (if sat then (zeroBits f n + 0x7E, some .satf) else (0x7F, some .fpx))
      else (infinityBits f n, none)) ∧
    (∀ (v : Fv) (bad : Bool), roundOp f rm u ftz (v, bad) = ((roundFp f rm u ftz false v).1, if bad then some .fpx else (roundFp f rm u ftz false v).2)) ∧
    ∀ (f : Fmt) (n : Bool) (m : Nat) (e : Int),
      let p := roundFp f rm u ftz sat (.fin n m e)
      let q := max ((Nat.log2 m : Int) + e) (1 - f.bias) - f.mant
      let r := (roundTo m e q n rm u).1
      (m = 0 → p = (zeroBits f n, none)) ∧
      (m ≠ 0 → (r : ℚ) * 2 ^ q ≤ (f.maxFin.1 : ℚ) * 2 ^ f.maxFin.2 →
        p.2 = none ∧ p.1 < 2 ^ f.width ∧ IsNumber (valueOf f p.1) ∧ (valueOf f p.1).neg = n ∧
        exactVal (valueOf f p.1) =
          if ftz = true ∧ (f = .f32 ∨ f = .f64) ∧ (r : ℚ) * 2 ^ q < (2 : ℚ) ^ (1 - (shapeOf f).2.2) then 0
          else (if n then -1 else 1) * ((r : ℚ) * 2 ^ q))

/-- R144, R148, R149, R233: what the operations make of NaNs, infinities and zeros: a NaN operand gives a NaN, invalid when one signals; infinities of unlike sign do not add; zero
times infinity is invalid, in `fma` whatever is added; an exact zero sum of unlike signs is +0, and -0 under RDN. Under FTZ an FP32 or FP64 subnormal operand is a zero of its sign, and no other operand changes. -/
def Sys2Proof.Claim.SpecialOperands : Prop :=
  (∀ (f : Fmt) (ftz : Bool) (b : Nat), flushIn f ftz (valueOf f b) =
    if ftz = true ∧ (f = .f32 ∨ f = .f64) ∧ expoOf f b = 0 ∧ fracOf f b ≠ 0 then .fin (signOf f b) 0 0 else valueOf f b) ∧
  ∀ (a b c : Fv) (rm : Rm),
    let clash := (a.isZero = true ∧ b.isInf = true) ∨ (a.isInf = true ∧ b.isZero = true)
    let unlike := a.neg != b.neg
    (a.isNan = true ∨ b.isNan = true → fvAdd a b rm = (.nan false, a.isSnan || b.isSnan) ∧ fvMul a b = (.nan false, a.isSnan || b.isSnan)) ∧
    (clash → fvMul a b = (.nan false, true) ∧ fvFma a b c rm = (.nan false, true)) ∧
    (¬clash → (a.isNan = true ∨ b.isNan = true ∨ c.isNan = true) → fvFma a b c rm = (.nan false, a.isSnan || b.isSnan || c.isSnan)) ∧
    (∀ n m, fvAdd (.inf n) (.inf m) rm = if n = m then (.inf n, false) else (.nan false, true)) ∧
    (∀ n m i e, fvAdd (.inf n) (.fin m i e) rm = (.inf n, false) ∧ fvAdd (.fin m i e) (.inf n) rm = (.inf n, false)) ∧
    (a.isNan = false → b.isNan = false → (a.isInf = true ∨ b.isInf = true) → ¬clash →
      fvMul a b = (.inf unlike, false) ∧
      (∀ n, fvFma a b (.inf n) rm = if n = unlike then (.inf n, false) else (.nan false, true)) ∧
      ∀ n i e, fvFma a b (.fin n i e) rm = (.inf unlike, false)) ∧
    (IsNumber a → IsNumber b → (fvMul a b).1.neg = unlike ∧ ∀ n, fvFma a b (.inf n) rm = (.inf n, false)) ∧
    (IsNumber a → IsNumber b → exactVal a + exactVal b = 0 →
      (fvAdd a b rm).1.isZero = true ∧ (fvAdd a b rm).1.neg = if a.isZero = true ∧ unlike = false then a.neg else rm == .rdn) ∧
    (IsNumber a → IsNumber b → IsNumber c → exactVal a * exactVal b + exactVal c = 0 →
      (fvFma a b c rm).1.isZero = true ∧ (fvFma a b c rm).1.neg = if c.isZero = true ∧ unlike = c.neg then c.neg else rm == .rdn) ∧
    a.negate.neg = (!a.neg && !a.isNan) ∧ a.absolute.neg = false ∧ a.negate.isNan = a.isNan ∧ a.absolute.isNan = a.isNan ∧
    a.negate.isSnan = a.isSnan ∧ a.absolute.isSnan = a.isSnan ∧ a.negate.isInf = a.isInf ∧ a.absolute.isInf = a.isInf

/-- The order of numbers that are no NaN: infinities outside, finite ones by what they stand for (R162). -/
def Less (a b : Fv) : Prop :=
  (a = .inf true ∧ b ≠ .inf true) ∨ (b = .inf false ∧ a ≠ .inf false) ∨ (IsNumber a ∧ IsNumber b ∧ exactVal a < exactVal b)

/-- The same with -0 below +0 (R162). -/
def Below (a b : Fv) : Prop := Less a b ∨ (a.isZero = true ∧ b.isZero = true ∧ a.neg = true ∧ b.neg = false)

/-- R162: a comparison follows the order of the numbers. The minimum and the maximum of a NaN and another operand is that other; of two NaNs a NaN; of two numbers the one that the other does not pass, with -0 below +0; a
signalling NaN is flagged. -/
def Sys2Proof.Claim.MinAndMax : Prop :=
  ∀ a b : Fv,
    (a.isNan = false → b.isNan = false → (fvLt a b = true ↔ Less a b)) ∧
    (fvMin a b).2 = (a.isSnan || b.isSnan) ∧ (fvMax a b).2 = (a.isSnan || b.isSnan) ∧
    (a.isNan = true → b.isNan = true → (fvMin a b).1 = .nan false ∧ (fvMax a b).1 = .nan false) ∧
    (a.isNan = true → b.isNan = false → (fvMin a b).1 = b ∧ (fvMax a b).1 = b) ∧
    (a.isNan = false → b.isNan = true → (fvMin a b).1 = a ∧ (fvMax a b).1 = a) ∧
    (a.isNan = false → b.isNan = false →
      ((fvMin a b).1 = a ∨ (fvMin a b).1 = b) ∧ ¬Below a (fvMin a b).1 ∧ ¬Below b (fvMin a b).1 ∧
      ((fvMax a b).1 = a ∨ (fvMax a b).1 = b) ∧ ¬Below (fvMax a b).1 a ∧ ¬Below (fvMax a b).1 b)

/-- R141, R143: finite arithmetic as forms run it: R232, R233: `add`, `sub`, `mul`, `fma` and `sqrt` of every format read their elements with FTZ applied, compute the exact
value, round it once by the form's code, and complete on every operand with the frame of a typed form. -/
def Sys2Proof.Claim.FpArithmeticForms : Prop :=
  ∀ k r f,
    (Results (.fpAdd k r f) (Forms.fpCls k) (Forms.fpWide k) fun x l => x.fpVal k r (fun g rm u z a b _ => roundOp g rm u z (fvAdd a b rm)) l) ∧
    (Results (.fpSub k r f) (Forms.fpCls k) (Forms.fpWide k) fun x l =>
      x.fpVal k r (fun g rm u z a b _ => roundOp g rm u z (fvAdd a b.negate rm)) l) ∧
    (Results (.fpMul k r f) (Forms.fpCls k) (Forms.fpWide k) fun x l => x.fpVal k r (fun g rm u z a b _ => roundOp g rm u z (fvMul a b)) l) ∧
    (Results (.fpFma k r f) (Forms.fpCls k) (Forms.fpWide k) fun x l =>
      x.fpVal k r (fun g rm u z a b c => roundOp g rm u z (fvFma a b c rm)) l) ∧
    (Results (.fpSqrt k r f) (Forms.fpCls k) (Forms.fpWide k) fun x l => x.fpVal k r (fun g rm u z a _ _ => fvSqrt g rm u z a) l) ∧
    (Results (.fpMin k f) (Forms.fpCls k) (Forms.fpWide k) fun x l => x.fpVal k .rne (fun g _ u z a b _ => roundOp g .rne u z (fvMin a b)) l) ∧
    (Results (.fpMax k f) (Forms.fpCls k) (Forms.fpWide k) fun x l => x.fpVal k .rne (fun g _ u z a b _ => roundOp g .rne u z (fvMax a b)) l) ∧
    (Results (.fpAbs k f) (Forms.fpCls k) (Forms.fpWide k) fun x l =>
      x.fpVal k .rne (fun g _ u z a _ _ => roundOp g .rne u z (a.absolute, false)) l) ∧
    Results (.fpNeg k f) (Forms.fpCls k) (Forms.fpWide k) fun x l =>
      x.fpVal k .rne (fun g _ u z a _ _ => roundOp g .rne u z (a.negate, false)) l

/-- Floating-point arithmetic forms complete with one rounding, FTZ and the flags; NaNs, infinities, zeros, minimum and maximum. The statement is the conjunction of its parts, each described at its definition. -/
def Obligations.FpArithmeticForms : Prop := Sys2Proof.Claim.FpArithmeticForms ∧ Sys2Proof.Claim.FormatValues ∧ Sys2Proof.Claim.RoundedValues ∧ Sys2Proof.Claim.SpecialOperands ∧ Sys2Proof.Claim.MinAndMax

/-- R159, R160: the special functions complete on every operand, with the frame of a typed form; an FP32 or FP64 element takes the value of
its function, a packed one the FP32 value rounded once. -/
def Sys2Proof.Claim.SpecialFunctionForms : Prop :=
  ∀ k f,
    (Results (.fpRcp k f) (Forms.fpCls k) (Forms.fpWide k) fun x l => x.specialVal k .rcp l) ∧
    (Results (.fpRsqrt k f) (Forms.fpCls k) (Forms.fpWide k) fun x l => x.specialVal k .rsqrt l) ∧
    (Results (.fpExp2 k f) (Forms.fpCls k) (Forms.fpWide k) fun x l => x.specialVal k .exp2 l) ∧
    (Results (.fpLog2 k f) (Forms.fpCls k) (Forms.fpWide k) fun x l => x.specialVal k .log2 l) ∧
    (Results (.fpSin k f) (Forms.fpCls k) (Forms.fpWide k) fun x l => x.specialVal k .sin l) ∧
    Results (.fpCos k f) (Forms.fpCls k) (Forms.fpWide k) fun x l => x.specialVal k .cos l

/-- R148, R160: the special values, whatever the device's own values are: what zeros, infinities, NaNs and negative numbers give; a NaN from an operand that is none sets FPX, and so does a signalling
NaN; nothing else here sets a flag. Under FTZ a subnormal operand counts as a zero of its sign, and no result is subnormal. -/
def Sys2Proof.Claim.SpecialFunctionValues : Prop :=
  ∀ (f : Fmt) (ftz : Bool), f = .f32 ∨ f = .f64 →
    let sp := fun (fn : Special) (b : Nat) => specialOf fn f ftz b
    let inf := (infinityBits f false, none)
    let ninf := (infinityBits f true, none)
    let zero : Nat × Option Flag := (0, none)
    let nzero := (zeroBits f true, none)
    let bad := (nanBits f, some Flag.fpx)
    let one := (if f = .f32 then 0x3F800000 else 0x3FF0000000000000, none)
    let z := zeroBits f true
    let p := infinityBits f false
    let n := infinityBits f true
    (sp .rcp 0 = inf ∧ sp .rcp z = ninf ∧ sp .rcp p = zero ∧ sp .rcp n = nzero) ∧
    (sp .rsqrt 0 = inf ∧ sp .rsqrt z = ninf ∧ sp .rsqrt p = zero ∧ sp .rsqrt n = bad) ∧
    (sp .exp2 0 = one ∧ sp .exp2 z = one ∧ sp .exp2 p = inf ∧ sp .exp2 n = zero) ∧
    (sp .log2 0 = ninf ∧ sp .log2 z = ninf ∧ sp .log2 p = inf ∧ sp .log2 n = bad) ∧
    (sp .sin 0 = zero ∧ sp .sin z = nzero ∧ sp .sin p = bad ∧ sp .sin n = bad) ∧
    (sp .cos 0 = one ∧ sp .cos z = one ∧ sp .cos p = bad ∧ sp .cos n = bad) ∧
    ∀ (fn : Special) (b : Nat),
      (∀ s, valueOf f b = .nan s → sp fn b = (nanBits f, if s then some .fpx else none)) ∧
      (ftz = true → expoOf f b = 0 → sp fn b = sp fn (zeroBits f (signOf f b))) ∧
      (ftz = true → expoOf f (sp fn b).1 = 0 → fracOf f (sp fn b).1 = 0) ∧
      ((fn = .rsqrt ∨ fn = .log2) → IsNumber (valueOf f b) → signOf f b = true → fracOf f b + expoOf f b ≠ 0 → (ftz = true → expoOf f b ≠ 0) →
        sp fn b = bad)

/-- R159, R160: the exact cases and the overflows: the reciprocal of a power of two, 1 over the root of a power of four, 2 to a whole power from -149 to 127, and the logarithm of a power of two are exact; a reciprocal beyond max finite is an infinity of its sign with FPX, and
so is 2 to 128 or more; 2 to -150 or less is +0 with no flag. A packed element takes the FP32 function of its value, rounded once: a finite result beyond max finite sets FPX, and an infinity keeps the flag of the FP32 step. -/
def Sys2Proof.Claim.ExactAndOverflowing : Prop :=
  (∀ (f : Fmt) (b : Nat), f = .f32 ∨ f = .f64 → IsNumber (valueOf f b) → exactVal (valueOf f b) ≠ 0 →
    let x := exactVal (valueOf f b)
    let out := fun fn => specialOf fn f false b
    let is := fun (fn : Special) (y : ℚ) => (out fn).2 = none ∧ IsNumber (valueOf f (out fn).1) ∧ exactVal (valueOf f (out fn).1) = y
    let big := (f.maxFin.1 : ℚ) * 2 ^ f.maxFin.2
    (big < |x⁻¹| → out .rcp = (infinityBits f (signOf f b), some .fpx)) ∧
    (∀ k : Int, |x| = (2 : ℚ) ^ k → |x⁻¹| ≤ big → is .rcp x⁻¹) ∧
    (∀ k : Int, x = (4 : ℚ) ^ k → is .rsqrt ((2 : ℚ) ^ (-k))) ∧
    (f = .f32 →
      (∀ k : Int, -149 ≤ k → k ≤ 127 → x = k → is .exp2 ((2 : ℚ) ^ k)) ∧
      (128 ≤ x → out .exp2 = (infinityBits f false, some .fpx)) ∧ (x ≤ -150 → out .exp2 = (0, none)) ∧
      ∀ k : Int, x = (2 : ℚ) ^ k → is .log2 k)) ∧
  ∀ (fn : Special) (f : Fmt) (b : Nat), f = .f16 ∨ f = .bf16 → b < 65536 →
    let narrow := fun (r : Nat × Option Flag) => match valueOf .f32 r.1 with
      | .nan _ => (nanBits f, r.2)
      | .inf n => (infinityBits f n, r.2)
      | v => ((roundFp f .rne 0 false false v).1, r.2.or (roundFp f .rne 0 false false v).2)
    (∀ s, valueOf f b = .nan s → specialPacked fn f b = (nanBits f, if s then some .fpx else none)) ∧
    (∀ n, valueOf f b = .inf n → specialPacked fn f b = narrow (specialOf fn .f32 false (infinityBits .f32 n))) ∧
    ∀ p < 2 ^ 32, IsNumber (valueOf f b) → IsNumber (valueOf .f32 p) → signOf .f32 p = signOf f b → exactVal (valueOf .f32 p) = exactVal (valueOf f b) →
      specialPacked fn f b = narrow (specialOf fn .f32 false p)

/-- R159, R146: sqrt is correctly rounded: its result is one of the two neighbours lo and lo + 1 between which the root lies: the root itself where that is representable, else the one that the mode picks, by squares of
the neighbours, of their middle, and for stochastic rounding of the point that the first 16 discarded bits name. It overflows never and sets no flag; -0 gives -0, a negative operand the canonical NaN with FPX. -/
def Sys2Proof.Claim.SquareRoots : Prop :=
  ∀ (f : Fmt) (rm : Rm) (u : Nat) (ftz : Bool), f = .f64 ∨ f = .f32 ∨ f = .f16 ∨ f = .bf16 → u < 2 ^ 16 →
    let root := fun v => fvSqrt f rm u ftz v
    (∀ s, root (.nan s) = (nanBits f, if s then some .fpx else none)) ∧
    root (.inf false) = (infinityBits f false, none) ∧ root (.inf true) = (nanBits f, some .fpx) ∧
    (∀ n e, root (.fin n 0 e) = (zeroBits f n, none)) ∧ (∀ m e, m ≠ 0 → root (.fin true m e) = (nanBits f, some .fpx)) ∧
    ∀ b m e, valueOf f b = .fin false m e → m ≠ 0 → ∃ k lo,
      let x := exactVal (valueOf f b)
      let y := exactVal (valueOf f lo)
      let y' := exactVal (valueOf f (lo + 1))
      root (valueOf f b) = (k, none) ∧ lo + 1 < infinityBits f false ∧ 0 ≤ y ∧ y ^ 2 ≤ x ∧ x < y' ^ 2 ∧ (k = lo ∨ k = lo + 1) ∧
      (y ^ 2 = x → k = lo) ∧
      (y ^ 2 ≠ x → (rm = .rtz ∨ rm = .rdn → k = lo) ∧ (rm = .rup → k = lo + 1) ∧
        (rm = .rne → (4 * x < (y + y') ^ 2 → k = lo) ∧ ((y + y') ^ 2 < 4 * x → k = lo + 1)) ∧
        (rm = .sr → ∀ d < 2 ^ 16, (y + d * (y' - y) / 2 ^ 16) ^ 2 ≤ x → x < (y + (d + 1) * (y' - y) / 2 ^ 16) ^ 2 →
          k = if 2 ^ 16 ≤ d + u then lo + 1 else lo))

/-- The unit in the last place of a number between 2^k and 2^(k + 1) in a format (R159). -/
noncomputable def ulpAt (f : Fmt) (k : Int) : ℚ := (2 : ℚ) ^ (max k (1 - (shapeOf f).2.2) - (shapeOf f).2.1)

/-- R159: the bounds of rcp and rsqrt: within 1 ulp of the exact result, and rsqrt of FP32 within 2, with no flag, wherever the result neither overflows nor is flushed. -/
def Sys2Proof.Claim.ReciprocalBounds : Prop :=
  ∀ (f : Fmt) (b : Nat) (ftz : Bool), f = .f32 ∨ f = .f64 → IsNumber (valueOf f b) → exactVal (valueOf f b) ≠ 0 → (ftz = true → expoOf f b ≠ 0) →
    let x := exactVal (valueOf f b)
    let y := fun fn => exactVal (valueOf f (specialOf fn f ftz b).1)
    let tame := fun fn => (specialOf fn f ftz b).2 = none ∧ IsNumber (valueOf f (specialOf fn f ftz b).1)
    (|x⁻¹| ≤ (f.maxFin.1 : ℚ) * 2 ^ f.maxFin.2 → tame .rcp ∧
      ∀ k : Int, (2 : ℚ) ^ k ≤ |x⁻¹| → |x⁻¹| < (2 : ℚ) ^ (k + 1) → (ftz = true → y .rcp ≠ 0) → |y .rcp - x⁻¹| ≤ ulpAt f k) ∧
    (0 < x → tame .rsqrt ∧ ∀ k : Int, (4 : ℚ) ^ k ≤ x⁻¹ → x⁻¹ < (4 : ℚ) ^ (k + 1) →
      let d := (if f = .f64 then 1 else 2) * ulpAt f k
      0 ≤ y .rsqrt ∧ x⁻¹ ≤ (y .rsqrt + d) ^ 2 ∧ (y .rsqrt ≤ d ∨ (y .rsqrt - d) ^ 2 ≤ x⁻¹))

/-- R159: the bounds of the transcendental functions of FP32 against the functions of the real numbers: 2 ulp for exp2, and for log2 outside [0.5, 2]; 2^-22 for log2 inside, for sin and for cos,
which lie in [-1, 1]; no flag (stated without FTZ). -/
def Sys2Proof.Claim.TranscendentalBounds : Prop :=
  ∀ (b : Nat), IsNumber (valueOf .f32 b) → exactVal (valueOf .f32 b) ≠ 0 →
    let x : ℝ := ((exactVal (valueOf .f32 b) : ℚ) : ℝ)
    let y := fun fn => ((exactVal (valueOf .f32 (specialOf fn .f32 false b).1) : ℚ) : ℝ)
    let tame := fun fn => (specialOf fn .f32 false b).2 = none ∧ IsNumber (valueOf .f32 (specialOf fn .f32 false b).1)
    (tame .sin ∧ |y .sin - Real.sin x| ≤ 2 ^ (-22 : Int) ∧ |y .sin| ≤ 1) ∧
    (tame .cos ∧ |y .cos - Real.cos x| ≤ 2 ^ (-22 : Int) ∧ |y .cos| ≤ 1) ∧
    (-150 < x → x < 128 → tame .exp2 ∧ 0 ≤ y .exp2 ∧ ∀ k : Int, (2 : ℝ) ^ k ≤ (2 : ℝ) ^ x → (2 : ℝ) ^ x < (2 : ℝ) ^ (k + 1) →
      |y .exp2 - (2 : ℝ) ^ x| ≤ 2 * ((ulpAt .f32 k : ℚ) : ℝ)) ∧
    (0 < x → tame .log2 ∧ (1 / 2 ≤ x → x ≤ 2 → |y .log2 - Real.logb 2 x| ≤ 2 ^ (-22 : Int)) ∧
      ((x < 1 / 2 ∨ 2 < x) → ∀ k : Int, (2 : ℝ) ^ k ≤ |Real.logb 2 x| → |Real.logb 2 x| < (2 : ℝ) ^ (k + 1) →
        |y .log2 - Real.logb 2 x| ≤ 2 * ((ulpAt .f32 k : ℚ) : ℝ)))

/-- sqrt is correctly rounded, and the special functions keep the bounds of R159. The statement is the conjunction of its parts, each described at its definition. -/
def Obligations.AccuracyOfFunctions : Prop := Sys2Proof.Claim.SquareRoots ∧ Sys2Proof.Claim.ReciprocalBounds ∧ Sys2Proof.Claim.TranscendentalBounds

/-- R234: the class of every pattern by its fields, and of a zero that FTZ has made. -/
def Sys2Proof.Claim.Classes : Prop :=
  ∀ (f : Fmt) (b : Nat), f = .f64 ∨ f = .f32 ∨ f = .f16 ∨ f = .bf16 →
    (∀ n, classOf f (.fin n 0 0) = if n then 5 else 6) ∧
    classOf f (valueOf f b) =
      if expoOf f b = 2 ^ (shapeOf f).1 - 1 then
        (if fracOf f b = 0 then (if signOf f b then 2 else 9) else if fracOf f b < 2 ^ ((shapeOf f).2.1 - 1) then 0 else 1)
      else if expoOf f b = 0 then
        (if fracOf f b = 0 then (if signOf f b then 5 else 6) else (if signOf f b then 4 else 7))
      else (if signOf f b then 3 else 8)

/-- R234, R235: `class` gives one bit of ten, and the compares follow the order of the numbers with every relation but `ne` and `un` false on a NaN; a
signalling NaN sets FPX; both complete on every operand. -/
def Sys2Proof.Claim.FpTests : Prop :=
  let rel := fun (lt eq gt un : Bool) (_ : Fmt) (_ : Rm) (_ : Nat) (_ : Bool) (a b _ : Fv) =>
    (((if a.isNan || b.isNan then un else if fvLt a b then lt else if fvLt b a then gt else eq).toNat : Nat),
     if a.isSnan || b.isSnan then some Flag.fpx else none)
  ∀ k f,
    (Results (.fpClass k f) (Forms.fpCls k) false fun x l => x.fpVal k .rne (fun g _ _ _ a _ _ => (2 ^ classOf g a, none)) l) ∧
    (Results (.fpCmpEq k f) (Forms.fpCls k) false fun x l => x.fpVal k .rne (rel false true false false) l) ∧
    (Results (.fpCmpNe k f) (Forms.fpCls k) false fun x l => x.fpVal k .rne (rel true false true true) l) ∧
    (Results (.fpCmpLt k f) (Forms.fpCls k) false fun x l => x.fpVal k .rne (rel true false false false) l) ∧
    (Results (.fpCmpLe k f) (Forms.fpCls k) false fun x l => x.fpVal k .rne (rel true true false false) l) ∧
    (Results (.fpCmpGt k f) (Forms.fpCls k) false fun x l => x.fpVal k .rne (rel false false true false) l) ∧
    (Results (.fpCmpGe k f) (Forms.fpCls k) false fun x l => x.fpVal k .rne (rel false true true false) l) ∧
    Results (.fpCmpUn k f) (Forms.fpCls k) false fun x l => x.fpVal k .rne (rel false false false true) l

/-- Special functions with their special values, exact cases and overflows; class and floating-point compares. The statement is the conjunction of its parts, each described at its definition. -/
def Obligations.SpecialFunctionsAndTests : Prop := Sys2Proof.Claim.SpecialFunctionForms ∧ Sys2Proof.Claim.SpecialFunctionValues ∧ Sys2Proof.Claim.ExactAndOverflowing ∧ Sys2Proof.Claim.FpTests ∧ Sys2Proof.Claim.Classes

/-- R148, R218, R237: the value that a conversion reads: a signed or unsigned number of its width, or the value of the pattern, where FTZ makes an FP32 or FP64 subnormal a zero of its sign. -/
def readAs (src : CvtFmt) (ftz : Bool) (p : W64) : Fv :=
  let num := fun (i : Int) => Fv.fin (decide (i < 0)) i.natAbs 0
  let float := fun (f : Fmt) (b : Nat) => if ftz && expoOf f b == 0 then
      (if fracOf f b = 0 then valueOf f b else .fin (signOf f b) 0 0) else valueOf f b
  match src with
  | .i32 => num (p.truncate 32 : BitVec 32).toInt
  | .u32 => num (p.truncate 32 : BitVec 32).toNat
  | .i64 => num p.toInt
  | .u64 => num p.toNat
  | .f64 => float .f64 p.toNat
  | .f32 => float .f32 (p.toNat % 2 ^ 32)
  | .f16 => valueOf .f16 (p.toNat % 2 ^ 16)
  | .bf16 => valueOf .bf16 (p.toNat % 2 ^ 16)

/-- R149, R150: conversion to an integer from lo to hi: a NaN gives 0 with FPX; a value outside gives the nearest bound, with SATF under `.sat` and FPX without; one inside is rounded to a whole number, with FPX when
that changes it. -/
def toWhole (lo hi : Int) (rm : Rm) (u : Nat) (sat : Bool) (v : Fv) : Val :=
  let beyond := if sat then some Flag.satf else some Flag.fpx
  match v with
  | .nan _ => (0, some .fpx)
  | .inf n => (BitVec.ofInt 64 (if n then lo else hi), beyond)
  | .fin n m e =>
    let r := roundTo m e 0 n rm u
    let i : Int := if n then -(r.1 : Int) else r.1
    (BitVec.ofInt 64 (max lo (min hi i)), if i < lo ∨ hi < i then beyond else if r.2.2 then some .fpx else none)

/-- R147, R149, R150: conversion to a floating format: a NaN gives the canonical one, with FPX when it signals; an infinity stays; a number is rounded once, with the outcome of an overflow by R147. -/
def toFloat (f : Fmt) (rm : Rm) (u : Nat) (ftz sat : Bool) (v : Fv) : Val :=
  match v with
  | .nan s => (BitVec.ofNat 64 (nanBits f), if s then some .fpx else none)
  | .inf n => (BitVec.ofNat 64 (infinityBits f n), none)
  | .fin n m e => let q := roundFp f rm u ftz sat (.fin n m e); (BitVec.ofNat 64 q.1, q.2)

/-- R236, R237: the value that a general conversion writes, extended to 64 bits by its signedness. -/
def converted (dst : CvtFmt) (rm : Rm) (u : Nat) (ftz sat : Bool) (v : Fv) : Val :=
  match dst with
  | .i32 => toWhole (-2 ^ 31) (2 ^ 31 - 1) rm u sat v
  | .u32 => toWhole 0 (2 ^ 32 - 1) rm u sat v
  | .i64 => toWhole (-2 ^ 63) (2 ^ 63 - 1) rm u sat v
  | .u64 => toWhole 0 (2 ^ 64 - 1) rm u sat v
  | .f64 => toFloat .f64 rm u ftz sat v
  | .f32 => toFloat .f32 rm u ftz sat v
  | .f16 => toFloat .f16 rm u ftz sat v
  | .bf16 => toFloat .bf16 rm u ftz sat v

/-- R147, R150, R238: an FP32 value as an FP8 byte: a NaN gives the canonical one, with FPX when it signals; an infinity gives the NaN of E4M3 with FPX, and stays one in E5M2; a number is rounded once. -/
def toFp8 (f : Fmt) (rm : Rm) (u : Nat) (v : Fv) : Nat × Option Flag :=
  match v with
  | .nan s => (if f = .e4m3 then 0x7F else 0x7E, if s then some .fpx else none)
  | .inf n => if f = .e4m3 then (0x7F, some .fpx) else (if n then 0xFC else 0x7C, none)
  | .fin n m e => roundFp f rm u false false (.fin n m e)

/-- R238: the values of A and B as two bytes, with the flag of either. -/
def fp8Bytes (f : Fmt) (r : Rc) (x : Ctx) (l : Nat) : Val :=
  let a := toFp8 f (x.w.rmOf r) (x.rndBits .v l 0) (readAs .f32 x.w.ftz (x.src false false x.f.a l))
  let b := toFp8 f (x.w.rmOf r) (x.rndBits .v l 1) (readAs .f32 x.w.ftz (x.src false false x.f.b l))
  (BitVec.ofNat 64 (a.1 + 256 * b.1), a.2.or b.2)

/-- R238: an FP8 byte as an FP32 pattern. -/
def fromFp8 (f : Fmt) (b : Nat) : Nat :=
  match valueOf f b with
  | .nan _ => 0x7FC00000
  | .inf n => if n then 0xFF800000 else 0x7F800000
  | .fin n m e => (roundFp .f32 .rne 0 false false (.fin n m e)).1

/-- R151: the scale e and the elements of the MXFP4 block of 32 values: 0xFF and zeros when one is a NaN or an infinity; 0 when all are zero; else the scale of the greatest magnitude, floor(log2) - 2 + 127 from 0 to 254, and
each value divided by it and rounded to E2M1, which saturates at 6. -/
def MxBlock (xs : Nat → Fv) (rm : Rm) (u : Nat → Nat) (e : Nat) (el : Nat → Nat) : Prop :=
  ((∃ i < 32, ¬IsNumber (xs i)) → e = 0xFF ∧ ∀ i < 32, el i = 0) ∧
  ((∀ i < 32, IsNumber (xs i)) →
    e ≤ 254 ∧ ((∀ i < 32, exactVal (xs i) = 0) → e = 0) ∧
    (∀ k : Int, (∃ i < 32, (2 : ℚ) ^ k ≤ |exactVal (xs i)|) → (∀ i < 32, |exactVal (xs i)| < (2 : ℚ) ^ (k + 1)) →
      (e : Int) = max 0 (min 254 (k - 2 + 127))) ∧
    ∀ i < 32, ∀ n m a, xs i = .fin n m a → el i = (roundFp .e2m1 rm (u i) false false (.fin n m (a - ((e : Int) - 127)))).1)

/-- R236 to R240: the conversions complete on every operand with the frame of a typed form and write the value of R150 with its flags: the general ones between integers and floating formats; FP32 pairs to FP8 bytes and back, exactly; an element of an MXFP4 block to
FP32, a NaN for scale 0xFF. The quantisation to an MXFP4 block (CONV = 1) leaves in lanes 0 to 3 the elements of 8 lanes each, in lane 4 the scale and 0 above, where the lanes are active; a lane that is not active
counts as +0; a signalling NaN or an infinity among the inputs sets FPX. -/
def Obligations.Conversions : Prop :=
  (∀ c dst src r f, Results (.cvt c dst src r f) c (Forms.cvtWide dst) fun x l =>
    converted dst (x.w.rmOf r) (x.rndBits c l 0) x.w.ftz (bit x.f.imm8 0) (readAs src x.w.ftz (x.src false (Forms.cvtWide src) x.f.a l))) ∧
  (∀ r f, Results (.vcvtE4m3x2F32 r f) .v false fun x l => fp8Bytes .e4m3 r x l) ∧
  (∀ r f, Results (.vcvtE5m2x2F32 r f) .v false fun x l => fp8Bytes .e5m2 r x l) ∧
  (∀ f, Results (.vcvtF32E4m3 f) .v false fun x l =>
    (BitVec.ofNat 64 (fromFp8 .e4m3 ((x.src false false x.f.a l).toNat / 2 ^ (8 * x.f.imm8.toNat) % 256)), none)) ∧
  (∀ f, Results (.vcvtF32E5m2 f) .v false fun x l =>
    (BitVec.ofNat 64 (fromFp8 .e5m2 ((x.src false false x.f.a l).toNat / 2 ^ (8 * x.f.imm8.toNat) % 256)), none)) ∧
  (∀ f b, f = .e4m3 ∨ f = .e5m2 → b < 256 → IsNumber (valueOf f b) →
    IsNumber (valueOf .f32 (fromFp8 f b)) ∧ exactVal (valueOf .f32 (fromFp8 f b)) = exactVal (valueOf f b) ∧ signOf .f32 (fromFp8 f b) = signOf f b) ∧
  (∀ r f, Results (.vcvtF32Mxf4 r f) .v false fun x l =>
    let c := (x.src false false x.f.a l).toNat / 2 ^ (4 * (x.f.imm8.toNat % 8)) % 16
    let b := (x.src false false x.f.b l).toNat % 256
    if b = 0xFF then (0x7FC00000, none)
    else
      let q := roundFp .f32 (x.w.rmOf r) (x.rndBits .v l 0) x.w.ftz false ((valueOf .e2m1 c).scale ((b : Int) - 127))
      (BitVec.ofNat 64 q.1, q.2)) ∧
  ∀ r f s x, Issues (.vcvtMxf4F32 r f) s x → x.conv = true →
    let xs := fun l => if bit x.act l then readAs .f32 x.w.ftz (x.src false false x.f.a l) else Fv.fin false 0 0
    ∃ e el v vp, MxBlock xs (x.w.rmOf r) (fun l => x.rndBits .v l 0) e el ∧
      let word := fun l => el (8 * l) + 2 ^ 4 * el (8 * l + 1) + 2 ^ 8 * el (8 * l + 2) + 2 ^ 12 * el (8 * l + 3)
        + 2 ^ 16 * el (8 * l + 4) + 2 ^ 20 * el (8 * l + 5) + 2 ^ 24 * el (8 * l + 6) + 2 ^ 28 * el (8 * l + 7)
      WroteV x x.f.d.num.toNat false x.act (fun l => BitVec.ofNat 64 (if l < 4 then word l else if l = 4 then e else 0)) v vp ∧
      exec (.vcvtMxf4F32 r f) s = .next (s.withWave x (((x.w.withV v vp).withFlags
        (if (List.range 32).any (fun l => (xs l).isSnan || (xs l).isInf) then x.w.flags ||| Flag.fpx.bit else x.w.flags)).withEx (x.exAt x.next)))

/-! ### Masks -/

/-- R178: the mask forms write, at the active lanes, the bits of their results, and change nothing else. -/
def Obligations.MaskForms : Prop :=
  let m := fun (o : F → Src) (x : Ctx) => ((x.src false false (o x.f) 0).truncate 32 : W32)
  let Mask := fun (i : Instr) (val : Ctx → W32) => ∀ s x, Issues i s x → ∃ k, WroteK x x.f.d.num.toNat x.act (fun l => bit (val x) l) k ∧
    exec i s = .next (s.withWave x ((x.w.withK k).withEx (x.exAt x.next)))
  ∀ f, Mask (.kmov f) (m F.a) ∧ Mask (.kand f) (fun x => m F.a x &&& m F.b x) ∧ Mask (.kor f) (fun x => m F.a x ||| m F.b x) ∧
    Mask (.kxor f) (fun x => m F.a x ^^^ m F.b x) ∧ Mask (.kandn f) (fun x => m F.a x &&& ~~~(m F.b x)) ∧ Mask (.knot f) fun x => ~~~(m F.a x)

/-! ### Control flow -/

/-- A lane stands at a PC: in a split, or parked with that PC in the per-lane file (R45, R46). -/
def StandsAt (e : ExecSt) (l : Nat) (pc : W64) : Prop :=
  (∃ k sp, e.splits.fetch k = some sp ∧ bit sp.mask l = true ∧ sp.pc = pc) ∨ (∃ g ∈ e.parked, bit g l = true ∧ e.lanePc l = pc)

/-- What a branch leaves (R46): every lane of the split stands at the PC that it chose, every other lane stands where it stood; the group with the lowest
PC keeps the entry; CONV falls when the lanes reach more than one PC; records and timers are as they were. -/
def Branched (x : Ctx) (next : Nat → W64) (e : ExecSt) : Prop :=
  (∀ l < 32, bit x.sp.mask l = true → StandsAt e l (next l)) ∧
  (∀ l < 32, bit x.sp.mask l = false → ∀ p, StandsAt x.w.ex l p → StandsAt e l p) ∧
  (∀ sp, e.splits.fetch x.entry = some sp → ∀ l < 32, bit x.sp.mask l = true → sp.pc.toNat ≤ (next l).toNat) ∧
  e.conv = (x.w.ex.conv && (lanesOf x.sp.mask).all fun l => next l == next (lowLane x.sp.mask)) ∧
  e.rdv = x.w.ex.rdv ∧ e.ptimer = x.w.ex.ptimer ∧ e.pwait = x.w.ex.pwait

/-- R177, R199: the target of a relative branch. -/
def relTarget (x : Ctx) : W64 :=
  if x.f.x then x.sp.pc + x.f.imm32.signExtend 64 else x.sp.pc + 8 * ((x.f.d.num ++ x.f.imm8 : BitVec 16).signExtend 64)

/-- R199: the condition of `br.nz` at a lane. -/
def lanesNz (x : Ctx) (l : Nat) : Bool :=
  match x.f.a.file with
  | .k => bit (x.k x.f.a.num.toNat) l
  | .v => (x.w.vreg x.f.a.num.toNat l) != 0
  | .t => x.treg x.f.a.num.toNat != 0
  | _ => x.w.sreg x.f.a.num.toNat != 0

/-- R199 to R201: the relative branches send each active lane that meets the condition to the target, and every other lane of the split to the
next instruction, in any state of CONV; nothing but the wave's splits changes, and for `call` the link register, which takes the next address at the active lanes
of its pair or as a scalar. -/
def Sys2Proof.Claim.RelativeBranches : Prop :=
  let Moves := fun (i : Instr) (next : Ctx → Nat → W64) => ∀ s x, Issues i s x → x.sp.mask ≠ 0 →
    ∃ e, Branched x (next x) e ∧ exec i s = .next (s.withWave x (x.w.withEx e))
  ∀ f, Moves (.br f) (fun x l => if bit x.act l then relTarget x else x.next) ∧
    Moves (.brNz f) (fun x l => if bit x.act l && lanesNz x l then relTarget x else x.next) ∧
    Moves (.brZ f) (fun x l => if bit x.act l && !lanesNz x l then relTarget x else x.next) ∧
    (∀ s x, Issues (.call f) s x → x.sp.mask ≠ 0 → x.f.d.file = .s →
      ∃ e r rp, Branched x (fun l => if bit x.act l then relTarget x else x.next) e ∧ WroteS x x.f.d.num.toNat x.next r rp ∧
        exec (.call f) s = .next (s.withWave x ((x.w.withS r rp).withEx e))) ∧
    ∀ s x, Issues (.call f) s x → x.sp.mask ≠ 0 → x.f.d.file = .v →
      ∃ e v vp, Branched x (fun l => if bit x.act l then relTarget x else x.next) e ∧
        WroteV x x.f.d.num.toNat true x.act (fun _ => x.next) v vp ∧
        exec (.call f) s = .next (s.withWave x ((x.w.withV v vp).withEx e))

/-- R200, R201: `brx`, `ret` and the indirect `call` send each active lane to its own absolute address, when all of these are multiples of 8; otherwise MISALIGN is
taken before any lane moves, with the lanes at fault and the lowest one's target, and nothing is linked. -/
def Sys2Proof.Claim.AbsoluteBranches : Prop :=
  let tgt := fun (x : Ctx) l => x.src false true x.f.a l
  let next := fun (x : Ctx) l => if bit x.act l then tgt x l else x.next
  let bad := fun (x : Ctx) => maskWhere fun l => bit x.act l && (tgt x l).toNat % 8 != 0
  (∀ i, (∃ f, i = .brx f ∨ i = .ret f) → ∀ s x, Issues i s x → x.sp.mask ≠ 0 → bad x = 0 →
    ∃ e, Branched x (next x) e ∧ exec i s = .next (s.withWave x (x.w.withEx e))) ∧
  (∀ f s x, Issues (.callIndirect f) s x → x.sp.mask ≠ 0 → bad x = 0 →
    (x.f.d.file = .s → ∃ e r rp, Branched x (next x) e ∧ WroteS x x.f.d.num.toNat x.next r rp ∧
      exec (.callIndirect f) s = .next (s.withWave x ((x.w.withS r rp).withEx e))) ∧
    (x.f.d.file = .v → ∃ e v vp, Branched x (next x) e ∧ WroteV x x.f.d.num.toNat true x.act (fun _ => x.next) v vp ∧
      exec (.callIndirect f) s = .next (s.withWave x ((x.w.withV v vp).withEx e)))) ∧
  ∀ i, (∃ f, i = .brx f ∨ i = .ret f ∨ i = .callIndirect f) → ∀ s x, Issues i s x → bad x ≠ 0 →
    exec i s = .next (s.raise x { code := .misalign, marked := some (bad x), addr := tgt x (lowLane (bad x)) })

/-- Branches and calls move each lane to its own target, or raise MISALIGN before any lane moves. The statement is the conjunction of its parts, each described at its definition. -/
def Obligations.Branches : Prop := Sys2Proof.Claim.RelativeBranches ∧ Sys2Proof.Claim.AbsoluteBranches

/-- R197, R204, R205: `nop` only moves on; `yield` also makes the wave not ready up to 16 cc from now; `wait` holds its split, and no other, for the count in
the low 32 bits of its operand; none of them writes a register or memory. -/
def Sys2Proof.Claim.NopYieldWait : Prop :=
  (∀ f s x, Issues (.nop f) s x → exec (.nop f) s = .next (s.withWave x (x.w.withEx (x.exAt x.next)))) ∧
  (∀ f s x, Issues (.yield f) s x → exec (.yield f) s = .next (s.withWave x ({ x.w with yieldTo := s.cc + 16 }.withEx (x.exAt x.next)))) ∧
  ∀ f s x, Issues (.wait f) s x → let c := (x.src false false x.f.a 0).toNat % 2 ^ 32
    exec (.wait f) s = .next (s.withWave x (x.w.withEx { x.w.ex with
      splits := x.w.ex.splits.ins x.entry { pc := x.next, mask := x.sp.mask, waitTo := if c = 0 then 0 else s.cc + c } }))

/-- R57 to R59, R206: `exit` ends its active lanes and `kill` the live lanes of its mask, whoever runs them. When lanes are left, they are those of k0 that did not
end, every split, parked group and record has lost the ended lanes, every other lane stands where it stood, and the rest of the wave is as before but that the issuing split's other lanes have moved on (stated where
no record of the wave becomes complete by it and no handler loses its last lane). When none is left, and no line on which the wave still holds buffered stores is shut, the wave is gone. -/
def Sys2Proof.Claim.LanesEnd : Prop :=
  ∀ i, (∃ f, i = .exit f ∨ i = .kill f) → ∀ s x, Issues i s x →
    let m := (match i with | .exit _ => x.act | _ => x.k x.f.a.num.toNat) &&& x.w.live
    let w := (x.w.withEx (x.exAt x.next)).strip m
    (m = 0 → exec i s = .next (s.withWave x (x.w.withEx (x.exAt x.next)))) ∧
    (m ≠ 0 → w.live ≠ 0 → (w.hnd.isSome = false ∨ w.liveHere ≠ 0) → w.ex.fullRecord = none →
      exec i s = .next (s.withWave x (w.withEx w.ex.takeParked)) ∧ w.live = x.w.live &&& ~~~m ∧
      (∀ l < 32, bit m l = true → ∀ p, ¬StandsAt w.ex l p) ∧
      (∀ l < 32, bit m l = false → ∀ p, StandsAt (x.exAt x.next) l p → StandsAt w.ex l p)) ∧
    (m ≠ 0 → w.live = 0 → (∀ e ∈ (s.core (x.key / 64)).wcb, e.slot = x.key % 64 → s.shut (dieOf (x.key / 64)) e.line = none) →
      ∃ t, exec i s = .next t ∧ t.waves.fetch x.key = none)

/-- nop, yield and wait; exit and kill end lanes. The statement is the conjunction of its parts, each described at its definition. -/
def Obligations.YieldWaitAndLaneEnds : Prop := Sys2Proof.Claim.NopYieldWait ∧ Sys2Proof.Claim.LanesEnd

/-! ### Exceptions -/

/-- The wave after it has entered a handler (R66, R408, R409). -/
def InHandler (w w' : Wave) (lanes : W32) (pc rpc : W64) (fi : Fi) : Prop :=
  w'.supervisor = true ∧
  w'.ex.splits = [(0, { pc := w.trapvec + BitVec.ofNat 64 (64 * fi.code.num), mask := lanes })] ∧
  w'.ex.conv = true ∧ w'.ex.parked = [] ∧ w'.ex.rdv = [] ∧
  (∃ h, w'.hnd = some h ∧ h.conv = w.ex.conv ∧ h.parked = w.ex.parked ∧ h.rdv = w.ex.rdv ∧ h.pcf = w.ex.pcf ∧
    h.splits = w.ex.splits.map fun p => (p.1, { p.2 with stall := .none, form := none, born := 0, ask := none })) ∧
  w'.frame.code = BitVec.ofNat 32 (fi.code.num + 256 * fi.sub) ∧ w'.frame.lanes = lanes ∧ w'.frame.fpc = pc ∧
  w'.frame.rpc = rpc &&& ~~~7 ∧ w'.frame.addr = fi.addr ∧ w'.frame.marked = fi.marked.getD lanes ∧
  w'.frame.info = BitVec.ofNat 32 fi.kind.code ∧ w'.frame.sconv = (if w.ex.conv then 1 else 0) ∧
  w'.frame.mode = (if w.supervisor then 1 else 0) ∧ (∀ j < 4, FMap.at' 0 w'.frame.save j = FMap.at' 0 w.s (60 + j)) ∧
  w'.frame.scratch = w.frame.scratch ∧
  (∀ n, FMap.at' 0 w'.s n = if n = 63 then 0x01FFF00100000000 else FMap.at' 0 w.s n) ∧
  w'.a = w.a ∧ w'.v = w.v ∧ w'.k = w.k ∧ w'.flags = w.flags ∧ w'.fpctl = w.fpctl ∧ w'.fcm = w.fcm ∧ w'.trapvec = w.trapvec ∧
  w'.sigacc = w.sigacc ∧ w'.sigfl = w.sigfl ∧ w'.wdog = w.wdog ∧ w'.wlim = w.wlim ∧ w'.tag = w.tag ∧ w'.team = w.team

/-- R66, R208, R209, R408, R409: `trap` and `bkpt` enter their handler when the wave has one and is not in one: the state is saved, the frame filled (`trap` resumes at the
next instruction, `bkpt` at itself), s63 names the frame, and the handler's one split stands at its vector in supervisor mode; every other register, and all else in the
machine, is as before. -/
def Sys2Proof.Claim.SoftwareTrapsEnterHandler : Prop :=
  ∀ s x, x.w.trapvec ≠ 0 → x.w.hnd = none →
    (∀ f, Issues (.trap f) s x → ∃ w', InHandler x.w w' x.sp.mask x.sp.pc x.next { code := .trap, sub := x.f.imm8.toNat } ∧
      exec (.trap f) s = .next (s.withWave x w')) ∧
    ∀ f, Issues (.bkpt f) s x → ∃ w', InHandler x.w w' x.sp.mask x.sp.pc x.sp.pc { code := .bkpt, sub := x.f.imm8.toNat } ∧
      exec (.bkpt f) s = .next (s.withWave x w')

/-- R407, R411, R415: a fault with no handler to go to (no TRAPVEC, a handler already running, or a code that always goes to the service) stops the wave,
raises its SEQ and puts one record of the fault, with the wave's source number and tag, on its die; PAGE outside a handler suspends it instead. An ECCU
is counted on the core too (R93). -/
def Sys2Proof.Claim.FaultsGoToService : Prop :=
  ∀ (s : State) wk w lanes pc rpc fi, s.waves.fetch wk = some w →
    (fi.code.toService = true ∨ w.hnd.isSome = true ∨ w.trapvec = 0) → fi.pages = [] →
    let t := s.raiseAt wk lanes pc rpc fi
    ∃ w' r, t.waves.fetch wk = some w' ∧ (s.die (dieOf (wk / 64))).held ++ [r] = (t.die (dieOf (wk / 64))).held ∧
      w'.ex = w.ex ∧ w'.s = w.s ∧ w'.hnd = w.hnd ∧ w'.supervisor = w.supervisor ∧
      w'.seq = (w.seq + 1) % 65536 ∧ w'.pcode = some fi.code ∧
      w'.suspended = (fi.code == .page && w.hnd.isNone) ∧ w'.stopped = !(fi.code == .page && w.hnd.isNone) ∧
      r.code = fi.code.num ∧ r.source = 0 ∧ r.replay = true ∧ r.nested = w.hnd.isSome ∧ r.seq = (w.seq + 1) % 65536 ∧
      r.srcid = BitVec.ofNat 32 (wk / 64 + 512 * (wk % 64)) ∧ r.tag = w.tag ∧ r.pc = pc ∧ r.va = fi.addr ∧ r.time = s.cc ∧
      t = { s with waves := s.waves.ins wk w', dies := t.dies, cores := t.cores } ∧ (fi.code ≠ .eccu → t.cores = s.cores)

/-- R66, R210, R408: `tret` in a handler drops the handler's splits and records and brings back the saved split table, parked order, records and CONV, with the lanes of
the split that faulted at the frame's RPC, s60 to s63 from the frame, and the mode that the frame holds; every other register keeps what the handler
wrote (stated where no saved record has become complete meanwhile). Outside a handler it is ILLOP. -/
def Obligations.TrapReturn : Prop :=
  ∀ f s x, Issues (.tret f) s x →
    (∀ h, x.w.hnd = some h → x.w.leaveHandler.ex.fullRecord = none → x.w.halted = false →
      ∃ w', exec (.tret f) s = .next (s.withWave x w') ∧ w'.hnd = none ∧ w'.supervisor = bit x.w.frame.mode 0 ∧
        (∀ n, FMap.at' 0 w'.s n = if 60 ≤ n ∧ n < 64 then FMap.at' 0 x.w.frame.save (n - 60) else FMap.at' 0 x.w.s n) ∧
        w'.ex.conv = h.conv ∧ w'.ex.rdv = h.rdv ∧
        (∀ l < 32, bit x.w.frame.lanes l = false → ∀ p, StandsAt h l p →
          (∀ k sp, h.splits.fetch k = some sp → bit sp.mask l = true → sp.mask &&& x.w.frame.lanes = 0) → StandsAt w'.ex l p) ∧
        (∀ k sp, h.splits.fetch k = some sp → sp.mask &&& x.w.frame.lanes ≠ 0 →
          w'.ex.splits.fetch k = some { sp with pc := x.w.frame.rpc }) ∧
        (∀ k sp, h.splits.fetch k = some sp → sp.mask &&& x.w.frame.lanes = 0 → w'.ex.splits.fetch k = some sp) ∧
        w'.a = x.w.a ∧ w'.v = x.w.v ∧ w'.k = x.w.k ∧ w'.flags = x.w.flags ∧ w'.fpctl = x.w.fpctl ∧ w'.fcm = x.w.fcm ∧
        w'.frame = x.w.frame ∧ w'.trapvec = x.w.trapvec ∧ w'.sigacc = x.w.sigacc) ∧
    (x.w.hnd = none → exec (.tret f) s = .next (s.raise x { code := .illop }))

/-! ### System registers and supervisor forms -/

/-- R85: the registers that hold one number for the wave or the core: number, whether 64 bits wide, and value. -/
def sysTable (s : State) (x : Ctx) : List (Nat × Bool × W64) :=
  let c := s.core x.core
  [(0x01, false, BitVec.ofNat 64 x.w.waveId), (0x02, false, BitVec.ofNat 64 ((x.tm.map Team.teamId).getD 0)),
   (0x03, false, BitVec.ofNat 64 x.core), (0x04, false, BitVec.ofNat 64 ((x.tm.map Team.depth).getD 0)),
   (0x05, false, if x.w.ex.conv then 1 else 0), (0x08, false, x.w.fcm.zeroExtend 64), (0x09, false, x.w.flags.zeroExtend 64),
   (0x0A, false, x.w.fpctl.zeroExtend 64), (0x10, true, c.accown), (0x11, false, BitVec.ofNat 64 x.w.tag),
   (0x30, true, x.w.trapvec), (0x31, false, BitVec.ofNat 64 x.w.wdog), (0x38, true, BitVec.ofNat 64 (c.ce + 2 ^ 32 * c.ue))]
  ++ (List.range 16).map fun i => (0x20 + i, true, x.w.sigacc.extractLsb' (64 * i) 64)

/-- R85, R212: `rdsys` writes the register's value to an s register, as a base with stride 0 to an a register, and to each active lane of a v register (of a pair for
64 bits); LANEID gives each lane its number. TRAPVEC and ECCSTAT are for supervisor code: user code takes PROT when a lane is active. Nothing else changes (stated of a
register without a stored error). -/
def Sys2Proof.Claim.ReadSystemRegister : Prop :=
  ∀ f s x, Issues (.rdsys f) s x → s.sysError x x.f.a.num.toNat = none →
    ((x.f.a.num = 0x30 ∨ x.f.a.num = 0x38) → x.w.supervisor = false → x.act ≠ 0 → exec (.rdsys f) s = .next (s.raise x { code := .prot })) ∧
    (∀ q ∈ sysTable s x, x.f.a.num.toNat = q.1 → (x.w.supervisor = true ∨ x.act = 0 ∨ (q.1 ≠ 0x30 ∧ q.1 ≠ 0x38)) →
      (x.f.d.file = .s → ∃ r rp, WroteS x x.f.d.num.toNat q.2.2 r rp ∧
        exec (.rdsys f) s = .next (s.withWave x ((x.w.withS r rp).withEx (x.exAt x.next)))) ∧
      (x.f.d.file = .a → ∃ r rp, WroteA x x.f.d.num.toNat ⟨q.2.2, 0⟩ r rp ∧
        exec (.rdsys f) s = .next (s.withWave x ((x.w.withA r rp).withEx (x.exAt x.next)))) ∧
      (x.f.d.file = .v → ∃ v vp, WroteV x x.f.d.num.toNat q.2.1 x.act (fun _ => q.2.2) v vp ∧
        exec (.rdsys f) s = .next (s.withWave x ((x.w.withV v vp).withEx (x.exAt x.next))))) ∧
    (x.f.a.num = 0 → x.f.d.file = .a → ∃ r rp, WroteA x x.f.d.num.toNat ⟨0, 1⟩ r rp ∧
      exec (.rdsys f) s = .next (s.withWave x ((x.w.withA r rp).withEx (x.exAt x.next)))) ∧
    (x.f.a.num = 0 → x.f.d.file = .v → ∃ v vp, WroteV x x.f.d.num.toNat false x.act (fun l => BitVec.ofNat 64 l) v vp ∧
      exec (.rdsys f) s = .next (s.withWave x ((x.w.withV v vp).withEx (x.exAt x.next))))

/-- R85, R86, R87, R92, R212, R213: `wrsys` writes one register, without the bits that read as zero, ends its stored error, and does nothing else: FLAGS and FPCTL in any mode, FCM, SIGACC, TRAPVEC and
WDOG from supervisor code with CONV = 1; ACCOWN and the clearing of ECCSTAT take effect for the whole core at the end of the cc. User
code that writes any but FLAGS and FPCTL takes PROT. -/
def Sys2Proof.Claim.WriteSystemRegister : Prop :=
  ∀ f s x, Issues (.wrsys f) s x →
    let n := x.f.d.num
    let v := x.src false false x.f.a 0
    let low : W32 := v.truncate 32
    let e := x.exAt x.next
    let y := x.w.ypois.del n.toNat
    (x.conv = true → n ≠ 0x09 → n ≠ 0x0A → x.w.supervisor = false → exec (.wrsys f) s = .next (s.raise x { code := .prot })) ∧
    (n = 0x09 → exec (.wrsys f) s = .next (s.withWave x ({ x.w with flags := low &&& 0x3F, ypois := y }.withEx e))) ∧
    (n = 0x0A → exec (.wrsys f) s = .next (s.withWave x ({ x.w with fpctl := low &&& 7, ypois := y }.withEx e))) ∧
    (x.w.supervisor = true → x.conv = true →
      (n = 0x08 → exec (.wrsys f) s = .next (s.withWave x ({ x.w with fcm := low, ypois := y }.withEx e))) ∧
      (n = 0x30 → exec (.wrsys f) s = .next (s.withWave x ({ x.w with trapvec := v &&& ~~~0xFF, ypois := y }.withEx e))) ∧
      (n = 0x31 → exec (.wrsys f) s = .next (s.withWave x ({ x.w with wdog := low.toNat, wlim := low.toNat, ypois := y }.withEx e))) ∧
      ∀ i < 16, n.toNat = 0x20 + i → ∃ g : Sig, (∀ j < 1024, bit g j = if 64 * i ≤ j ∧ j < 64 * i + 64 then bit v (j - 64 * i) else bit x.w.sigacc j) ∧
        exec (.wrsys f) s = .next (s.withWave x ({ x.w with sigacc := g, ypois := y }.withEx e))) ∧
    (x.w.supervisor = true →
      (n = 0x10 → exec (.wrsys f) s = .next ((s.updCore x.core fun c => { c with ownNext := some v, ypois := c.ypois.del 0x10 }).withWave x (x.w.withEx e))) ∧
      (n = 0x38 → exec (.wrsys f) s = .next ((s.updCore x.core fun c => { c with eccClear := true, ypois := c.ypois.del 0x38 }).withWave x (x.w.withEx e))))

/-- rdsys and wrsys of every system register, with the rights that each checks. The statement is the conjunction of its parts, each described at its definition. -/
def Obligations.SystemRegisters : Prop := Sys2Proof.Claim.ReadSystemRegister ∧ Sys2Proof.Claim.WriteSystemRegister

/-- R215: a cached translation serves some byte of the page of size code `size` that contains an address. -/
def SharesPage (e : TlbEnt) (va size : Nat) : Prop :=
  let n := match size with | 0 => 2 ^ 16 | 1 => 2 ^ 21 | _ => 2 ^ 30
  e.page * 2 ^ e.log < va / n * n + n ∧ va / n * n < (e.page + 1) * 2 ^ e.log

/-- R175, R215, R216: the supervisor forms raise PROT in user mode. `tlbinv` in supervisor mode drops, on the issuing core's die alone, the translations that share the page, or all
from size 3; `l1inv` empties the L1 and the instruction cache of the issuing core. Both change nothing else but the PC. -/
def Obligations.SupervisorForms : Prop :=
  (∀ i, (∃ f, i = .tlbinv f ∨ i = .l1inv f ∨ i = .ctxsave f ∨ i = .ctxload f) → ∀ s x, Issues i s x → x.w.supervisor = false →
    exec i s = .next (s.raise x { code := .prot })) ∧
  (∀ f s x, Issues (.tlbinv f) s x → x.w.supervisor = true →
    let va := (x.src false false x.f.a 0).toNat
    let size := (x.src false false x.f.b 0).toNat
    let keeps := fun (old new : List TlbEnt) => ∀ e, e ∈ new ↔ e ∈ old ∧ size < 3 ∧ ¬SharesPage e va size
    ∃ C D, exec (.tlbinv f) s = .next { s.withWave x (x.w.withEx (x.exAt x.next)) with cores := C, dies := D } ∧
      let t := { s with cores := C, dies := D }
      (∀ g, dieOf g = x.die → keeps (s.core g).tlb (t.core g).tlb ∧ t.core g = { s.core g with tlb := (t.core g).tlb }) ∧
      (∀ g, dieOf g ≠ x.die → t.core g = s.core g) ∧
      keeps (s.die x.die).stlb (t.die x.die).stlb ∧ t.die x.die = { s.die x.die with stlb := (t.die x.die).stlb } ∧
      ∀ d, d ≠ x.die → t.die d = s.die d) ∧
  ∀ f s x, Issues (.l1inv f) s x → x.w.supervisor = true →
    exec (.l1inv f) s = .next ((s.setCore x.core { s.core x.core with l1 := [], icache := [] }).withWave x (x.w.withEx (x.exAt x.next)))

/-- `ctxsave` or `ctxload` in supervisor code reads the header h of a record at its operand: u is the state with the translation used (R214). -/
def ReadsHeader (s : State) (x : Ctx) (h : List W8) (u : State) : Prop :=
  x.w.supervisor = true ∧ (x.w.sreg x.f.a.num.toNat).toNat % 256 = 0 ∧ s.readDesc x .load (x.w.sreg x.f.a.num.toNat) 256 = (u, .bytes h)

/-- A header's tag is no context tag, or one of its reserved bytes is not zero (R426). -/
def BadHeader (h : List W8) : Prop :=
  field h 4 4 = 0 ∨ 255 < field h 4 4 ∨ ∃ i, (0x14 ≤ i ∧ i < 0x18 ∨ 0x28 ≤ i ∧ i < 0x100) ∧ h.getD i 0 ≠ 0

/-- R214, R426: what the header alone decides: a malformed one, and a save whose LIMIT does not hold the record, gets status 4, and one that names no user core status 1; nothing is saved or loaded. (LIMIT and LEN below the header's own 256 bytes are
malformed too: the model's choice, log entry 60.) -/
def Sys2Proof.Claim.ContextHeaders : Prop :=
  ∀ i lenAt, (∃ f, (i = .ctxsave f ∧ lenAt = 0x20) ∨ (i = .ctxload f ∧ lenAt = 0x18)) → ∀ s x, Issues i s x → ∀ h u, ReadsHeader s x h u →
    let va := x.w.sreg x.f.a.num.toNat
    (BadHeader h → exec i s = .next (u.ctxStatus x va 4)) ∧
    (¬BadHeader h → 256 ≤ field h lenAt 8 → 320 ≤ field h 8 4 → exec i s = .next (u.ctxStatus x va 1)) ∧
    (¬BadHeader h → 256 ≤ field h lenAt 8 → field h 8 4 < 320 → lenAt = 0x20 →
      field h 0x20 8 < u.recordLen (u.contextTeams (field h 8 4) (field h 4 4)) → exec i s = .next (u.ctxStatus x va 4))

/-- `ctxsave` or `ctxload` reads a well-formed header h of a record at its operand, and finds the record's n bytes for the access it makes: u is the state with the
translations used, ps where the bytes lie (R214). -/
def FindsRecord (s : State) (x : Ctx) (kind : Kind) (lenAt : Nat) (h : List W8) (u : State) (ps : List (Nat × Nat)) : Prop :=
  let va := x.w.sreg x.f.a.num.toNat
  let n := field h lenAt 8
  ∃ r, ReadsHeader s x h r ∧ ¬BadHeader h ∧ field h 8 4 < 320 ∧ 256 ≤ n ∧
    r.recordKeys x kind va n = (u, ps, .bytes []) ∧ (u.reachAll x.die (pieceKeys ps)).1 = .ok ∧
    (lenAt = 0x20 → r.recordLen (r.contextTeams (field h 8 4) (field h 4 4)) ≤ n)

/-- R68, R134, R214, R427: `ctxsave` of a record that it finds. It writes status 5 when the wave is of the context itself (log entry 28), 2 when no wave of it is resident, 6 when the kitty lacks
room, and saves nothing. Otherwise, once no handler runs, no save of the same context asked for earlier waits, and the waves' stores are performed, every team of the context leaves the core with its waves, the device keeps what the
record does not hold, and the hand entries that its teams spawned move to the kitty. -/
def Sys2Proof.Claim.ContextSave : Prop :=
  ∀ f s x, Issues (.ctxsave f) s x → ∀ h q ps, FindsRecord s x .store 0x20 h q ps →
    let u := q.endGone
    let va := x.w.sreg x.f.a.num.toNat
    let g := field h 8 4
    let tag := field h 4 4
    let ts := u.contextTeams g tag
    let mine := fun (t : Task) => ts.any fun p => p.1 == t.parent
    let fits := (u.core g).hand.countP mine ≤ u.kittyRoom ∧ u.kittyOn = true
    let own := x.core = g ∧ x.w.tag = tag
    let status := fun n => exec (.ctxsave f) s = .next ((u.thaw g tag).ctxStatus x va n)
    u.recordLen ts ≤ field h 0x20 8 →
      (own → status 5) ∧
      (¬own → (∀ p ∈ ts, u.wavesOf p.1 = []) → status 2) ∧
      (¬own → (∃ p ∈ ts, u.wavesOf p.1 ≠ []) → ¬fits → status 6) ∧
      (¬own → (∃ p ∈ ts, u.wavesOf p.1 ≠ []) → fits →
        (∀ p ∈ u.coreWaves g, p.2.tag = tag → p.2.hnd.isSome = true → p.2.frozen = true) →
        (∀ p ∈ u.waves, p.1 ≠ x.key → ∀ e ∈ p.2.ex.splits, ∀ a, e.2.ask = some a → a.core = g → a.tag ≠ tag) →
        (let ws := ts.flatMap fun p => u.wavesOf p.1
         let v := ws.foldl (fun (s : State) p => s.drainWave p.1) u
         ∀ p ∈ (v.contextTeams g tag).flatMap fun p => v.wavesOf p.1, v.waitsFor p.1 = none) →
        ∃ t, exec (.ctxsave f) s = .next t ∧
          (∀ p ∈ ts, t.teams.fetch p.1 = none ∧ (∃ k, t.kept.fetch p.1 = some k ∧ k.tag = tag) ∧ ∀ wk w, t.waves.fetch wk = some w → w.team ≠ p.1) ∧
          (t.core g).hand = (u.core g).hand.filter (fun q => !mine q) ∧ t.kitty = u.kitty ++ (u.core g).hand.filter mine)

/-- R134, R214, R429: `ctxload` of a well-formed record of one team that the core has room for: the team is resident there with the memory, full bits, barriers and
registers of the record, and each wave of a record of one wave stands in a slot with the record's registers, and with its execution state; the core's L1 is empty (after a load on the core of the save, too: the model's choice, log entry 26). A record that does not parse gets status 4, and one
that the core has no room for status 3. -/
def Sys2Proof.Claim.ContextLoad : Prop :=
  ∀ f s x, Issues (.ctxload f) s x → ∀ h u ps, FindsRecord s x .load 0x18 h u ps →
    let va := x.w.sreg x.f.a.num.toNat
    let g := field h 8 4
    (parseRecord (u.homeBytes (pieceKeys ps)) u.cc = none → exec (.ctxload f) s = .next (u.ctxStatus x va 4)) ∧
    (∀ rs, parseRecord (u.homeBytes (pieceKeys ps)) u.cc = some rs → (u.freeOf g).holds (recordNeed rs) = false →
      exec (.ctxload f) s = .next (u.ctxStatus x va 3)) ∧
    ∀ r, parseRecord (u.homeBytes (pieceKeys ps)) u.cc = some [r] → (u.freeOf g).holds (recordNeed [r]) = true →
      ∃ t n tm, exec (.ctxload f) s = .next t ∧ t.teams.fetch n = some tm ∧
        tm.core = r.t.core ∧ tm.tag = r.t.tag ∧ tm.teamId = r.t.teamId ∧ tm.mem = r.t.mem ∧ tm.full = r.t.full ∧ tm.bars = r.t.bars ∧
        tm.t = r.t.t ∧ tm.tsig = r.t.tsig ∧ tm.draining = r.t.draining ∧ tm.join = r.t.join ∧
        (t.core g).l1 = [] ∧
        ∀ w, r.waves = [w] → ∃ k w', k / 64 = g ∧ t.waves.fetch k = some w' ∧ w'.team = n ∧ w'.s = w.s ∧ w'.a = w.a ∧ w'.v = w.v ∧ w'.k = w.k ∧
          w'.flags = w.flags ∧ w'.fpctl = w.fpctl ∧ w'.sigacc = w.sigacc ∧ w'.trapvec = w.trapvec ∧ w'.frame = w.frame ∧ w'.hnd = w.hnd ∧
          w'.supervisor = w.supervisor ∧ w'.pcode = w.pcode ∧ (x.key / 64 ≠ g → w'.ex = w.ex)

/-- ctxsave and ctxload: status, records and what a context holds (log 26, 28, 60). The statement is the conjunction of its parts, each described at its definition. -/
def Obligations.ContextSaveAndLoad : Prop := Sys2Proof.Claim.ContextHeaders ∧ Sys2Proof.Claim.ContextSave ∧ Sys2Proof.Claim.ContextLoad

/-! ### Rendezvous forms -/

/-- The group of a mask's lanes, as a rendezvous form computes over it (R269). -/
def grp (x : Ctx) (m : W32) : Ctx := { x with sp := { x.sp with mask := m } }

/-- The split moves on: its lanes stand at the next instruction, every other lane stands where it stood, and records are as they were. -/
def MovedOn (x : Ctx) (e : ExecSt) : Prop :=
  (∀ l < 32, bit x.sp.mask l = true → StandsAt e l x.next) ∧
  (∀ l < 32, bit x.sp.mask l = false → ∀ p, StandsAt x.w.ex l p → StandsAt e l p) ∧
  e.rdv = x.w.ex.rdv ∧ e.conv = x.w.ex.conv ∧ e.ptimer = x.w.ex.ptimer

/-- The mask that a rendezvous form names, ANDed with the live lanes that run (R55, R203, R268, R290). -/
def metMask (x : Ctx) : Instr → W32
  | .join f => x.k f.a.num.toNat &&& x.w.liveHere
  | .mma _ _ | .mmaClu _ _ => x.k 0 &&& x.w.liveHere
  | _ => x.k (bits x.f.imm8 0 3) &&& x.w.liveHere

/-- The rendezvous forms (R54, R268). -/
def meets (i : Instr) : Prop :=
  ∃ f t op, i = .join f ∨ i = .shflIdx f ∨ i = .shflUp f ∨ i = .shflDn f ∨ i = .shflXor f ∨ i = .voteAll f ∨ i = .voteAny f ∨ i = .voteUni f ∨
    i = .ballot f ∨ i = .matchLanes f ∨ i = .red op f ∨ i = .scan op f ∨ i = .scanX op f ∨ i = .mma t f ∨ i = .mmaClu t f

/-- The matrix forms also need the block to hold all of A (R289). -/
def fragFits (x : Ctx) : Instr → Prop
  | .mma t _ | .mmaClu t _ => x.f.a.num.toNat + (if t = .mxf4 then 16 else 15) < 2 ^ x.w.lregs
  | _ => True

/-- The record of a form completes at its arrival: a non-empty mask of lanes that all stand in the issuing split, no record yet at this PC, and registers that read without error over the
group (R55, R56, R268, R269). -/
def MeetsAlone (i : Instr) (s : State) (x : Ctx) (m : W32) : Prop :=
  Arrives i s x ∧ m = metMask x i ∧ m ≠ 0 ∧ m &&& ~~~x.sp.mask = 0 ∧ (∀ r ∈ x.w.ex.rdv, r.pc ≠ x.sp.pc) ∧ x.w.ex.rdv.length < 8 ∧
  ∃ p f, Forms.spec i = some (p, f) ∧ (grp x m).eccBad p = false ∧ (grp x m).clean p = true

/-- A record of the wave whose lanes all wait, as RENDEZVOUS_COMPLETE finds it: the split x stands for its lanes at its PC, outside any guard (R56, R472). -/
def FullRecord (s : State) (x : Ctx) (f : F) : Prop :=
  s.waves.fetch x.key = some x.w ∧ x.w.halted = false ∧ x.slot < 64 ∧ x.tm = s.teams.fetch x.w.team ∧ x.cc = s.cc ∧ x.entry = 0 ∧
  x.sp = { pc := x.sp.pc, mask := x.sp.mask } ∧ x.f = { f with g := 0, gn := false } ∧
  x.w.ex.rdv.find? (fun q => q.pc == x.sp.pc && q.waiting == q.mask) = some ⟨x.sp.pc, x.sp.mask, x.sp.mask⟩

/-- The instruction that is fetched at the record's PC is the form i, whose registers lie in the block and read without error over the record's lanes, whatever mask it names (R56, R269, R472). -/
def FindsForm (i : Instr) (s : State) (x : Ctx) : Prop :=
  s.fetchInstr x.key x.w x.sp.pc = (s, .instr i) ∧ fragFits x i ∧
  ∃ p f, FullRecord s x f ∧ Forms.spec i = some (p, f) ∧ Forms.check p (Forms.isBr i) f = none ∧ x.outOfBlock p = false ∧
    (x.conv = true ∨ (f.d.file ≠ .s ∧ f.d.file ≠ .a)) ∧ x.eccBad p = false ∧ x.clean p = true

/-- After RENDEZVOUS_COMPLETE: the record is gone, its lanes stand at a PC, every other lane stands where it stood. -/
def Resumed (x : Ctx) (pc : W64) (e : ExecSt) : Prop :=
  (∀ l < 32, bit x.sp.mask l = true → StandsAt e l pc) ∧
  (∀ l < 32, bit x.sp.mask l = false → ∀ p, StandsAt x.w.ex l p → StandsAt e l p) ∧
  e.rdv = x.w.ex.rdv.filter (fun q => !(q.pc == x.sp.pc && q.mask == x.sp.mask)) ∧ e.conv = x.w.ex.conv

/-- A form completes over the lanes of m: at the arrival of the split that holds them all, or in RENDEZVOUS_COMPLETE of the record that they wait in (R56). j is what runs, and `ok` what becomes of the wave's splits. -/
def Meeting (i : Instr) (s : State) (x : Ctx) (m : W32) (j : Instr) (ok : ExecSt → Prop) : Prop :=
  (MeetsAlone i s x m ∧ j = i ∧ ok = MovedOn x) ∨
  (FindsForm i s x ∧ m = x.sp.mask ∧ m ≠ 0 ∧ j = .rendezvousComplete ⟨x.core, x.slot⟩ x.sp.pc ∧ ok = Resumed x x.next)

/-- R55, R207, R268: what an arrival at a rendezvous form does whose record does not complete by it. With an empty mask every lane passes through. A mask that overlaps a record
at this PC without equalling it raises SPLITX, and a ninth record waits for room (the whole split, its lanes outside the mask too: the model's choice, log entry 22). Otherwise the participants leave the split and wait in the record, and the split's other lanes go on past the
form. In each case no register changes. -/
def Sys2Proof.Claim.RendezvousArrival : Prop :=
  ∀ i s x, meets i → Arrives i s x → fragFits x i →
    let m := metMask x i
    let at' := x.w.ex.rdv.filter fun r => r.pc == x.sp.pc
    let had := fun (r : Rdv) => r.pc = x.sp.pc ∧ r.mask = m
    (m = 0 → exec i s = .next (s.withWave x (x.w.withEx (x.exAt x.next)))) ∧
    (m ≠ 0 → (∀ r ∈ at', r.mask ≠ m) → (∃ r ∈ at', r.mask &&& m ≠ 0) → exec i s = .next (s.raise x { code := .splitx })) ∧
    (m ≠ 0 → (∀ r ∈ at', r.mask &&& m = 0) → 8 ≤ x.w.ex.rdv.length →
      exec i s = .next (s.withWave x (x.w.withEx { x.w.ex with splits := x.w.ex.splits.ins x.entry { x.sp with stall := .records, form := some i, born := x.since } }))) ∧
    (m ≠ 0 → ((∃ r ∈ at', r.mask = m) ∨ ((∀ r ∈ at', r.mask &&& m = 0) ∧ x.w.ex.rdv.length < 8)) →
      let old : W32 := match x.w.ex.rdv.find? fun r => r.pc == x.sp.pc && r.mask == m with | some r => r.waiting | none => 0
      old ||| (x.sp.mask &&& m) ≠ m →
      ∃ e, exec i s = .next (s.withWave x (x.w.withEx e)) ∧
        (∀ r, r ∈ e.rdv ↔ (r ∈ x.w.ex.rdv ∧ ¬had r) ∨ r = ⟨x.sp.pc, m, old ||| (x.sp.mask &&& m)⟩) ∧
        (∀ l < 32, bit (x.sp.mask &&& ~~~m) l = true → StandsAt e l x.next) ∧
        (∀ l < 32, bit x.sp.mask l = false → ∀ p, StandsAt x.w.ex l p → StandsAt e l p) ∧ e.conv = x.w.ex.conv)

/-- R51, R55, R56, R203: `join` completes when the lanes of its mask stand in the issuing split: they go on, and CONV rises when the mask is k0. Nothing else
changes. RENDEZVOUS_COMPLETE completes a record whose lanes all wait, at a `join`: its lanes stand at the next instruction and the record is gone. -/
def Sys2Proof.Claim.JoinCompletes : Prop :=
  ∀ f s x, let risen := fun (ok : ExecSt → Prop) (e : ExecSt) => ok { e with conv := x.w.ex.conv } ∧ e.conv = (f.a.num == 0 || x.w.ex.conv)
    (∀ m, MeetsAlone (.join f) s x m → ∃ e, risen (MovedOn x) e ∧ exec (.join f) s = .next (s.withWave x (x.w.withEx e))) ∧
    (FindsForm (.join f) s x → ∃ e, risen (Resumed x x.next) e ∧
      exec (.rendezvousComplete ⟨x.core, x.slot⟩ x.sp.pc) s = .next (s.withWave x (x.w.withEx e)))

/-- R269, R472: RENDEZVOUS_COMPLETE when no form completes: with a fault of the fetch at the record's PC, with ILLOP for a word that is no rendezvous form, or with ECCU for a source of a
cross-lane form that holds an uncorrectable error, the record is gone and its lanes take the fault as one group that stands at that PC. -/
def Sys2Proof.Claim.FoundForms : Prop :=
  ∀ s x f, FullRecord s x f →
    let run := exec (.rendezvousComplete ⟨x.core, x.slot⟩ x.sp.pc) s
    let takes := fun (u : State) (fi : Fi) => ∃ e, Resumed x x.sp.pc e ∧ run = .next ((u.withWave x (x.w.withEx e)).raiseAt x.key x.sp.mask x.sp.pc x.sp.pc fi)
    (∀ u fi, s.fetchInstr x.key x.w x.sp.pc = (u, .fault fi) → takes u fi) ∧
    (∀ u i, s.fetchInstr x.key x.w x.sp.pc = (u, .instr i) → ¬meets i → takes u { code := .illop }) ∧
    ∀ u i p, s.fetchInstr x.key x.w x.sp.pc = (u, .instr i) → meets i → (∀ t g, i ≠ .mma t g ∧ i ≠ .mmaClu t g) → Forms.spec i = some (p, f) →
      x.outOfBlock p = false → (x.conv = true ∨ (f.d.file ≠ .s ∧ f.d.file ≠ .a)) → x.eccBad p = true → x.clean p = true → takes u { code := .eccu }

/-- Arrival at a rendezvous record, its completion, and join (log 22). The statement is the conjunction of its parts, each described at its definition. -/
def Obligations.RendezvousAndJoin : Prop := Sys2Proof.Claim.RendezvousArrival ∧ Sys2Proof.Claim.JoinCompletes ∧ Sys2Proof.Claim.FoundForms

/-- R270: bits [31:0] of A at a lane, and the predicate of a vote. -/
def lowA (x : Ctx) (l : Nat) : W32 := (x.src false false x.f.a l).truncate 32
def predA (x : Ctx) (l : Nat) : Prop :=
  match x.f.a.file with
  | .k => bit (FMap.at' 0 x.w.k x.f.a.num.toNat) l = true
  | .v => lowA x l ≠ 0
  | _ => x.src false false x.f.a l ≠ 0

/-- R268 to R270: a shuffle gives each lane of the mask the value of the lane that it names, when that lane is one of them, and else its own; a vote writes the same bit, and
`match` its own bit, at each of them; `ballot` writes the mask of the lanes where the predicate holds. The group goes on past the form with the rest of the split, or, when RENDEZVOUS_COMPLETE completes its record, by itself; other lanes' elements and
everything else stay as they are. -/
def Sys2Proof.Claim.CrossLaneForms : Prop :=
  let Shuffles := fun (i : Instr) (pick : Nat → Nat → Option Nat) => ∀ s x m j ok, Meeting i s x m j ok →
    ∃ v vp e, ok e ∧ exec j s = .next (s.withWave x ((x.w.withV v vp).withEx e)) ∧
      WroteV (grp x m) x.f.d.num.toNat false m (fun l =>
        let own := (lowA x l).zeroExtend 64
        match pick l ((x.src false false x.f.b l).truncate 32 : W32).toNat with
        | some j => if bit m j then (lowA x j).zeroExtend 64 else own
        | none => own) v vp
  let Votes := fun (i : Instr) (val : Ctx → W32 → Nat → Prop) => ∀ s x m j ok, Meeting i s x m j ok →
    ∃ k e, ok e ∧ exec j s = .next (s.withWave x ((x.w.withK k).withEx e)) ∧
      ∀ n l, l < 32 → (bit (FMap.at' 0 k n) l = true ↔
        if n = x.f.d.num.toNat ∧ bit m l = true then val x m l else bit (FMap.at' 0 x.w.k n) l = true)
  ∀ f, Shuffles (.shflIdx f) (fun _ c => some (c % 32)) ∧ Shuffles (.shflUp f) (fun l c => if l < c then none else some (l - c)) ∧
    Shuffles (.shflDn f) (fun l c => if 31 < l + c then none else some (l + c)) ∧ Shuffles (.shflXor f) (fun l c => some (l ^^^ (c % 32))) ∧
    Votes (.voteAll f) (fun x m _ => ∀ j < 32, bit m j = true → predA x j) ∧
    Votes (.voteAny f) (fun x m _ => ∃ j < 32, bit m j = true ∧ predA x j) ∧
    Votes (.voteUni f) (fun x m _ => ∀ i < 32, ∀ j < 32, bit m i = true → bit m j = true → lowA x i = lowA x j) ∧
    Votes (.matchLanes f) (fun x m l => ∃ j < 32, bit m j = true ∧ j ≠ l ∧ lowA x j = lowA x l) ∧
    ∀ s x m j ok, Meeting (.ballot f) s x m j ok → ∃ b : W32, (∀ l < 32, bit b l = true ↔ bit m l = true ∧ predA x l) ∧
      (x.f.d.file = .s → ∃ r rp e, ok e ∧ WroteS x x.f.d.num.toNat (b.zeroExtend 64) r rp ∧
        exec j s = .next (s.withWave x ((x.w.withS r rp).withEx e))) ∧
      (x.f.d.file = .v → ∃ v vp e, ok e ∧ WroteV (grp x m) x.f.d.num.toNat false m (fun _ => b.zeroExtend 64) v vp ∧
        exec j s = .next (s.withWave x ((x.w.withV v vp).withEx e)))

/-- R158: an integer step of a reduction at 32 bits, its type, and the empty value; the sum of 64 bits stands apart. -/
def redI : RedOp → Option ((W32 → W32 → W32) × Bool × W32)
  | .addI32 => some (fun a b => a + b, true, 0)
  | .minI32 => some (fun a b => if a.toInt ≤ b.toInt then a else b, true, 0x7FFFFFFF)
  | .maxI32 => some (fun a b => if a.toInt ≤ b.toInt then b else a, true, 0x80000000)
  | .minU32 => some (fun a b => if a.toNat ≤ b.toNat then a else b, false, 0xFFFFFFFF)
  | .maxU32 => some (fun a b => if a.toNat ≤ b.toNat then b else a, false, 0)
  | .and => some (fun a b => a &&& b, false, 0xFFFFFFFF)
  | .or => some (fun a b => a ||| b, false, 0)
  | .xor => some (fun a b => a ^^^ b, false, 0)
  | _ => none

/-- R158: a floating step rounds to nearest whatever the mode; the first lane's value is treated as an operand is. -/
def redF (op : RedOp) (ftz : Bool) (a b : Nat) : Nat × Option Flag :=
  let u := flushIn .f32 ftz (valueOf .f32 a)
  let v := flushIn .f32 ftz (valueOf .f32 b)
  roundOp .f32 .rne 0 ftz (match op with | .minF32 => fvMin u v | .maxF32 => fvMax u v | _ => fvAdd u v .rne)
def firstF (ftz : Bool) (b : Nat) : Nat × Option Flag := roundFp .f32 .rne 0 ftz false (flushIn .f32 ftz (valueOf .f32 b))

/-- R158, R271, R272: the inclusive result at a lane is the chain over the lanes of the mask up to it, in ascending order; the exclusive one the chain over the lanes before it, empty(op) at the first;
the reduction is the result of the last lane, extended by its type into an s register. Integer forms set no flag; a floating chain sets FPX exactly when a step of it does. Nothing else changes. The forms complete at an arrival and in RENDEZVOUS_COMPLETE alike. -/
def Sys2Proof.Claim.ReductionsAndScans : Prop :=
  let chain := fun (op : RedOp) (x : Ctx) (ls : List Nat) => (match op with
    | .addI64 => ls.foldl (fun a l => a + x.src false true x.f.a l) 0
    | _ => match redI op with
      | some (st, _, u) => (ls.foldl (fun a l => st a (lowA x l)) u).zeroExtend 64
      | none => match ls with
        | [] => if op = .minF32 then 0x7F800000 else if op = .maxF32 then 0xFF800000 else 0
        | l :: ls => BitVec.ofNat 64 (ls.foldl (fun a l => (redF op x.w.ftz a (lowA x l).toNat).1) (firstF x.w.ftz (lowA x l).toNat).1) : W64)
  let flags := fun (op : RedOp) (x : Ctx) (ls : List Nat) => match op with
    | .addF32 | .minF32 | .maxF32 => (match ls with
      | [] => false
      | l :: ls => (firstF x.w.ftz (lowA x l).toNat).2.isSome ||
          (ls.foldl (fun (q : Nat × Bool) l => let r := redF op x.w.ftz q.1 (lowA x l).toNat; (r.1, q.2 || r.2.isSome))
            ((firstF x.w.ftz (lowA x l).toNat).1, false)).2)
    | _ => false
  let flagged := fun (op : RedOp) (x : Ctx) (m : W32) (w : Wave) => w.withFlags (if flags op x (lanesOf m) then x.w.flags ||| 4 else x.w.flags)
  ∀ op f s x m j ok,
    (Meeting (.red op f) s x m j ok →
      let c := chain op x (lanesOf m)
      let cs := if op = .addI32 ∨ op = .minI32 ∨ op = .maxI32 then ((c.truncate 32 : W32).signExtend 64) else c
      (x.f.d.file = .s → ∃ r rp e, ok e ∧ WroteS x x.f.d.num.toNat cs r rp ∧
        exec j s = .next (s.withWave x ((flagged op x m (x.w.withS r rp)).withEx e))) ∧
      (x.f.d.file = .v → ∃ v vp e, ok e ∧ WroteV (grp x m) x.f.d.num.toNat (op == .addI64) m (fun _ => c) v vp ∧
        exec j s = .next (s.withWave x ((flagged op x m (x.w.withV v vp)).withEx e)))) ∧
    (Meeting (.scan op f) s x m j ok → ∃ v vp e, ok e ∧
      WroteV (grp x m) x.f.d.num.toNat (op == .addI64) m (fun l => chain op x ((lanesOf m).filter fun j => j ≤ l)) v vp ∧
      exec j s = .next (s.withWave x ((flagged op x m (x.w.withV v vp)).withEx e))) ∧
    (Meeting (.scanX op f) s x m j ok → ∃ v vp e, ok e ∧
      WroteV (grp x m) x.f.d.num.toNat (op == .addI64) m (fun l => chain op x ((lanesOf m).filter fun j => j < l)) v vp ∧
      exec j s = .next (s.withWave x ((flagged op x m (x.w.withV v vp)).withEx e)))

/-- Shuffles, votes, matches, reductions and scans: results at the lanes of the mask. The statement is the conjunction of its parts, each described at its definition. -/
def Obligations.CrossLaneForms : Prop := Sys2Proof.Claim.CrossLaneForms ∧ Sys2Proof.Claim.ReductionsAndScans

/-! ### Matrix engine and accumulators -/

/-- R289: row i of A: byte q of the row is byte q mod 4 of register a + q / 4 at lane i; a lane that is not live gives zeros, with scales of 1. -/
def rowA (x : Ctx) (t : MmaFmt) (i : Nat) : List W8 :=
  if bit (FMap.at' 0 x.w.k 0) i then
    (List.range (if t = .mxf4 then 68 else 64)).map fun q => (FMap.at' 0 x.w.v (32 * (x.f.a.num.toNat + q / 4) + i)).extractLsb' (8 * (q % 4)) 8
  else List.replicate 64 0 ++ (if t = .mxf4 then List.replicate 4 0x7F else [])

/-- R289: column j of the tile at an offset of a team's memory, with its scales. -/
def colB (tm : Team) (t : MmaFmt) (o j : Nat) : List W8 :=
  (List.range 64).map (fun q => FMap.at' 0 tm.mem (o + 64 * j + q)) ++
    (if t = .mxf4 then (List.range 4).map fun q => FMap.at' 0 tm.mem (o + 2048 + 4 * j + q) else [])

/-- R152, R153, R290: an element after a `mma`: for `.i8` the sum of the products, wrapped; else one rounded exact sum for each group of 32, in ascending order, each added and rounded. -/
def mmaSpec (t : MmaFmt) (a b : List W8) (old : W32) : W32 :=
  match t with
  | .i8 => old + BitVec.ofInt 32 ((List.range 64).map fun k => (a.getD k 0).toInt * (b.getD k 0).toInt).sum
  | _ => (List.range (match t with | .bf16 | .f16 => 1 | .mxf4 => 4 | _ => 2)).foldl (fun (v : W32) g =>
      BitVec.ofNat 32 (addF32 v.toNat (groupF32 ((List.range 32).map fun i => (fragVal t a (32 * g + i), fragVal t b (32 * g + i)))))) old

/-- The owner of a slot (R88). -/
def ownerOf (c : Core) (n : Nat) : Nat := (c.accown.extractLsb' (8 * n) 8).toNat

/-- The wave may use a slot: in supervisor mode any, else a free one or its context's (R88, R295). -/
def mayUse (s : State) (x : Ctx) (n : Nat) : Prop := x.w.supervisor = true ∨ ownerOf (s.core x.core) n = 0 ∨ ownerOf (s.core x.core) n = x.w.tag

/-- Only slots of a list differ in the accumulators: each holds given elements, and a free one is claimed by user code (R88). -/
def Accumulated (s : State) (x : Ctx) (ns : List Nat) (val : Nat → Nat → Nat → W32) (C : FMap Core) : Prop :=
  let c := s.core x.core
  let c' := ({ s with cores := C } : State).core x.core
  (∀ g, g ≠ x.core → ({ s with cores := C } : State).core g = s.core g) ∧
  (∀ n < 8, ∀ i < 32, ∀ j < 32, FMap.at' 0 c'.acc (1024 * n + 32 * i + j) = if n ∈ ns then val n i j else FMap.at' 0 c.acc (1024 * n + 32 * i + j)) ∧
  (x.w.tag < 256 → ∀ n < 8, ownerOf c' n = if n ∈ ns ∧ x.w.supervisor = false ∧ ownerOf c n = 0 then x.w.tag else ownerOf c n) ∧
  c' = { c with acc := c'.acc, accown := c'.accown, accpois := c'.accpois }

/-- R152, R153, R289, R290, R295: `mma` over all live lanes of the split, with its tile in the team's memory, adds the product of A and the tile to the slot, element by element, claims a free slot for user code, and moves on;
nothing else changes. A user wave takes ACCFIRST for a slot of another context, before anything is read. A record of diverged splits completes so in RENDEZVOUS_COMPLETE, but for the idle cc of a throttled core, in which it stays (R468). The sum of a group of finite products is exact before it is rounded. -/
def Sys2Proof.Claim.MatrixMultiply : Prop :=
  (∀ t f s x, FindsForm (.mma t f) s x → s.coreRuns x.core = false →
    ∃ e, e.rdv = x.w.ex.rdv ∧ exec (.rendezvousComplete ⟨x.core, x.slot⟩ x.sp.pc) s = .next (s.withWave x (x.w.withEx e))) ∧
  (∀ t f s x m tm o j ok, Meeting (.mma t f) s x m j ok → (j = .mma t f ∨ s.coreRuns x.core = true) → fragFits x (.mma t f) → x.tm = some tm →
    let n := x.f.d.num.toNat
    let b := x.w.sreg x.f.b.num.toNat
    (¬mayUse s x n → x.conv = true → j = .mma t f → exec j s = .next (s.raise x { code := .accfirst, sub := 2 ^ n })) ∧
    (mayUse s x n → (∀ q ≤ mmaLast t, x.w.vpois.fetch (x.f.a.num.toNat + q) = none) → x.w.spois.fetch x.f.b.num.toNat = none →
      (∀ i < 32, (s.core x.core).accpois.fetch (32 * n + i) = none) → b.toNat % 128 = 0 →
      b.toNat = 0x0100000000000000 + o → o + (if t = .mxf4 then 2176 else 2048) ≤ tm.teammem → tm.teammem ≤ 2 ^ 19 →
      ∃ C e, ok e ∧ exec j s = .next { s.withWave x (x.w.withEx e) with cores := C } ∧
        Accumulated s x [n] (fun n i j => mmaSpec t (rowA x t i) (colB tm t o j) (FMap.at' 0 (s.core x.core).acc (1024 * n + 32 * i + j))) C)) ∧
  ∀ ps : List (Fv × Fv), (∀ p ∈ ps, (∃ n i a, p.1 = .fin n i a) ∧ ∃ n i a, p.2 = .fin n i a) →
    exactVal (dotExact ps) = (ps.map fun p => exactVal p.1 * exactVal p.2).sum

/-- No other context owns a slot of a core (R88). -/
def slotsFree (s : State) (g : Nat) (w : Wave) : Prop := w.supervisor = true ∨ ∀ n < 8, ownerOf (s.core g) n = 0 ∨ ownerOf (s.core g) n = w.tag

/-- R88, R293: `mma.clu`, once its own checks pass. A team outside a cooperative group of 16 takes PROT. A rank that is not the last waits with its fragments. With the last of the 16 ranks, whose parts stand with the same count, and no stored error in a slot: on the core of each
rank, slot c takes the product of that rank's rows with the columns of rank c when all formats are the same, and otherwise no accumulator and no ownership changes; every team's count rises by 1 either way. -/
def Sys2Proof.Claim.CooperativeMultiply : Prop :=
  ∀ t f s x m tm, MeetsAlone (.mmaClu t f) s x m → fragFits x (.mmaClu t f) → x.tm = some tm → x.sp.mask = m → x.conv = true →
    let b := x.w.sreg x.f.b.num.toNat
    let o := b.toNat - 0x0100000000000000
    let mine : CluPart := ⟨x.slot, x.sp.pc, t, (List.range 32).map (rowA x t), (List.range 32).map (colB tm t o)⟩
    (∀ n < 8, mayUse s x n) → (∀ q ≤ mmaLast t, x.w.vpois.fetch (x.f.a.num.toNat + q) = none) → x.w.spois.fetch x.f.b.num.toNat = none →
    (∀ n < 8, ∀ i < 32, (s.core x.core).accpois.fetch (32 * n + i) = none) → b.toNat % 128 = 0 →
    0x0100000000000000 ≤ b.toNat → o + (if t = .mxf4 then 2176 else 2048) ≤ tm.teammem → tm.teammem ≤ 2 ^ 19 → x.slot < 64 →
    (¬(tm.coop = true ∧ tm.groupSize = 16) → exec (.mmaClu t f) s = .next (s.raise x { code := .prot })) ∧
    (tm.coop = true → tm.groupSize = 16 → tm.clu = none →
      (s.rankOf tm tm.rank = some (x.w.team, tm) → (∃ r < 16, ∀ q, s.rankOf tm r = some q → q.1 ≠ x.w.team ∧ q.2.clu = none) →
        ∃ u tm', exec (.mmaClu t f) s = .next u ∧ u.teams.fetch x.w.team = some tm' ∧ tm'.clu = some mine ∧ tm'.clucnt = tm.clucnt ∧
          ∀ g, (u.core g).acc = (s.core g).acc ∧ (u.core g).accown = (s.core g).accown) ∧
      ∀ (R : Nat → Nat × Team) (P : Nat → CluPart), (∀ r < 16, s.rankOf tm r = some (R r) ∧ s.teams.fetch (R r).1 = some (R r).2) →
        R tm.rank = (x.w.team, tm) → tm.rank < 16 → P tm.rank = mine →
        (∀ r < 16, r ≠ tm.rank → (R r).2.clu = some (P r) ∧ (R r).2.clucnt = tm.clucnt) →
        (∀ r < 16, ∀ w, s.waves.fetch (wkey (R r).2.core (P r).slot) = some w → slotsFree s (R r).2.core w) →
        (∀ r < 16, ∀ n < 8, ∀ i < 32, (s.core (R r).2.core).accpois.fetch (32 * n + i) = none) →
        (∀ r < 16, ∀ q < 16, (R r).2.core = (R q).2.core → r = q) → (∀ r < 16, ∀ q < 16, (R r).1 = (R q).1 → r = q) → tm.core = x.core →
        ∃ u, exec (.mmaClu t f) s = .next u ∧
          (∀ r < 16, ∃ tm', u.teams.fetch (R r).1 = some tm' ∧ tm'.clu = none ∧ tm'.clucnt = tm.clucnt + 1) ∧
          ((∀ r < 16, (P r).fmt = t) → ∀ r < 16, ∀ c < 8, ∀ i < 32, ∀ j < 32, FMap.at' 0 (u.core (R r).2.core).acc (1024 * c + 32 * i + j) =
            mmaSpec t ((P r).arow.getD i []) ((P c).bcol.getD j []) (FMap.at' 0 (s.core (R r).2.core).acc (1024 * c + 32 * i + j))) ∧
          ((∃ r < 16, (P r).fmt ≠ t) → ∀ g, (u.core g).acc = (s.core g).acc ∧ (u.core g).accown = (s.core g).accown))

/-- mma and mma.clu: every element of the accumulator, and the cluster rendezvous. The statement is the conjunction of its parts, each described at its definition. -/
def Obligations.MatrixForms : Prop := Sys2Proof.Claim.MatrixMultiply ∧ Sys2Proof.Claim.CooperativeMultiply

/-- R88, R294, R295: `acczero` clears the elements of its slot; `accld` fills them from 4096 bytes, element (i, j) from byte 128 i + 4 j on, and `accst` stores them so, in the wave's own team memory; `accld` from
the global space fills them from the bytes that the plain load of the lines gives. A free slot is claimed for user code, a slot of another context raises ACCFIRST; every other slot, byte and register is as it was. -/
def Obligations.AccumulatorForms : Prop :=
  (∀ i, (∃ f, i = .accld f ∨ i = .acczero f) → ∀ s x, Arrives i s x → ¬mayUse s x x.f.d.num.toNat →
    exec i s = .next (s.raise x { code := .accfirst, sub := 2 ^ x.f.d.num.toNat })) ∧
  (∀ f s x, Arrives (.accst f) s x → ¬mayUse s x x.f.a.num.toNat →
    exec (.accst f) s = .next (s.raise x { code := .accfirst, sub := 2 ^ x.f.a.num.toNat })) ∧
  (∀ f s x, Arrives (.acczero f) s x → mayUse s x x.f.d.num.toNat →
    ∃ C, exec (.acczero f) s = .next { s.withWave x (x.w.withEx (x.exAt x.next)) with cores := C } ∧ Accumulated s x [x.f.d.num.toNat] (fun _ _ _ => 0) C) ∧
  (∀ f s x tm o, Arrives (.accld f) s x → mayUse s x x.f.d.num.toNat → x.w.spois.fetch x.f.a.num.toNat = none → x.tm = some tm →
    (x.w.sreg x.f.a.num.toNat).toNat = 0x0100000000000000 + o → o % 128 = 0 → o + 4096 ≤ tm.teammem → tm.teammem ≤ 2 ^ 19 →
    ∃ C, exec (.accld f) s = .next { s.withWave x (x.w.withEx (x.exAt x.next)) with cores := C } ∧
      Accumulated s x [x.f.d.num.toNat] (fun _ i j => BitVec.ofNat 32 (ofBytes ((List.range 4).map fun b => FMap.at' 0 tm.mem (o + 128 * i + 4 * j + b)))) C) ∧
  (∀ f s x u q ks bs, Arrives (.accld f) s x → mayUse s x x.f.d.num.toNat → x.w.spois.fetch x.f.a.num.toNat = none →
    let va := x.w.sreg x.f.a.num.toNat
    va.toNat % 128 = 0 → va.toNat + 4096 ≤ 0x0100000000000000 → s.waveKeys x .load va 4096 = (u, .keys ks) → u.loadLines x ks va = (q, .bytes bs) →
    ∃ C, exec (.accld f) s = .next { q.withWave x (x.w.withEx (x.exAt x.next)) with cores := C } ∧
      Accumulated q x [x.f.d.num.toNat] (fun _ i j => BitVec.ofNat 32 (field bs (128 * i + 4 * j) 4)) C) ∧
  (∀ f s x tm o, Arrives (.accst f) s x → mayUse s x x.f.a.num.toNat → x.w.spois.fetch x.f.b.num.toNat = none →
    (∀ i < 32, (s.core x.core).accpois.fetch (32 * x.f.a.num.toNat + i) = none) → x.tm = some tm →
    (x.w.sreg x.f.b.num.toNat).toNat = 0x0100000000000000 + o → o % 128 = 0 → o + 4096 ≤ tm.teammem → tm.teammem ≤ 2 ^ 19 →
    (∀ w ∈ tm.windows, w.1 + 128 ≤ o ∨ o + 4096 ≤ w.1) →
    let c := s.core x.core
    ∃ C mem, exec (.accst f) s = .next { s.withWave x (x.w.withEx (x.exAt x.next)) with cores := C, teams := s.teams.ins x.w.team { tm with mem := mem } } ∧
      Accumulated s x [x.f.a.num.toNat] (fun n i j => FMap.at' 0 c.acc (1024 * n + 32 * i + j)) C ∧
      ∀ p, FMap.at' 0 mem p = if o ≤ p ∧ p < o + 4096 then
          (FMap.at' 0 c.acc (1024 * x.f.a.num.toNat + (p - o) / 4)).extractLsb' (8 * ((p - o) % 4)) 8
        else FMap.at' 0 tm.mem p) ∧
  ∀ f s x u ks, Arrives (.accst f) s x → mayUse s x x.f.a.num.toNat → x.w.spois.fetch x.f.b.num.toNat = none →
    (∀ i < 32, (s.core x.core).accpois.fetch (32 * x.f.a.num.toNat + i) = none) →
    let va := x.w.sreg x.f.b.num.toNat
    va.toNat % 128 = 0 → va.toNat + 4096 ≤ 0x0100000000000000 → s.waveKeys x .store va 4096 = (u, .keys ks) → u.storeHeld x.key ks = none →
    let bs := (u.core x.core).slotBytes x.f.a.num.toNat
    let ls := (ks.map lineOf).dedup
    exec (.accst f) s = .next (((((List.range ls.length).zip ls).foldl (fun (v : State) p =>
      v.bufferStore x.key (128 * p.2) ((bs.drop (128 * p.1)).take 128)) u).claimSlots x [x.f.a.num.toNat]).advance x)

/-! ### Loads and stores -/

/-- R29, R243: the alignment that an access needs: its size, but any in the global space and in team memory for a plain one; a register of the supervisor window has its own widths. -/
def Misaligned (x : Ctx) (n : Nat) (plain : Bool) (a : W64) : Prop :=
  (a.toNat % n ≠ 0 ∧ ¬(plain = true ∧ a.toNat < 0x0101000000000000)) ∨
  (rowOf a = .supervisor ∧ x.w.supervisor = true ∧ (supAt a).widthOk n = false)

/-- The access of a load or store. -/
def ldAcc (z : MSize) (o : Ord) (f : F) : Acc :=
  { n := sizeBytes z, use := .load, loose := !ordAcq o, scope := if ordAcq o then f.sc.toNat else 0 }
def stAcc (z : MSize) (o : Ord) (f : F) : Acc :=
  { n := sizeBytes z, use := .store, loose := !ordRel o, scope := if ordRel o then f.sc.toNat else 0 }

/-- The lanes left to perform: a single access once when the wave is converged and for each active lane otherwise, a per-lane access for each active lane that FCM does not show as
complete (R244, R245). -/
def toDo (x : Ctx) : List Nat :=
  if x.f.a.file = .s ∧ x.f.b.file ≠ .v ∧ x.f.c.file ≠ .v then (if x.w.ex.conv then [lowLane x.act] else lanesOf x.act)
  else (lanesOf x.act).filter fun l => !bit x.w.fcm l

/-- One lane after another: each lane's access is performed and puts its result, and FCM marks it, but for a single access (R245). -/
def LaneRun (x : Ctx) (op : State → Nat → Lane) (put : State → Nat → Nat → State) : List Nat → State → State → Prop
  | [], s, t => t = s
  | l :: ls, s, t => ∃ u v, op s l = .done u v ∧
      LaneRun x op put ls (if x.single then put u l v else (put u l v).updWave x.key fun w => { w with fcm := w.fcm ||| laneBit l }) t

/-- FCM falls at the lanes of the split when all lanes of a per-lane access are complete (R245). -/
def Finished (x : Ctx) (t : State) : State :=
  (if x.single then t else t.updWave x.key fun w => { w with fcm := w.fcm &&& ~~~x.sp.mask }).advance x

/-- A release at scope 1 or above may begin: the wave's stores are performed, and no earlier access of another split is unfinished (R116, R250). u is the state then, after the flush that a lane at a device or a window needs, and w the wave, whose
signature and floor the home steps carry. -/
def Released (s : State) (x : Ctx) (scope : Nat) (kind : Kind) (u : State) (w : Wave) : Prop :=
  if scope = 0 then u = s ∧ w = x.w
  else
    let v := s.relDrain x.key scope
    (∃ w0, v.waves.fetch x.key = some w0 ∧ w0.deadStore = none) ∧ v.awaits x = none ∧
    u = (if 2 ≤ scope && v.needsFlush x kind (toDo x) then v.relFlush x.key scope else v) ∧ u.waves.fetch x.key = some w

/-- R79, R243 to R245, R250: a load or store with no active lane only moves on; misaligned lanes raise MISALIGN with nothing performed; and when every remaining lane can be performed, in ascending order, the form
completes, FCM falls, and the split moves on. A release first waits, and its lanes carry the signature that the wave then holds. (A store through a window whose owner is saved in a context record waits for it: the model's choice, log entry 46.) -/
def Obligations.LoadsAndStoresByLane : Prop :=
  let Checks := fun (i : Instr) (q : Acc) => ∀ s x, Issues i s x →
    let bad := (toDo x).filter fun l => x.misaligned q (x.addr l)
    (∀ l, x.misaligned q (x.addr l) = true ↔ Misaligned x q.n q.loose (x.addr l)) ∧
    (x.act = 0 → exec i s = .next (s.withWave x (x.w.withEx (x.exAt x.next)))) ∧
    (x.act ≠ 0 → bad ≠ [] → exec i s = .next (s.raise x (Fi.mk .misalign 0 (if x.single then none else some (maskOf bad)) (x.addr (lowLane (maskOf bad))) q.kind 0 0 [])))
  (∀ z o f, Checks (.ld z o f) (ldAcc z o f)) ∧ (∀ z o f, Checks (.st z o f) (stAcc z o f)) ∧
  (∀ z o f s x t, Issues (.ld z o f) s x → x.act ≠ 0 → s.accessFault x (ldAcc z o f) = none →
    LaneRun x (fun s l => s.loadLane x (ldAcc z o f) (ordNp o) (x.addr l)) (fun s l v => s.putResult x (z == .b64) l (sizeExt z v)) (toDo x) s t →
    exec (.ld z o f) s = .next (Finished x t)) ∧
  ∀ z o f s x u w t, Issues (.st z o f) s x → x.act ≠ 0 → s.accessFault x (stAcc z o f) = none →
    let q := stAcc z o f
    let data := fun l => toBytes q.n (x.src true (z == .b64) x.f.b l).toNat
    (∀ l ∈ toDo x, rowOf (x.addr l) = .window → s.ownerSaved x (x.addr l) = none) → Released s x q.scope .store u w →
    LaneRun x (fun s l => s.storeLane x q w.sigacc w.sigfl (x.addr l) (data l) l) (fun s _ _ => s) (toDo x)
      (u.storeWindows x q.n (if 2 ≤ q.scope then some (w.sigacc, w.sigfl) else none) data (toDo x)) t →
    exec (.st z o f) s = .next (Finished x t)

/-- The lanes of a mask lie in the team's own memory at given offsets, aligned unless the access is plain (R28, R243, R398). -/
def InTeam (x : Ctx) (tm : Team) (m : W32) (n : Nat) (plain : Bool) (O : Nat → Nat) : Prop :=
  x.tm = some tm ∧ tm.teammem ≤ 2 ^ 19 ∧ ∀ l < 32, bit m l = true →
    (x.addr l).toNat = 0x0100000000000000 + O l ∧ O l + n ≤ tm.teammem ∧ (plain = true ∨ O l % n = 0)

/-- The lanes that an access performs. -/
def doneMask (x : Ctx) : W32 := if x.single then x.act else x.act &&& ~~~x.w.fcm

/-- The wave after its lanes are complete: FCM clear at the split for a per-lane access. -/
def fcmDone (x : Ctx) (w : Wave) : Wave := if x.single then w else { w with fcm := x.w.fcm &&& ~~~x.sp.mask }

/-- What an acquire takes from the team's own pair (R117, R251). -/
def acquired (t : Team) (acq : Bool) (w : Wave) : Wave :=
  if acq then { w with sigacc := w.sigacc ||| t.tsig, sigfl := min w.sigfl t.tsigfl } else w

/-- R124, R125, R244, R248, R251: a load whose lanes all lie in the team's own memory gives each lane the bytes at its address, extended by the size, in the s register or in the lanes of the v destination; an acquire at scope 1 or above takes
the team's signature pair. Nothing else changes. A plain store there leaves in each byte what the highest lane that covers it stores, and all other bytes, and everything else, as before. -/
def Sys2Proof.Claim.TeamMemoryAccess : Prop :=
  (∀ z o f s x tm O, Issues (.ld z o f) s x → doneMask x ≠ 0 → InTeam x tm (doneMask x) (sizeBytes z) (!ordAcq o) O →
    let val := fun l => sizeExt z (ofBytes ((List.range (sizeBytes z)).map fun i => FMap.at' 0 tm.mem (O l + i)))
    let endW := fun (w : Wave) => (fcmDone x (acquired tm (ordAcq o && f.sc != 0) w)).withEx (x.exAt x.next)
    (x.f.d.file = .v → ∃ v vp, WroteV x x.f.d.num.toNat (z == .b64) (doneMask x) val v vp ∧
      exec (.ld z o f) s = .next (s.withWave x (endW (x.w.withV v vp)))) ∧
    (x.f.d.file = .s → ∃ r rp, WroteS x x.f.d.num.toNat (val (lowLane x.act)) r rp ∧
      exec (.ld z o f) s = .next (s.withWave x (endW (x.w.withS r rp))))) ∧
  ∀ z o f s x tm O, Issues (.st z o f) s x → (o = .plain ∨ f.sc = 0) → doneMask x ≠ 0 → InTeam x tm (doneMask x) (sizeBytes z) (o == .plain) O →
    (∀ w ∈ tm.windows, ∀ l < 32, bit (doneMask x) l = true → w.1 + 128 ≤ O l ∨ O l + sizeBytes z ≤ w.1) →
    let data := fun l => x.src true (z == .b64) x.f.b l
    ∃ mem, exec (.st z o f) s = .next { s.withWave x ((fcmDone x x.w).withEx (x.exAt x.next)) with teams := s.teams.ins x.w.team { tm with mem := mem } } ∧
      ∀ p, FMap.at' 0 mem p =
        match ((lanesOf (doneMask x)).filter fun l => O l ≤ p && p < O l + sizeBytes z).getLast? with
        | some l => (data l).extractLsb' (8 * (p - O l)) 8
        | none => FMap.at' 0 tm.mem p

/-- The translation caches and the L1 copies of cores may differ, and the number of free values taken; nothing else (R32, R99). -/
def ReadOnly (s u : State) : Prop :=
  u = { s with cores := u.cores, dies := u.dies, free := u.free } ∧
  (∀ g, u.core g = { s.core g with tlb := (u.core g).tlb, l1 := (u.core g).l1 }) ∧
  ∀ d, u.die d = { s.die d with stlb := (u.die d).stlb }

/-- R28, R95, R96, R249, R253: a plain load of the global space by a converged wave with one address, whose bytes lie in one page of this device that no row failure, poison or reservation touches: it reads, for bytes that the L1 does not hold,
what the write-combining buffer of the core holds or else the home; memory, the buffer and every other wave stay as they are. A plain store there puts its bytes into the wave's own entry, after which the core reads them there, the home
unchanged, and its line enters SIGACC. -/
def Sys2Proof.Claim.GlobalMemoryAccess : Prop :=
  let At := fun (s : State) (x : Ctx) (kind : Kind) (n : Nat) (k : Nat) => x.single = true ∧ x.conv = true ∧ x.act ≠ 0 ∧
    (let a := x.addr (lowLane x.act)
     a.toNat + n ≤ 0x0100000000000000 ∧ a.toNat % 65536 + n ≤ 65536 ∧
     (s.translate x.die (some x.core) x.w.tag x.w.supervisor kind a).2 = .ok k ∧ k + n ≤ 2 ^ 52)
  (∀ z f s x k, Issues (.ld z .plain f) s x → At s x .load (sizeBytes z) k →
    (∀ i < sizeBytes z, s.poisoned (lineOf (k + i)) = false ∧ s.isReserved (lineOf (k + i)) = false) →
    (∀ i < sizeBytes z, (s.core x.core).l1.fetch (32 * sectorOf (k + i)) = none) →
    let v := sizeExt z (ofBytes ((List.range (sizeBytes z)).map fun i => ((s.core x.core).wcbByte (k + i)).getD (s.homeByte (k + i))))
    ∃ u, ReadOnly s u ∧
      (x.f.d.file = .v → ∃ r rp, WroteV x x.f.d.num.toNat (z == .b64) x.act (fun _ => v) r rp ∧
        exec (.ld z .plain f) s = .next (u.withWave x ((x.w.withV r rp).withEx (x.exAt x.next)))) ∧
      (x.f.d.file = .s → ∃ r rp, WroteS x x.f.d.num.toNat v r rp ∧
        exec (.ld z .plain f) s = .next (u.withWave x ((x.w.withS r rp).withEx (x.exAt x.next))))) ∧
  ∀ z f s x k, Issues (.st z .plain f) s x → At s x .store (sizeBytes z) k → x.slot < 64 →
    (∀ e ∈ (s.core x.core).wcb, e.slot ≠ x.slot → ∀ i < sizeBytes z, e.bytes.fetch (k + i) = none) →
    let data := x.src true (z == .b64) x.f.b (lowLane x.act)
    ∃ (u : State) (g : Sig), exec (.st z .plain f) s = .next ({ s with cores := u.cores, dies := u.dies }.withWave x ({ x.w with sigacc := g }.withEx (x.exAt x.next))) ∧
      (∀ d, u.die d = { s.die d with stlb := (u.die d).stlb }) ∧
      (∀ c, c ≠ x.core → u.core c = s.core c) ∧
      u.core x.core = { s.core x.core with tlb := (u.core x.core).tlb, l1 := (u.core x.core).l1, wcb := (u.core x.core).wcb } ∧
      (∀ p, (u.core x.core).wcbByte p = if k ≤ p ∧ p < k + sizeBytes z then some (data.extractLsb' (8 * (p - k)) 8) else (s.core x.core).wcbByte p) ∧
      (∀ p, (u.core x.core).l1.fetch p = if k ≤ p ∧ p < k + sizeBytes z then ((s.core x.core).l1.fetch p).map (fun _ => data.extractLsb' (8 * (p - k)) 8)
        else (s.core x.core).l1.fetch p) ∧
      (∀ i < 1024, bit x.w.sigacc i = true → bit g i = true) ∧ ∀ i < sizeBytes z, sigHits g (s.lineKey (lineOf (k + i))) = true

/-- Team-memory and global accesses of a lane: bytes read, bytes stored, and the rest unchanged. The statement is the conjunction of its parts, each described at its definition. -/
def Obligations.TeamAndGlobalAccess : Prop := Sys2Proof.Claim.TeamMemoryAccess ∧ Sys2Proof.Claim.GlobalMemoryAccess

/-- R409, R421: the records of a PAGE, one for each entry that lanes of a list miss, in ascending order of the lowest lane that misses it: its address, all lanes that miss the entry, the level at which the walk stopped; the last carries LAST. -/
def PageList (ls : List Nat) (addr : Nat → W64) (entry acc : Nat → Nat) (kind : Nat) (base : Rec) (rs : List Rec) : Prop :=
  ∃ ks : List Nat, ks.Nodup ∧ rs.length = ks.length ∧ (∀ k, k ∈ ks ↔ ∃ l ∈ ls, entry l = k) ∧
    ∀ i (r : Rec) k, rs[i]? = some r → ks[i]? = some k →
      ∃ l ∈ ls, entry l = k ∧ (∀ j ∈ ls, entry j = k → l ≤ j) ∧
        (∀ j ∈ ls, (∃ n < i, ks[n]? = some (entry j)) → ∃ j' ∈ ls, entry j' = entry j ∧ j' < l) ∧
        r = { base with lanes := r.lanes, va := addr l, acc := BitVec.ofNat 32 (kind + acc l), last := decide (i + 1 = rs.length) } ∧
        ∀ j < 32, bit r.lanes j = true ↔ j ∈ ls ∧ entry j = k

/-- R245, R407, R412, R421: a load whose remaining lanes all miss their translation takes PAGE: outside a handler the wave is suspended, its SEQ rises by 1, it keeps its splits and registers, and its die queues one record for each missing or
malformed entry, under that SEQ. -/
def Sys2Proof.Claim.PageFaults : Prop :=
  ∀ z o f s x e acc, Issues (.ld z o f) s x → x.single = false → x.w.hnd = none → toDo x ≠ [] →
    (∀ l ∈ toDo x, (x.addr l).toNat + sizeBytes z ≤ 0x0100000000000000 ∧ (x.addr l).toNat % 65536 + sizeBytes z ≤ 65536 ∧
      (ordAcq o = false ∨ (x.addr l).toNat % sizeBytes z = 0) ∧
      (s.translate x.die (some x.core) x.w.tag x.w.supervisor .load (x.addr l)).2 = .page (e l) (acc l)) →
    ∃ t w' rs, exec (.ld z o f) s = .next t ∧ t = { s with waves := s.waves.ins x.key w', dies := t.dies } ∧
      w'.ex = x.w.ex ∧ w'.s = x.w.s ∧ w'.v = x.w.v ∧ w'.fcm = x.w.fcm ∧ w'.seq = (x.w.seq + 1) % 65536 ∧ w'.suspended = true ∧
      w'.stopped = false ∧ w'.pcode = some .page ∧
      (t.die (dieOf (x.key / 64))).held = (s.die (dieOf (x.key / 64))).held ++ rs ∧
      PageList (toDo x) x.addr e acc 1
        { code := 5, source := 0, replay := true, last := false, seq := w'.seq, srcid := BitVec.ofNat 32 (x.key / 64 + 512 * (x.key % 64)),
          tag := x.w.tag, pc := x.sp.pc, time := s.cc } rs

/-- trap and bkpt enter the handler; faults of the service stop the wave and make a record; PAGE with its records. The statement is the conjunction of its parts, each described at its definition. -/
def Obligations.TakingExceptions : Prop := Sys2Proof.Claim.SoftwareTrapsEnterHandler ∧ Sys2Proof.Claim.FaultsGoToService ∧ Sys2Proof.Claim.PageFaults

/-! ### Atomics -/

/-- R258: the new value of an integer atomic from the patterns of o, b and c of n bits, signed or not; `cas` may write nothing. -/
abbrev AmoFn := Nat → Bool → Nat → Nat → Nat → Option Nat

/-- The number of a pattern of n bits. -/
def patNum (sg : Bool) (n v : Nat) : Int := if sg then (BitVec.ofNat n v).toInt else (v % 2 ^ n : Nat)

def amoTable : List ((AtTy → Ord → F → Instr) × AmoFn) :=
  [(.atomAdd, fun n _ o b _ => some ((o + b) % 2 ^ n)),
   (.atomMin, fun n sg o b _ => some (if patNum sg n o ≤ patNum sg n b then o else b)),
   (.atomMax, fun n sg o b _ => some (if patNum sg n o ≤ patNum sg n b then b else o)),
   (.atomAnd, fun _ _ o b _ => some (o &&& b)), (.atomOr, fun _ _ o b _ => some (o ||| b)), (.atomXor, fun _ _ o b _ => some (o ^^^ b)),
   (.atomXchg, fun _ _ _ b _ => some b), (.atomCas, fun _ _ o b c => if o = b then some c else none)]

/-- R258: one element of `fadd`: the exact sum, rounded to nearest, with subnormals. -/
def faddOne (g : Fmt) (o b : Nat) : Nat := (roundOp g .rne 0 false (fvAdd (valueOf g o) (valueOf g b) .rne)).1

def faddNew : FaTy → Nat → Nat → Nat
  | .f32, o, b => faddOne .f32 o b
  | .f64, o, b => faddOne .f64 o b
  | .bf16x2, o, b => faddOne .bf16 (o % 65536) (b % 65536) + 65536 * faddOne .bf16 (o / 65536) (b / 65536)

/-- The lanes of an atomic on a team's memory, one after another: the team at the end, and the old value that each lane finds (R247, R258). -/
def atomSeq (n : Nat) (O : Nat → Nat) (new : Nat → Nat → Option Nat) : List Nat → Team → Team × List (Nat × Nat)
  | [], t => (t, [])
  | l :: ls, t =>
    let old := ofBytes ((List.range n).map fun i => FMap.at' 0 t.mem (O l + i))
    let r := atomSeq n O new ls (match new l old with | some v => t.putBytes (O l) (toBytes n v) | none => t)
    (r.1, (l, old) :: r.2)

/-- The old value goes nowhere, to the s register extended by the type, or to the lanes of v that were performed (R244, R259). -/
def OldValue (x : Ctx) (n : Nat) (ext : Nat → W64) (ret : Nat → Nat) (w : Wave) : Prop :=
  match x.f.d.file with
  | .none => w = x.w
  | .s => ∃ r rp, WroteS x x.f.d.num.toNat (ext (ret (lowLane x.act))) r rp ∧ w = x.w.withS r rp
  | _ => ∃ v vp, WroteV x x.f.d.num.toNat (n == 8) (doneMask x) (fun l => BitVec.ofNat 64 (ret l)) v vp ∧ w = x.w.withV v vp

/-- What the rules say of one atomic form: its access of n bytes, its order, its new value and the extension of the old one. -/
def AtomicLaw (i : Instr) (n : Nat) (o : Ord) (f : F) (new : Ctx → Nat → Nat → Option Nat) (ext : Nat → W64) : Prop :=
  let sc := if o = .plain then 0 else f.sc.toNat
  let acq := ordAcq o && sc != 0
  let q : Acc := { n := n, use := .atomic, scope := sc }
  ∀ s x, Issues i s x →
    -- no active lane
    (x.act = 0 → exec i s = .next (s.withWave x (x.w.withEx (x.exAt x.next)))) ∧
    -- lane by lane, anywhere, in any order of memory
    (∀ u w t, x.act ≠ 0 → s.accessFault x q = none → (if ordRel o = true then Released s x sc .atomic u w else u = s) →
      let m : Amw := if ordRel o = true then ⟨true, acq, w.sigacc, w.sigfl⟩ else ⟨false, acq, 0, 6⟩
      LaneRun x (fun s l => if rowOf (x.addr l) = .team then s.atomTeam x q m (x.addr l) (new x l) else s.atomGlobal x q m (x.addr l) (new x l))
        (fun s l v => s.putResult x (n == 8) l (if x.f.d.file = .s then ext v else BitVec.ofNat 64 v)) (toDo x) u t →
      exec i s = .next (Finished x t)) ∧
    -- in the team's own memory
    (∀ tm O, (ordRel o = false ∨ sc = 0) → doneMask x ≠ 0 → InTeam x tm (doneMask x) n false O →
      let r := atomSeq n O (new x) (toDo x) tm
      let ret := fun l => ((r.2.find? fun p => p.1 == if x.single && x.conv then lowLane x.act else l).map Prod.snd).getD 0
      ∃ U w, OldValue x n ext ret w ∧ (∀ k, FMap.fetch U k = if k = x.w.team then some r.1 else s.teams.fetch k) ∧
        exec i s = .next { s.withWave x ((fcmDone x (acquired tm acq w)).withEx (x.exAt x.next)) with teams := U }) ∧
    -- one performance at a line of this device
    ∀ k, o = .plain → x.single = true → x.conv = true → x.act ≠ 0 →
      (let a := x.addr (lowLane x.act)
       a.toNat + n ≤ 0x0100000000000000 ∧ a.toNat % n = 0 ∧ (s.translate x.die (some x.core) x.w.tag x.w.supervisor .atomic a).2 = .ok k) → k + n ≤ 2 ^ 52 →
      (∀ i < n, s.poisoned (lineOf (k + i)) = false ∧ s.isReserved (lineOf (k + i)) = false) →
      (∀ e ∈ (s.core x.core).wcb, ∀ i < n, e.bytes.fetch (k + i) = none) →
      let old := ofBytes ((List.range n).map fun i => s.homeByte (k + i))
      ∃ (u : State) (w : Wave), OldValue x n ext (fun _ => old) w ∧
        exec i s = .next ({ s with cores := u.cores, dies := u.dies, l2d := u.l2d, dirCopy := u.dirCopy, dram := u.dram, peerCopy := u.peerCopy, free := u.free, watch := u.watch }.withWave x
          ({ w with sigacc := sigInsert x.w.sigacc (s.lineKey (lineOf k)) }.withEx (x.exAt x.next))) ∧
        (∀ p, ({ s with l2d := u.l2d, dram := u.dram } : State).homeByte p = match new x (lowLane x.act) old with
          | some v => if k ≤ p ∧ p < k + n then BitVec.ofNat 8 (v / 2 ^ (8 * (p - k))) else s.homeByte p
          | none => s.homeByte p) ∧
        (∀ d, u.die d = { s.die d with stlb := (u.die d).stlb }) ∧ (∀ c, c ≠ x.core → u.core c = s.core c) ∧
        u.core x.core = { s.core x.core with tlb := (u.core x.core).tlb, l1 := (s.core x.core).l1.dropKeys fun p => lineOf p == lineOf k }

/-- R109, R185, R247, R250, R257 to R259: every atomic, lane by lane in ascending order, reads the old value, writes the new one at the same point, and returns the old value; `cas` writes only when the patterns are equal. In team memory the full bits and all other bytes stay;
at a line of this device the home holds the new value, the core's L1 copy of the line is gone and the line is in SIGACC. FLAGS, and everything else, stay as they are. -/
def Sys2Proof.Claim.AtomicForms : Prop :=
  (∀ q ∈ amoTable, ∀ t o f,
    let n := if Forms.atWide t then 64 else 32
    AtomicLaw (q.1 t o f) (n / 8) o f (fun x l old =>
        q.2 n (t == .i32 || t == .i64) old ((x.src true (n == 64) x.f.b l).toNat % 2 ^ n) ((x.src true (n == 64) x.f.c l).toNat % 2 ^ n))
      fun v => if t = .i32 then (BitVec.ofNat 32 v).signExtend 64 else BitVec.ofNat 64 v) ∧
  ∀ t o f,
    let n := if t = .f64 then 64 else 32
    AtomicLaw (.atomFadd t o f) (n / 8) o f (fun x l old => some (faddNew t old ((x.src true (n == 64) x.f.b l).toNat % 2 ^ n))) fun v => BitVec.ofNat 64 v

/-! ### Full/empty forms -/

/-- The words that a full/empty form names at the active lanes lie in the team's own memory, one word for each lane, and no two lanes share one (or the access is a single one); a form that fills names no
byte of an open window (R132). -/
def OwnWords (x : Ctx) (tm : Team) (fill : Bool) (O : Nat → Nat) : Prop :=
  x.act ≠ 0 ∧ x.act &&& x.w.fcm = 0 ∧ InTeam x tm x.act 4 false O ∧
  (fill = true → ∀ w ∈ tm.windows, ∀ l < 32, bit x.act l = true → w.1 + 128 ≤ O l ∨ O l + 4 ≤ w.1) ∧
  ((x.single = true ∧ x.conv = true) ∨ ∀ l < 32, ∀ j < 32, bit x.act l = true → bit x.act j = true → O l = O j → l = j)

/-- R125, R126, R256: the full/empty forms on words that are ready. `ld.sync` reads full words and leaves them full; `ld.take` reads full words and leaves them empty; both take the team's signature pair. `st.fill`, whose wave has no store or earlier access left to perform, writes empty words, leaves them
full, and adds the wave's pair to the team's. A form none of whose words is ready waits, with no effect; FE_LANE_COMPLETE lets it look again, and completes it when its words have become ready. -/
def Sys2Proof.Claim.FullEmptyForms : Prop :=
  let words := fun (x : Ctx) (O : Nat → Nat) => (lanesOf x.act).map fun l => O l / 4
  let ready := fun (x : Ctx) (O : Nat → Nat) (tm : Team) (s : State) (full : Bool) (once : Bool) => ∀ w ∈ words x O, FMap.at' false tm.full w = full ∧
    (once = true → FMap.at' 0 tm.feLast w ≠ s.cc + 1)
  let endW := fun (x : Ctx) (w : Wave) => (if x.single && x.conv then w else { w with fcm := x.w.fcm &&& ~~~x.sp.mask }).withEx (x.exAt x.next)
  let val := fun (tm : Team) (O : Nat → Nat) l => BitVec.ofNat 64 (ofBytes ((List.range 4).map fun i => FMap.at' 0 tm.mem (O l + i)))
  (∀ f s x tm O, Issues (.ldSync f) s x → OwnWords x tm false O → ready x O tm s true false →
    ∃ v vp, WroteV x x.f.d.num.toNat false x.act (val tm O) v vp ∧
      exec (.ldSync f) s = .next (s.withWave x (endW x (acquired tm true (x.w.withV v vp))))) ∧
  (∀ f s x tm O, Issues (.ldTake f) s x → OwnWords x tm false O → ready x O tm s true true →
    ∃ v vp F L, WroteV x x.f.d.num.toNat false x.act (val tm O) v vp ∧
      exec (.ldTake f) s = .next { s.withWave x (endW x (acquired tm true (x.w.withV v vp))) with
        teams := s.teams.ins x.w.team { tm with full := F, feLast := L } } ∧
      (∀ w, FMap.at' false F w = (FMap.at' false tm.full w && !(words x O).contains w)) ∧
      ∀ w, FMap.at' 0 L w = if (words x O).contains w then s.cc + 1 else FMap.at' 0 tm.feLast w) ∧
  (∀ f s x tm O, Issues (.stFill f) s x → OwnWords x tm true O → ready x O tm s false true → s.relDrain x.key 1 = s → x.w.deadStore = none → s.awaits x = none →
    ∃ M F L, exec (.stFill f) s = .next { s.withWave x (endW x x.w) with
        teams := s.teams.ins x.w.team { tm with mem := M, full := F, feLast := L
                                                tsig := if sigFull (tm.tsig ||| x.w.sigacc) then 0 else tm.tsig ||| x.w.sigacc
                                                tsigfl := if sigFull (tm.tsig ||| x.w.sigacc) then 1 else min tm.tsigfl x.w.sigfl } } ∧
      (∀ w, FMap.at' false F w = (FMap.at' false tm.full w || (words x O).contains w)) ∧
      (∀ w, FMap.at' 0 L w = if (words x O).contains w then s.cc + 1 else FMap.at' 0 tm.feLast w) ∧
      (∀ l < 32, bit x.act l = true → ∀ i < 4, FMap.at' 0 M (O l + i) = (x.src true false x.f.b l).extractLsb' (8 * i) 8) ∧
      ∀ p, (words x O).contains (p / 4) = false → FMap.at' 0 M p = FMap.at' 0 tm.mem p) ∧
  (∀ i f, (i = .ldSync f ∨ i = .ldTake f ∨ i = .stFill f) → ∀ s x tm O, Issues i s x → OwnWords x tm (i == .stFill f) O →
    (∀ w ∈ words x O, FMap.at' false tm.full w = match i with | .stFill _ => true | _ => false) →
    exec i s = .next (s.withWave x (x.w.withEx { x.w.ex with splits := x.w.ex.splits.ins x.entry { x.sp with stall := .fullEmpty, form := some i, born := x.since } }))) ∧
  ∀ i f, (i = .ldSync f ∨ i = .ldTake f ∨ i = .stFill f) → ∀ s x tm O, Issues i s x → OwnWords x tm (i == .stFill f) O → x.w.halted = false →
    x.sp.stall = .fullEmpty → x.sp.form = some i →
    exec (.feLaneComplete ⟨x.core, x.slot⟩ x.entry) s = exec i s ∧ ∃ t, exec (.feLaneComplete ⟨x.core, x.slot⟩ x.entry) s = .next t

/-- Atomics and full/empty forms: old value, new value, and the words they leave alone. The statement is the conjunction of its parts, each described at its definition. -/
def Obligations.AtomicsAndFullEmpty : Prop := Sys2Proof.Claim.AtomicForms ∧ Sys2Proof.Claim.FullEmptyForms

/-! ### Fences, prefetches and cache control -/

/-- R110, R116, R255: a fence or release by the issuing wave has nothing left to wait for: u is the state with its stores performed, and no earlier access of another split is unfinished. -/
def Waited (s : State) (x : Ctx) (scope : Nat) (u : State) (w : Wave) : Prop :=
  u = s.relDrain x.key scope ∧ u.waves.fetch x.key = some w ∧ w.deadStore = none ∧ u.awaits x = none

/-- R96, R110, R111, R260, R261: `fence.sc` below scope 2 drains the wave's buffer and goes on, unless an earlier access of another split is unfinished, for which it waits; from scope 2 it goes on once the wave's stores are performed, with none left in the buffer; a store that a dead home discarded makes it raise REMDEAD with the home's incarnation. `fence.xp`, after such a wait, writes
the dirty lines of the range to DRAM and drops every copy of them; what any byte of this device reads as at home stays the same, and DRAM changes nowhere else. WCB_DRAIN performs the entry of a buffer that has stood for 1024 cc at its home, and no
other byte of this device changes. -/
def Sys2Proof.Claim.FencesAndDrains : Prop :=
  (∀ f s x w, Issues (.fenceSc f) s x → f.sc.toNat < 2 → (s.drainWave x.key).waves.fetch x.key = some w →
    exec (.fenceSc f) s = .next (if w.older x.since then (s.drainWave x.key).stallAt x .earlier (.fenceSc f) else (s.drainWave x.key).advance x)) ∧
  (∀ f s x u w, Issues (.fenceSc f) s x → 2 ≤ f.sc.toNat → Waited s x f.sc.toNat u w → x.slot < 64 →
    exec (.fenceSc f) s = .next (u.withWave x (w.withEx { w.ex with splits := w.ex.splits.upd x.entry fun p => { p with pc := x.next, stall := .none, form := none, born := 0, ask := none } })) ∧
    (∀ e ∈ (u.core x.core).wcb, e.slot ≠ x.slot) ∧ w.heldStores = []) ∧
  (∀ i f, (i = .fenceSc f ∧ 2 ≤ f.sc.toNat ∨ i = .fenceXp f) → ∀ s x w, Issues i s x →
    let u := s.relDrain x.key (match i with | .fenceSc f => f.sc.toNat | _ => 1)
    ∀ inc, u.waves.fetch x.key = some w → w.deadStore = some inc →
    exec i s = .next ((u.withWave x { w with deadStore := none }).raise x { code := .remdead, kind := .store, inc := inc })) ∧
  (∀ f s x u w, Issues (.fenceXp f) s x → Waited s x 1 u w →
    let sp := u.rangeSpan x
    ∃ t, exec (.fenceXp f) s = .next t ∧ t = { u with dram := t.dram, l2d := t.l2d, dirCopy := t.dirCopy, peerCopy := t.peerCopy, waves := t.waves } ∧
      (∀ p, homeOf p = .here → t.homeByte p = u.homeByte p ∧
        (inSpan sp (lineOf p) = true → t.dramByte p = u.homeByte p ∧ t.l2d.fetch p = none ∧ t.dirCopy.fetch (lineOf p) = none) ∧
        (inSpan sp (lineOf p) = false → t.dramByte p = u.dramByte p)) ∧
      ∀ p, homeOf p ≠ .here → t.homeByte p = u.homeByte p) ∧
  ∀ (s : State) core slot line e, slot < 64 → (s.core core).wcb.filter (fun e => e.slot == slot && e.line == line && e.last + 1024 ≤ s.cc) = [e] → s.shut (dieOf core) line = none →
    FMap.sorted e.bytes = true → (∀ k b, e.bytes.fetch k = some b → homeOf k = .here) →
    ∃ t, exec (.wcbDrain core slot line) s = .next t ∧ t = { s with cores := t.cores, l2d := t.l2d, dirCopy := t.dirCopy, dram := t.dram, peerCopy := t.peerCopy, free := t.free, watch := t.watch } ∧
      t.core core = { s.core core with wcb := (s.core core).wcb.filter fun e => !(e.slot == slot && e.line == line && e.last + 1024 ≤ s.cc) } ∧
      (∀ g, g ≠ core → t.core g = s.core g) ∧ ∀ p, t.homeByte p = (e.bytes.fetch p).getD (s.homeByte p)

/-- R216, R254, R262, R263: `cinv` takes the lines of the range out of the issuing core's L1 and does nothing else; the prefetches change no byte, no register and no signature, whatever they find, and `pf` of one address of this device fills the whole
line into the L1; `lineclr` of a line of this device sets its 128 bytes to zero at home as one write, clears its mark, zeroes the core's L1 copy and puts the line into SIGACC, and changes no other byte or register. -/
def Sys2Proof.Claim.PrefetchAndCacheControl : Prop :=
  (∀ f s x, Issues (.cinv f) s x →
    let sp := s.rangeSpan x
    ∃ C, exec (.cinv f) s = .next { s.withWave x (x.w.withEx (x.exAt x.next)) with cores := C } ∧
      let t := { s with cores := C }
      (∀ g, g ≠ x.core → t.core g = s.core g) ∧ t.core x.core = { s.core x.core with l1 := (t.core x.core).l1 } ∧
      ∀ p, (t.core x.core).l1.fetch p = if inSpan sp (lineOf p) then none else (s.core x.core).l1.fetch p) ∧
  (∀ i, (∃ f, i = .pf f ∨ i = .pfL2 f) → ∀ s x, Issues i s x →
    ∃ (u : State), exec i s = .next ({ s with cores := u.cores, dies := u.dies, peerCopy := u.peerCopy, l2d := u.l2d, dram := u.dram, free := u.free }.withWave x (x.w.withEx (x.exAt x.next))) ∧
      (∀ p, ({ s with l2d := u.l2d, dram := u.dram } : State).homeByte p = s.homeByte p) ∧
      (∀ g, u.core g = { s.core g with tlb := (u.core g).tlb, l1 := (u.core g).l1 }) ∧ ∀ d, u.die d = { s.die d with stlb := (u.die d).stlb }) ∧
  (∀ f s x k, Issues (.pf f) s x → x.f.a.file = .s → x.act ≠ 0 → k < 2 ^ 52 →
    (s.translate x.die (some x.core) x.w.tag x.w.supervisor .load (x.addr 0)).2 = .ok k → s.reach x.die (lineOf k) = .ok →
    ∃ t, exec (.pf f) s = .next t ∧ ∀ p, lineOf p = lineOf k → (t.core x.core).l1.fetch p = some (((s.core x.core).wcbByte p).getD (s.homeByte p))) ∧
  ∀ f s x k, Issues (.lineclr f) s x →
    let va := x.src false false x.f.a 0
    va.toNat % 128 = 0 → va.toNat < 0x0100000000000000 → k < 2 ^ 52 →
    (s.translate x.die (some x.core) x.w.tag x.w.supervisor (if x.w.supervisor then .none else .store) va).2 = .ok k →
    s.isReserved (lineOf k) = false → (∀ e ∈ (s.core x.core).wcb, e.line ≠ lineOf k) →
    ∃ (u : State), exec (.lineclr f) s = .next ({ s with cores := u.cores, dies := u.dies, l2d := u.l2d, dirCopy := u.dirCopy, dram := u.dram, peerCopy := u.peerCopy, free := u.free, watch := u.watch, poison := u.poison, hard := u.hard }.withWave x
        ({ x.w with sigacc := sigInsert x.w.sigacc (s.lineKey (lineOf k)) }.withEx (x.exAt x.next))) ∧
      (∀ p, ({ s with l2d := u.l2d, dram := u.dram } : State).homeByte p = if lineOf p = lineOf k then 0 else s.homeByte p) ∧
      (∀ l, FMap.at' false u.poison l = (FMap.at' false s.poison l && l != lineOf k)) ∧
      u.dirCopy.fetch (lineOf k) = none ∧
      (∀ g, g ≠ x.core → u.core g = s.core g) ∧ u.core x.core = { s.core x.core with tlb := (u.core x.core).tlb, l1 := (u.core x.core).l1 } ∧
      (∀ p, (u.core x.core).l1.fetch p = if lineOf p = lineOf k then ((s.core x.core).l1.fetch p).map fun _ => 0 else (s.core x.core).l1.fetch p) ∧
      ∀ d, u.die d = { s.die d with stlb := (u.die d).stlb }

/-- Fences, draining of the buffer, prefetch and cache control. The statement is the conjunction of its parts, each described at its definition. -/
def Obligations.FencesAndCaches : Prop := Sys2Proof.Claim.FencesAndDrains ∧ Sys2Proof.Claim.PrefetchAndCacheControl

/-! ### Windows -/

/-- The status of a form performed once: zero-extended to the s register or to every active lane (R264, R265). -/
def StatusOut (x : Ctx) (n : Nat) (w : Wave) : Prop :=
  match x.f.d.file with
  | .s => ∃ r rp, WroteS x x.f.d.num.toNat (BitVec.ofNat 64 n) r rp ∧ w = x.w.withS r rp
  | .v => ∃ v vp, WroteV x x.f.d.num.toNat false x.act (fun _ => BitVec.ofNat 64 n) v vp ∧ w = x.w.withV v vp
  | _ => w = x.w

/-- Teams after two changes, one after the other. -/
def twoTeams (s : State) (a : Nat) (f : Team → Team) (b : Nat) (g : Team → Team) : State := (s.updTeam a f).updTeam b g

/-- R128, R129, R264 to R266: `wopen` and `wsub`, performed once, return the first status that applies, in ascending order (the model's reading, log entry 45), and then do nothing else, or 0. `wopen`, which waits until the wave's earlier accesses are performed, then opens the window, with SEQ 0 and no subscriber; `wsub` adds a replica that is yet to be installed and
subscribes the team. `wclose` ends a window with every replica of it, `wunsub` ends the subscription and its replica; every other window, replica and subscription of every team, and all else that a team has, its memory and registers among it, is as it was. -/
def Sys2Proof.Claim.WindowForms : Prop :=
  (∀ f s x l tm, Issues (.wopen f) s x → x.performs = [l] → s.teams.fetch x.w.team = some tm →
    let off := (x.src false false x.f.a 0).toNat
    let writer := (x.src false false x.f.b 0).toNat
    let sw := bit x.f.imm8 0
    let n := if off % 128 ≠ 0 ∨ tm.teammem ≤ off then 1
      else if (tm.windows.fetch off).isSome then 2
      else if 256 ≤ ((s.teams.filter fun p => p.2.core == x.core).map fun p => p.2.windows.length).sum then 3
      else if sw = true ∧ (255 < writer ∨ s.rankOf tm writer = none) then 4 else 0
    let u := s.drainWave x.key
    let y := { x with w := (u.waves.fetch x.key).getD x.w }
    (∀ why, u.awaits x = some why → exec (.wopen f) s = .next (u.stallAt x why (.wopen f))) ∧
    (u.awaits x = none → ∃ w, StatusOut y n w ∧ exec (.wopen f) s =
      .next ((if n = 0 then u.updTeam x.w.team fun t => { t with windows := t.windows.ins off ⟨sw, if sw then writer else 0, 0, []⟩ } else u).withWave x
        (w.withEx (x.exAt x.next))))) ∧
  (∀ f s x l tm, Issues (.wsub f) s x → x.performs = [l] → s.teams.fetch x.w.team = some tm →
    let rank := (x.src false false x.f.a 0).toNat
    let off := (x.src false false x.f.b 0).toNat
    let owner := s.rankOf tm rank
    let n := if 255 < rank ∨ owner = none then 1
      else if (∃ q, owner = some q ∧ q.2.windows.fetch off = none) then 2
      else if 256 ≤ ((s.teams.filter fun p => p.2.core == x.core).map fun p => p.2.replicas.length).sum then 3
      else if (∃ q, owner = some q ∧ ∃ r ∈ tm.replicas, r.owner = q.1 ∧ r.offset = off) then 4 else 0
    ∃ w, StatusOut x n w ∧ (n ≠ 0 → exec (.wsub f) s = .next (s.withWave x (w.withEx (x.exAt x.next)))) ∧
      (n = 0 → ∀ q, owner = some q → exec (.wsub f) s = .next ((twoTeams s x.w.team (fun t => { t with replicas := t.replicas ++ [⟨q.1, off, false, 0, [], none⟩] }) q.1
        (fun t => { t with windows := t.windows.upd off fun v => { v with subs := v.subs.ins x.w.team [] } })).withWave x (w.withEx (x.exAt x.next))))) ∧
  (∀ f s x l tm win, Issues (.wclose f) s x → x.performs = [l] → s.teams.fetch x.w.team = some tm →
    let off := (x.src false false x.f.a 0).toNat
    tm.windows.fetch off = some win →
    ∃ U, exec (.wclose f) s = .next { s.withWave x (x.w.withEx (x.exAt x.next)) with teams := U } ∧
      ∀ k, (s.teams.fetch k = none → FMap.fetch U k = none) ∧ ∀ t, s.teams.fetch k = some t →
        ∃ t', FMap.fetch U k = some t' ∧ t' = { t with replicas := t'.replicas, windows := t'.windows } ∧
          t'.replicas = (if (win.subs.fetch k).isSome then t.replicas.filter fun r => !(r.owner == x.w.team && r.offset == off) else t.replicas) ∧
          ∀ o, t'.windows.fetch o = if k = x.w.team ∧ o = off then none else t.windows.fetch o) ∧
  (∀ f s x tm, Issues (.wclose f) s x → s.teams.fetch x.w.team = some tm → tm.windows.fetch (x.src false false x.f.a 0).toNat = none →
    exec (.wclose f) s = .next (s.withWave x (x.w.withEx (x.exAt x.next)))) ∧
  ∀ f s x l tm o ow, Issues (.wunsub f) s x → x.performs = [l] → s.teams.fetch x.w.team = some tm → s.teams.fetch o = some ow →
    let off := (x.src false false x.f.a 0).toNat
    s.rankOf tm (x.src false false x.f.b 0).toNat = some (o, ow) →
    ∃ U, exec (.wunsub f) s = .next { s.withWave x (x.w.withEx (x.exAt x.next)) with teams := U } ∧
      ∀ k, (s.teams.fetch k = none → FMap.fetch U k = none) ∧ ∀ t, s.teams.fetch k = some t →
        ∃ t', FMap.fetch U k = some t' ∧ t' = { t with replicas := t'.replicas, windows := t'.windows } ∧
          t'.replicas = (if k = x.w.team then t.replicas.filter fun r => !(r.owner == o && r.offset == off) else t.replicas) ∧
          ∀ w, t'.windows.fetch w = if k = o ∧ w = off then (t.windows.fetch w).map fun v => { v with subs := v.subs.del x.w.team } else t.windows.fetch w

/-- R130, R131, R133: a plain store by a converged wave with one address, to a window that it may write, is one update: SEQ rises by 1, the owner's memory takes the bytes, and the update joins the queue of each subscriber. WINDOW_UPDATE applies the oldest update that an installed
replica has not applied; REPLICA_INSTALL gives a new replica the window's bytes and its SEQ. Neither changes anything else. -/
def Sys2Proof.Claim.WindowUpdates : Prop :=
  (∀ z f s x o off ow win, Issues (.st z .plain f) s x → x.single = true → x.conv = true → x.act ≠ 0 → s.teams.fetch o = some ow →
    let a := x.addr (lowLane x.act)
    let n := sizeBytes z
    rowOf a = .window → a.toNat % n = 0 → s.windowAt x true a = some (o, off) → ow.windows.fetch off = some win →
    let data := x.src true (z == .b64) x.f.b (lowLane x.act)
    ∃ bytes M, (∀ p, FMap.fetch bytes p = if winOff a ≤ p ∧ p < winOff a + n then some (data.extractLsb' (8 * (p - winOff a)) 8) else none) ∧
      (∀ p, FMap.at' 0 M p = (FMap.fetch bytes p).getD (FMap.at' 0 ow.mem p)) ∧
      exec (.st z .plain f) s = .next { s.withWave x (x.w.withEx (x.exAt x.next)) with teams := s.teams.ins o { ow with
        mem := M, windows := ow.windows.ins off { win with seq := win.seq + 1, subs := win.subs.map fun p => (p.1, p.2 ++ [⟨win.seq + 1, bytes, none, x.key / 64, x.key % 64⟩]) } } }) ∧
  (∀ (s : State) owner off sub ow win u us sm, s.teams.fetch owner = some ow → ow.windows.fetch off = some win → win.subs.fetch sub = some (u :: us) → s.teams.fetch sub = some sm →
    (∃ r ∈ sm.replicas, r.owner = owner ∧ r.offset = off ∧ r.installed = true) →
    exec (.windowUpdate owner off sub) s = .next (twoTeams s sub
      (fun t => { t with replicas := t.replicas.map fun (r : Replica) => if r.owner = owner ∧ r.offset = off then
        { r with seq := u.seq, bytes := u.bytes.foldl (fun m b => FMap.ins m b.1 b.2) r.bytes, pair := (match u.pair with | some q => some q | none => r.pair) } else r })
      owner fun t => { t with windows := t.windows.upd off fun v => { v with subs := v.subs.ins sub us } })) ∧
  ∀ (s : State) owner off sub ow win sm, s.teams.fetch owner = some ow → ow.windows.fetch off = some win → s.teams.fetch sub = some sm → owner ≠ sub →
    (∃ r ∈ sm.replicas, r.owner = owner ∧ r.offset = off ∧ r.installed = false) →
    ∃ t sm', exec (.replicaInstall sub owner off) s = .next t ∧ t = { s with teams := t.teams } ∧ t.teams.fetch sub = some sm' ∧ sm'.mem = sm.mem ∧
      (∀ k, k ≠ sub → k ≠ owner → t.teams.fetch k = s.teams.fetch k) ∧
      ∀ r ∈ sm'.replicas, r.owner = owner → r.offset = off → r.installed = true ∧ r.seq = win.seq ∧ ∀ i < 128, FMap.at' 0 r.bytes (off + i) = FMap.at' 0 ow.mem (off + i)

/-- Coherence windows: opening, subscribing, closing, and the updates on their way (log 45, 46). The statement is the conjunction of its parts, each described at its definition. -/
def Obligations.Windows : Prop := Sys2Proof.Claim.WindowForms ∧ Sys2Proof.Claim.WindowUpdates

/-! ### Core barriers -/

/-- R274: an arrival and the check that ends a phase. -/
def arrived (e : Bar) (n : W32) : Bar :=
  let a := { e with tx := e.tx + n, arr := min (e.arr + 1) 65535 }
  if a.expect ≤ a.arr ∧ a.tx = 0 then { a with ph := a.ph + 1, arr := 0 } else a

/-- R274: the phase that a wave waits for has begun. -/
def passed (w : Wave) (b : Nat) (e : Bar) : Prop := (e.ph - FMap.at' 0 w.wt b).toNat < 2 ^ 31

/-- The wave's pair joins the team's (R116). -/
def joined (t : Team) (w : Wave) : Team :=
  let g := t.tsig ||| w.sigacc
  if sigFull g then { t with tsig := 0, tsigfl := 1 } else { t with tsig := g, tsigfl := min t.tsigfl w.sigfl }

/-- A split that waits (R274, R279, R282). -/
def waiting (x : Ctx) (w : Wave) (why : Stall) (i : Instr) : Wave :=
  w.withEx { x.w.ex with splits := x.w.ex.splits.ins x.entry { x.sp with stall := why, form := some i, born := x.since } }

/-- R273, R274, R276: `bar.arr`, performed once after its release's wait, arrives: TX and ARR rise, the phase ends when all have come and TX is 0, WT names the next phase, and the wave's pair joins the team's. `bar.wait` goes on, with the team's pair, when its phase has begun, and waits
otherwise; `bar.sync` does both, one after the other, with FCM at its lowest active lane while it waits and clear at every lane of the split once it goes on. A number beyond the team's entries is ILLOP. BAR_PHASE_COMPLETE lets the one split that waits at a barrier go on when its phase has begun. -/
def Sys2Proof.Claim.CoreBarriers : Prop :=
  let clear := fun (x : Ctx) (w : Wave) => { w with fcm := w.fcm &&& ~~~x.sp.mask, synced := w.synced.dropKeys fun l => bit x.sp.mask l }
  (∀ i f, (i = .barArr f ∨ i = .barWait f ∨ i = .barSync f) → ∀ s x tm, Issues i s x → x.tm = some tm → tm.nbar ≤ x.f.imm8.toNat →
    exec i s = .next (s.raise x { code := .illop })) ∧
  (∀ f s x tm l e, Issues (.barArr f) s x → x.tm = some tm → x.f.imm8.toNat < tm.nbar → x.performs = [l] → tm.bars.fetch x.f.imm8.toNat = some e →
    s.relDrain x.key 1 = s → x.w.deadStore = none → s.awaits x = none →
    let b := x.f.imm8.toNat
    exec (.barArr f) s = .next { s.withWave x ({ x.w with wt := x.w.wt.ins b (e.ph + 1) }.withEx (x.exAt x.next)) with
      teams := s.teams.ins x.w.team { joined tm x.w with bars := tm.bars.ins b (arrived e ((x.src false false x.f.a 0).truncate 32)) } }) ∧
  (∀ f s x tm e, Issues (.barWait f) s x → x.tm = some tm → x.f.imm8.toNat < tm.nbar → tm.bars.fetch x.f.imm8.toNat = some e →
    (passed x.w x.f.imm8.toNat e → exec (.barWait f) s = .next (s.withWave x ((acquired tm true x.w).withEx (x.exAt x.next)))) ∧
    (¬passed x.w x.f.imm8.toNat e → exec (.barWait f) s = .next (s.withWave x (waiting x x.w (.bar x.f.imm8.toNat) (.barWait f))))) ∧
  (∀ f s x tm l e, Issues (.barSync f) s x → x.tm = some tm → x.f.imm8.toNat < tm.nbar → x.performs = [l] → tm.bars.fetch x.f.imm8.toNat = some e →
    s.relDrain x.key 1 = s → x.w.deadStore = none → s.awaits x = none → x.w.fcm &&& x.sp.mask = 0 →
    let b := x.f.imm8.toNat
    let e' := arrived e ((x.src false false x.f.a 0).truncate 32)
    let tm' := { joined tm x.w with bars := tm.bars.ins b e' }
    let w := { x.w with wt := x.w.wt.ins b (e.ph + 1) }
    (passed w b e' → exec (.barSync f) s = .next { s.withWave x ((clear x (acquired tm' true w)).withEx (x.exAt x.next)) with teams := s.teams.ins x.w.team tm' }) ∧
    (¬passed w b e' → exec (.barSync f) s = .next { s.withWave x (waiting x { w with fcm := x.w.fcm ||| laneBit (lowLane x.act), synced := x.w.synced.ins (lowLane x.act) x.act } (.bar b) (.barSync f)) with
      teams := s.teams.ins x.w.team tm' })) ∧
  (∀ f s x tm e, Issues (.barSync f) s x → x.tm = some tm → x.f.imm8.toNat < tm.nbar → tm.bars.fetch x.f.imm8.toNat = some e →
    x.w.fcm &&& x.sp.mask ≠ 0 → x.toArrive = [] → passed x.w x.f.imm8.toNat e →
    exec (.barSync f) s = .next (s.withWave x ((clear x (acquired tm true x.w)).withEx (x.exAt x.next)))) ∧
  ∀ (s : State) team b wk w e sp f p tm bar, s.wavesOf team = [(wk, w)] → s.waves.fetch wk = some w → w.team = team → s.teams.fetch team = some tm → tm.bars.fetch b = some bar → w.halted = false →
    w.ex.splits = [(e, sp)] → e < 4 → sp.stall = .bar b → sp.form = some (.barWait f) → Forms.spec (.barWait f) = some (p, f) → passed w b bar →
    exec (.barPhaseComplete team b) s = .next { s with waves := s.waves.ins wk ((acquired tm true w).withEx { w.ex with
      splits := [(e, { sp with pc := sp.pc + (if f.x then 16 else 8), stall := .none, form := none, born := 0, ask := none })] }) }

/-! ### Team-register atomics -/

/-- The performances of a team-register form, one after another: the team at the end, and the old value that each finds (R51, R280, R281). -/
def tSeq (cc n : Nat) (op : Nat → W64 → Option W64) : List Nat → Team → Team × List (Nat × W64)
  | [], t => (t, [])
  | l :: ls, t =>
    let o := FMap.at' 0 t.t n
    let r := tSeq cc n op ls (match op l o with | some v => t.setT cc n v | none => t)
    (r.1, (l, o) :: r.2)

/-- R80, R81, R280, R281: a team-register atomic reads the register as the last write left it and writes the new value, once for each lane when a source is varying, else as often as a single operation is performed; the destination takes the old value. Nothing else changes. -/
def Sys2Proof.Claim.TeamRegisterAtomics : Prop :=
  let a := fun (o : F → Src) (x : Ctx) (l : Nat) => match (o x.f).file with
    | .v => ((x.src false false (o x.f) l).truncate 32 : W32).signExtend 64 | _ => x.src false false (o x.f) l
  let Law := fun (i : Instr) (op : Ctx → Nat → W64 → Option W64) => ∀ s x tm, Issues i s x → x.tm = some tm →
    let n := bits x.f.imm8 0 4
    let each := x.f.a.file = .v ∨ x.f.c.file = .v
    tm.tpois.fetch n = none →
    let r := tSeq s.cc n (op x) (if each then lanesOf x.act else x.performs) tm
    let old := fun l => ((r.2.find? fun p => p.1 == if each ∨ x.w.ex.conv = false then l else lowLane x.act).map Prod.snd).getD 0
    let done := fun (w : Wave) U => exec i s = .next { s.withWave x (w.withEx (x.exAt x.next)) with teams := U }
    ∃ U, (∀ k, FMap.fetch U k = if k = x.w.team then some r.1 else s.teams.fetch k) ∧
      (x.f.d.file = .none → done x.w U) ∧
      (x.f.d.file = .s → x.act ≠ 0 → ∃ v vp, WroteS x x.f.d.num.toNat (old (lowLane x.act)) v vp ∧ done (x.w.withS v vp) U) ∧
      (x.f.d.file = .v → x.act ≠ 0 → ∃ v vp, WroteV x x.f.d.num.toNat false x.act old v vp ∧ done (x.w.withV v vp) U)
  ∀ f, Law (.tadd f) (fun x l o => some (o + a F.a x l)) ∧
    Law (.tmin f) (fun x l o => some (if o.toInt ≤ (a F.a x l).toInt then o else a F.a x l)) ∧
    Law (.tmax f) (fun x l o => some (if o.toInt ≤ (a F.a x l).toInt then a F.a x l else o)) ∧
    Law (.tand f) (fun x l o => some (o &&& a F.a x l)) ∧ Law (.tor f) (fun x l o => some (o ||| a F.a x l)) ∧
    Law (.txchg f) (fun x l _ => some (a F.a x l)) ∧ Law (.tcas f) fun x l o => if o = a F.c x l then some (a F.a x l) else none

/-- Core barriers and atomics on team registers. The statement is the conjunction of its parts, each described at its definition. -/
def Obligations.CoreBarriersAndTeamAtomics : Prop := Sys2Proof.Claim.CoreBarriers ∧ Sys2Proof.Claim.TeamRegisterAtomics

/-! ### Join barriers, address waits and rings -/

/-- A form's operand names a record of 64 bytes in the global space, at a line of this device that it can read; u is the state with the translation cached, the buffer entries drained that hold bytes of it, and the core's L1 copy of its line gone. -/
def RecordAt (s : State) (x : Ctx) (kind : Kind) (u : State) (k : Nat) : Prop :=
  let va := x.src false false x.f.a 0
  va.toNat % 64 = 0 ∧ rowOf va = .global ∧ k + 64 ≤ 2 ^ 52 ∧ ∃ bs, s.readPoint x kind va 64 = (u, k, .bytes bs)

/-- What an acquire leaves of the wave and of the cores (R117, R251): nothing at scope 0, the team's pair at scope 1; above, the given pair joins SIGACC and SIGFL and the L1 lines of the core that hit the signature go. -/
def AcquiredAt (u : State) (x : Ctx) (sc : Nat) (q : Sig × Nat) (w w' : Wave) (C : FMap Core) : Prop :=
  (sc = 0 → C = u.cores ∧ w' = w) ∧
  (sc = 1 → C = u.cores ∧ w' = match u.teams.fetch w.team with | some t => acquired t true w | none => w) ∧
  (2 ≤ sc → w' = { w with sigacc := w.sigacc ||| q.1, sigfl := min w.sigfl q.2 } ∧
    let t := { u with cores := C }
    (∀ g, g ≠ x.core → t.core g = u.core g) ∧ t.core x.core = { u.core x.core with l1 := (t.core x.core).l1 } ∧
    ∀ p, (t.core x.core).l1.fetch p = if q.1 ≠ 0 ∧ sigHits q.1 (u.lineKey (lineOf p)) then none else (u.core x.core).l1.fetch p)

/-- A 64-bit result of a form performed once: nowhere, in the s register, or in the pair at every active lane. -/
def PairOut (x : Ctx) (n : Nat) (w w' : Wave) : Prop :=
  match x.f.d.file with
  | .none => w' = w
  | .s => ∃ r rp, WroteS x x.f.d.num.toNat (BitVec.ofNat 64 n) r rp ∧ w' = w.withS r rp
  | _ => ∃ v vp, WroteV x x.f.d.num.toNat true x.act (fun _ => BitVec.ofNat 64 n) v vp ∧ w' = w.withV v vp

/-- What the home holds changes in the given fields (offset, bytes, value) of the record at k, and nowhere else. -/
def FieldsSet (s t : State) (k : Nat) (fs : List (Nat × Nat × Nat)) : Prop :=
  (∀ f ∈ fs, t.homeNat (k + f.1) f.2.1 = f.2.2) ∧
  ∀ p, (∀ f ∈ fs, p < k + f.1 ∨ k + f.1 + f.2.1 ≤ p) → t.homeByte p = s.homeByte p

/-- R277, R278: the home step of an arrival. -/
def Arrival (s t : State) (k : Nat) (p : Bool) : Prop :=
  let F := fun off n => s.homeNat (k + off) n
  let arr := min (F 4 4 + 1) 0xFFFFFFFF
  let poison := F 8 8 ||| (if p then 2 ^ (F 4 4 % 64) else 0)
  if F 0x10 4 % 4 ≠ 0 ∨ F 0x18 40 ≠ 0 then FieldsSet s t k [(0x10, 4, F 0x10 4 ||| 4)]
  else FieldsSet s t k [(4, 4, arr), (8, 8, poison), (0x14, 4, if p then min (F 0x14 4 + 1) 0xFFFFFFFF else F 0x14 4),
    (0x10, 4, F 0x10 4 + if arr = F 0 4 then (if poison = 0 then 1 else 2) else 0)]

/-- A release at a line of this device may be performed: z is the state after its wait and its flush, and w the wave then (R116). -/
def ReleasedAt (v : State) (x : Ctx) (sc : Nat) (z : State) (w : Wave) : Prop :=
  ∃ u w0, Waited v x sc u w0 ∧ z = (if 2 ≤ sc then u.relFlush x.key sc else u) ∧ z.waves.fetch x.key = some w

/-- The wave with a line of this device in its signature, at the next instruction. -/
def movedWith (s : State) (x : Ctx) (k : Nat) (w : Wave) : Wave := { w with sigacc := sigInsert w.sigacc (s.lineKey (lineOf k)) }.withEx (x.exAt x.next)

/-- R277 to R279: a join barrier off its alignment raises MISALIGN and one outside the global space PROT. `jarr`, performed once after its release's wait and flush, makes the home step of the barrier: LATE alone when it is complete or malformed, else ARRIVED, POISON and PCOUNT, and STATUS
when the last party has come. `jwait` goes on with POISON and an acquire when STATUS[1:0] is not 0, and waits otherwise; WAIT_REREAD lets a waiting split look again, as its form did. -/
def Sys2Proof.Claim.JoinBarriers : Prop :=
  (∀ i f, (i = .jarr f ∨ i = .jwait f ∨ i = .qres f ∨ i = .qpub f ∨ i = .qtake f) → ∀ s x, Issues i s x →
    let va := x.src false false x.f.a 0
    let kind := match i with | .jwait _ => Kind.load | _ => .atomic
    (va.toNat % 64 ≠ 0 → exec i s = .next (s.raise x { code := .misalign, addr := va, kind := kind })) ∧
    (va.toNat % 64 = 0 → rowOf va ≠ .global → exec i s = .next (s.raise x { code := .prot, addr := va, kind := kind }))) ∧
  (∀ f s x l u k z w, Issues (.jarr f) s x → x.performs = [l] → 1 ≤ f.sc.toNat → RecordAt s x .atomic u k →
    ReleasedAt u x f.sc.toNat z w →
    ∃ t, exec (.jarr f) s = .next t ∧ Arrival z t k (x.src false false x.f.b 0 != 0) ∧ t.waves.fetch x.key = some (movedWith z x k w) ∧
      t = { z with waves := t.waves, l2d := t.l2d, dirCopy := t.dirCopy, dram := t.dram, peerCopy := t.peerCopy, free := t.free, watch := t.watch, dies := t.dies, cores := t.cores, lfl := t.lfl, teams := t.teams } ∧
      ∀ j, j ≠ x.key → t.waves.fetch j = z.waves.fetch j) ∧
  (∀ f s x u k w, Issues (.jwait f) s x → RecordAt s x .load u k → u.waves.fetch x.key = some w →
    (u.homeNat (k + 0x10) 4 % 4 = 0 → exec (.jwait f) s = .next (u.withWave x (waiting x w (.word none) (.jwait f)))) ∧
    (u.homeNat (k + 0x10) 4 % 4 ≠ 0 → ∃ C w1 w2, AcquiredAt u x f.sc.toNat (u.slotAcquire (lineOf k)) w w1 C ∧ PairOut x (u.homeNat (k + 8) 8) w1 w2 ∧
      exec (.jwait f) s = .next (({ u with cores := C } : State).withWave x (w2.withEx (x.exAt x.next))))) ∧
  ∀ i, (∃ f, i = .jwait f ∨ ∃ o, i = .awaitEq o f ∨ i = .awaitNe o f) → ∀ s x m, Issues i s x → x.sp.stall = .word m → x.sp.form = some i → x.w.halted = false →
    (match i with
      | .jwait _ => (x.src false false x.f.a 0).toNat % 64 = 0 ∧ rowOf (x.src false false x.f.a 0) = .global
      | _ => (x.addr 0).toNat % 4 = 0) →
    ∃ t, exec (.waitReread ⟨x.core, x.slot⟩ x.entry) s = .next t ∧ exec i s = .next t

/-- R282, R131: an address wait compares the 32 bits at its address, read at the home of a global address, in the team's own memory, or in the team's replica of a window, never in an L1 copy, and goes on when they are equal (`eq`) or different (`ne`), with an acquire under `.acq`;
otherwise it waits, and has no other effect. An address that is no multiple of 4 raises MISALIGN. -/
def Sys2Proof.Claim.AddressWaits : Prop :=
  ∀ i o f eq, (i = .awaitEq o f ∧ eq = true) ∨ (i = .awaitNe o f ∧ eq = false) → ∀ s x, Issues i s x →
    let va := x.addr 0
    let b : W32 := (x.src true false x.f.b 0).truncate 32
    let sc := if o = .acq then f.sc.toNat else 0
    let Looks := fun (u : State) (v : W32) (n : Nat) (q : Sig × Nat) (w : Wave) =>
      ((v == b) = eq → ∃ C w', AcquiredAt u x n q w w' C ∧ exec i s = .next (({ u with cores := C } : State).withWave x (w'.withEx (x.exAt x.next)))) ∧
      ((v == b) ≠ eq → exec i s = .next (u.withWave x (waiting x w (.word none) i)))
    (va.toNat % 4 ≠ 0 → exec i s = .next (s.raise x { code := .misalign, addr := va, kind := .load })) ∧
    (va.toNat % 4 = 0 →
      (∀ u k bs w, rowOf va = .global → s.readPoint x .load va 4 = (u, k, .bytes bs) → k + 4 ≤ 2 ^ 52 → u.waves.fetch x.key = some w →
        Looks u (BitVec.ofNat 32 (u.homeNat k 4)) sc (u.slotAcquire (lineOf k)) w) ∧
      (∀ tm n, x.tm = some tm → x.teamOff va 4 = some n →
        Looks s (BitVec.ofNat 32 (ofBytes ((List.range 4).map fun j => FMap.at' 0 tm.mem (n + j)))) (min sc 1) (0, 6) x.w) ∧
      ∀ tm own off r, x.tm = some tm → rowOf va = .window → s.windowAt x false va = some (own, off) →
        (∀ ow win us, s.teams.fetch own = some ow → ow.windows.fetch off = some win → win.subs.fetch x.w.team = some us → ∀ u ∈ us, wkey u.core u.slot ≠ x.key) →
        (tm.replicas.find? fun r => r.owner == own && r.offset == off) = some r → r.installed = true →
        Looks s (BitVec.ofNat 32 (ofBytes ((List.range 4).map fun j => FMap.at' 0 r.bytes (winOff va + j)))) sc (r.pair.getD (0, 6)) x.w)

/-- R51, R283, R284: the ring forms, performed once. `qres` takes the next index when fewer than 2^LOG2N are in use and fewer than 64 are unpublished; `qpub`, after its release, publishes a reserved index that was not published, and moves PUBL past the published prefix, or else sets ERR[0]; `qtake`
takes the next published index, and acquires either way. A return of all ones says that there is none; a malformed descriptor sets ERR[1] and nothing else. No other byte of memory changes. -/
def Sys2Proof.Claim.Rings : Prop :=
  let F := fun (s : State) k off n => s.homeNat (k + off) n
  let bad := fun s k => F s k 8 1 = 0 ∨ 16 < F s k 8 1 ∨ F s k 9 7 ≠ 0 ∨ F s k 0x34 12 ≠ 0
  let none' := 2 ^ 64 - 1
  (∀ f s x l u k w, Issues (.qres f) s x → x.performs = [l] → x.f.d.file ≠ .none → RecordAt s x .atomic u k → u.waves.fetch x.key = some w →
    let resv := F u k 0x10 8
    let fits := (BitVec.ofNat 64 resv - BitVec.ofNat 64 (F u k 0x20 8)).toNat < 2 ^ F u k 8 1 ∧ (BitVec.ofNat 64 resv - BitVec.ofNat 64 (F u k 0x18 8)).toNat < 64
    ∃ t w', exec (.qres f) s = .next t ∧ t = { u.withWave x (movedWith u x k w') with l2d := t.l2d, dirCopy := t.dirCopy, dram := t.dram, peerCopy := t.peerCopy, free := t.free, watch := t.watch } ∧
      (bad u k → PairOut x none' w w' ∧ FieldsSet u t k [(0x30, 4, F u k 0x30 4 ||| 2)]) ∧
      (¬bad u k → ¬fits → PairOut x none' w w' ∧ FieldsSet u t k []) ∧
      (¬bad u k → fits → PairOut x resv w w' ∧ FieldsSet u t k [(0x10, 8, (resv + 1) % 2 ^ 64)])) ∧
  (∀ f s x l u k z w, Issues (.qpub f) s x → x.performs = [l] → RecordAt s x .atomic u k → ReleasedAt u x 4 z w →
    let i := (x.src false true x.f.b (lowLane x.act)).toNat
    let publ := F z k 0x18 8
    let pwin : W64 := BitVec.ofNat 64 (F z k 0x28 8)
    let new := pwin ||| BitVec.ofNat 64 (2 ^ (i - publ))
    let run := ((List.range 64).takeWhile fun j => bit new j).length
    let fits := publ ≤ i ∧ i < F z k 0x10 8 ∧ i - publ < 64 ∧ bit pwin (i - publ) = false
    ∃ t, exec (.qpub f) s = .next t ∧ t.waves.fetch x.key = some (movedWith z x k w) ∧
      t = { z with waves := t.waves, l2d := t.l2d, dirCopy := t.dirCopy, dram := t.dram, peerCopy := t.peerCopy, free := t.free, watch := t.watch, dies := t.dies, cores := t.cores, lfl := t.lfl } ∧
      (bad z k → FieldsSet z t k [(0x30, 4, F z k 0x30 4 ||| 2)]) ∧
      (¬bad z k → ¬fits → FieldsSet z t k [(0x30, 4, F z k 0x30 4 ||| 1)]) ∧
      (¬bad z k → fits → FieldsSet z t k [(0x18, 8, (publ + run) % 2 ^ 64), (0x28, 8, (new >>> run).toNat)])) ∧
  ∀ f s x l u k w, Issues (.qtake f) s x → x.performs = [l] → x.f.d.file ≠ .none → RecordAt s x .atomic u k → u.waves.fetch x.key = some w →
    let take := F u k 0x20 8
    ∃ t C w1 w2, exec (.qtake f) s = .next t ∧ AcquiredAt u x 4 (u.slotAcquire (lineOf k)) w w1 C ∧
      t = { u.withWave x (movedWith u x k w2) with cores := C, l2d := t.l2d, dirCopy := t.dirCopy, dram := t.dram, peerCopy := t.peerCopy, free := t.free, watch := t.watch } ∧
      (bad u k → PairOut x none' w1 w2 ∧ FieldsSet u t k [(0x30, 4, F u k 0x30 4 ||| 2)]) ∧
      (¬bad u k → ¬take < F u k 0x18 8 → PairOut x none' w1 w2 ∧ FieldsSet u t k []) ∧
      (¬bad u k → take < F u k 0x18 8 → PairOut x take w1 w2 ∧ FieldsSet u t k [(0x20, 8, take + 1)])

/-- Join barriers, address waits and rings. The statement is the conjunction of its parts, each described at its definition. -/
def Obligations.BarriersInMemory : Prop := Sys2Proof.Claim.JoinBarriers ∧ Sys2Proof.Claim.AddressWaits ∧ Sys2Proof.Claim.Rings

/-! ### Engine forms and copies -/

/-- A field of a descriptor that a unit has written for the form (R288). -/
def wrote (s : State) (x : Ctx) (va : W64) (n v : Nat) : State := s.putField x va (toBytes n v)

/-- R297: a copy descriptor with a field that status 1 rejects. -/
def badCopy (bs : List W8) : Prop :=
  let f := field bs
  f 0 8 % 256 ≠ 0 ∨ f 8 8 % 256 ≠ 0 ∨ 8 ≤ f 0x10 1 ∨ f 0x10 1 % 4 = 3 ∨ 4 ≤ f 0x11 1 ∨ f 0x12 1 < 3 ∨ 6 < f 0x12 1 ∨ (64 ≤ f 0x13 1 ∧ f 0x13 1 ≠ 255) ∨
  4 ≤ f 0x15 1 ∨ (f 0x10 1 % 4 = 2 ∧ (f 8 8 ≠ 0 ∨ 1024 ≤ f 0x16 2 ∨ 11 < f 0x16 2 % 16 ∨ 65536 ≤ f 0x18 4)) ∨ f 0x20 8 % 64 ≠ 0 ∨ zeros bs 0x28 24 = false

/-- R51, R288, R296 to R299, R301: the copy forms of a converged wave. A template or queue of another grid, a queue that is not bound and a template that is not armed raise PROT; a descriptor off its alignment raises MISALIGN, before that (where another grid's template is checked, and the statuses' ascending order: log entry 51). `cparm` and `cpbook` write the first status that applies, and do nothing else,
or 0 with the template armed (signature 0, floor 6) or its codebook loaded. `cpbind` binds the queue, whose tokens stay. `cpfire` puts a token with the wave's value, signature and floor last on its queue, after its release, and waits while 256 tokens stand there. `cpdisarm` frees the template with its codebook
and bindings once no firing is under way, after its tokens (mode 0) or without them (mode 1); a template that is not armed makes it do nothing. -/
def Sys2Proof.Claim.CopyForms : Prop :=
  let nobody := fun (s : State) (x : Ctx) t => (s.die x.die).foreignTpl t x.grid = false
  let unarmed := fun (s : State) (x : Ctx) t => ∀ p, (s.die x.die).tpls.fetch t = some p → p.armed = false
  let book := fun (s : State) (x : Ctx) t => ((s.die x.die).tpls.fetch t).bind Tpl.book
  -- what a unit writes in a descriptor
  (∀ (s : State) (x : Ctx) va bs k, bs ≠ [] → va.toNat % 65536 + bs.length ≤ 65536 → k + bs.length ≤ 2 ^ 52 →
    (s.translate x.die (some x.core) x.w.tag x.w.supervisor .desc va).2 = .ok k → let t := s.putField x va bs
    ∀ p, t.homeByte p = if k ≤ p ∧ p < k + bs.length then bs.getD (p - k) 0 else s.homeByte p) ∧
  (∀ i f, (i = .cparm f ∨ i = .cpbook f ∨ i = .cpbind f ∨ i = .cpdisarm f) → ∀ s x p, Issues i s x → x.conv = true →
    (s.die x.die).tpls.fetch (match i with | .cparm _ | .cpbook _ => x.num x.f.b 8 | _ => x.num x.f.a 8) = some p → p.armed = true → p.grid ≠ x.grid →
    ((i = .cparm f ∨ i = .cpbook f) → (x.w.sreg x.f.a.num.toNat).toNat % 64 = 0) → exec i s = .next (s.raise x { code := .prot })) ∧
  (∀ i f, (i = .cparm f ∨ i = .cpbook f) → ∀ s x, Issues i s x → x.conv = true →
    let va := x.w.sreg x.f.a.num.toNat
    va.toNat % 64 ≠ 0 → exec i s = .next (s.raise x { code := .misalign, addr := va, kind := .desc })) ∧
  -- cparm
  (∀ f s x u bs, Issues (.cparm f) s x → x.conv = true → nobody s x (x.num x.f.b 8) →
    let va := x.w.sreg x.f.a.num.toNat
    let tpl := x.num x.f.b 8
    va.toNat % 64 = 0 → s.readDesc x .desc va 64 = (u, .bytes bs) →
    let ends := fun (u : State) n => exec (.cparm f) s = .next ((wrote u x (va + 0x1C) 4 n).advance x)
    let kind := field bs 0x10 1 % 4
    let cb := 4 ≤ field bs 0x10 1
    let se := field bs 0x11 1
    (badCopy bs → ends u 1) ∧
    (¬badCopy bs → ¬unarmed u x tpl → ends u 2) ∧
    ∀ v sb w db, ¬badCopy bs → unarmed u x tpl → u.readDesc x .desc (BitVec.ofNat 64 (field bs 0 8)) 256 = (v, .bytes sb) →
      (if kind = 2 then w = v ∧ db = [] else v.readDesc x .desc (BitVec.ofNat 64 (field bs 8 8)) 256 = (w, .bytes db)) →
      let de := if cb then ((book u x tpl).map Book.ewl).getD se else se
      let shaped := patShape sb se = true ∧ (kind ≠ 2 → patShape db de = true ∧ (patOf sb se).total = (patOf db de).total)
      let barred := kind = 1 ∧ field bs 0x14 1 ≠ 255 ∧ (x.tm.map Team.nbar).getD 0 ≤ field bs 0x14 1
      let unbooked := cb ∧ (book u x tpl = none ∨ 1 < se)
      (¬shaped → ends w 3) ∧ (shaped → barred → ends w 4) ∧ (shaped → ¬barred → unbooked → ends w 5) ∧
      (shaped → ¬barred → ¬unbooked → ∃ p : Tpl, ends (w.updDie x.die fun d => { d with tpls := d.tpls.ins tpl p }) 0 ∧
        p.armed = true ∧ p.grid = x.grid ∧ p.team = x.w.team ∧ p.tag = x.w.tag ∧ p.src = patOf sb se ∧ p.dst = patOf db de ∧ p.kind = kind ∧ (p.cb = true ↔ cb) ∧
        p.esize = se ∧ p.scope = field bs 0x12 1 ∧ p.cq = (if field bs 0x13 1 = 255 then none else some (field bs 0x13 1)) ∧
        p.bar = (if kind = 1 ∧ field bs 0x14 1 ≠ 255 then some (field bs 0x14 1) else none) ∧ p.tok = field bs 0x15 1 ∧ p.stack = field bs 0x16 2 % 16 ∧
        (kind = 2 → p.port = field bs 0x16 2 / 16 ∧ p.chan.toNat = field bs 0x18 4) ∧ p.join.toNat = field bs 0x20 8 ∧ p.sig = 0 ∧ p.floor = 6 ∧
        p.book = book u x tpl ∧ p.firing = none)) ∧
  -- cpbook
  (∀ f s x u bs, Issues (.cpbook f) s x → x.conv = true → nobody s x (x.num x.f.b 8) →
    let va := x.w.sreg x.f.a.num.toNat
    let tpl := x.num x.f.b 8
    va.toNat % 64 = 0 → s.readDesc x .desc va 64 = (u, .bytes bs) →
    let ends := fun (u : State) n => exec (.cpbook f) s = .next ((wrote u x (va + 0x3C) 4 n).advance x)
    let nent := field bs 0 4
    let ewl := field bs 4 1
    let bad := nent = 0 ∨ 65536 < nent ∨ ewl < 2 ∨ 8 < ewl ∨ 65536 < nent * 2 ^ ewl ∨ zeros bs 5 0x37 = false
    let full := 262144 < (u.die x.die).bookBytes tpl + nent * 2 ^ ewl
    (bad → ends u 1) ∧ (¬bad → ¬unarmed u x tpl → ends u 2) ∧ (¬bad → unarmed u x tpl → full → ends u 3) ∧
    ∀ v es, ¬bad → unarmed u x tpl → ¬full → u.readDesc x .desc (va + 0x40) (nent * 2 ^ ewl) = (v, .bytes es) →
      ∃ (p : Tpl) (b : Book), ends (v.updDie x.die fun d => { d with tpls := d.tpls.ins tpl p }) 0 ∧ p.book = some b ∧ b.nent = nent ∧ b.ewl = ewl ∧ p.armed = false ∧
        ∀ j < nent * 2 ^ ewl, FMap.at' 0 b.data j = es.getD j 0) ∧
  -- cpbind
  (∀ f s x, Issues (.cpbind f) s x → x.conv = true → let d := s.die x.die
    let tpl := x.num x.f.a 8
    let q := x.num x.f.b 6
    ((unarmed s x tpl ∨ d.foreignQueue q x.grid = true) → exec (.cpbind f) s = .next (s.raise x { code := .prot })) ∧
    (¬unarmed s x tpl → nobody s x tpl → d.foreignQueue q x.grid = false → ∃ Q : FMap Queue,
      exec (.cpbind f) s = .next ((s.setDie x.die { d with queues := Q }).advance x) ∧ (∀ j, j ≠ q → Q.fetch j = d.queues.fetch j) ∧
      Q.fetch q = some { bound := some tpl, grid := x.grid, tokens := ((d.queues.fetch q).map Queue.tokens).getD [] })) ∧
  -- cpfire
  (∀ f s x, Issues (.cpfire f) s x → x.conv = true → let d := s.die x.die
    let q := x.num x.f.b 6
    ((∀ u, d.queues.fetch q = some u → u.bound = none) → exec (.cpfire f) s = .next (s.raise x { code := .prot })) ∧
    ∀ u tpl p, d.queues.fetch q = some u → u.bound = some tpl → d.tpls.fetch tpl = some p →
      (u.grid ≠ x.grid → exec (.cpfire f) s = .next (s.raise x { code := .prot })) ∧
      (u.grid = x.grid → 256 ≤ u.tokens.length → exec (.cpfire f) s = .next (s.withWave x (waiting x x.w (.queue q) (.cpfire f)))) ∧
      ∀ v w0 z w, u.grid = x.grid → u.tokens.length < 256 → Waited s x p.scope v w0 → z = v.relFlush x.key p.scope → z.waves.fetch x.key = some w →
        exec (.cpfire f) s = .next ((z.setDie x.die { z.die x.die with
          queues := (z.die x.die).queues.ins q { u with tokens := u.tokens ++ [⟨x.w.sreg x.f.a.num.toNat, w.sigacc, w.sigfl, s.cc⟩] } }).advance x)) ∧
  -- cpdisarm
  ∀ f s x, Issues (.cpdisarm f) s x → x.conv = true → let d := s.die x.die
    let tpl := x.num x.f.a 8
    let keep := x.num x.f.b 1 = 0
    let left := ∃ q ∈ d.queues, q.2.bound = some tpl ∧ q.2.tokens ≠ []
    (unarmed s x tpl → exec (.cpdisarm f) s = .next (s.advance x)) ∧
    ∀ p, d.tpls.fetch tpl = some p → p.armed = true → p.grid = x.grid →
      let cleared : Die := if keep then d else { d with queues := d.queues.map fun q => (q.1, if q.2.bound = some tpl then { q.2 with tokens := [] } else q.2) }
      (p.firing = none → (keep → ¬left) → ∃ t : State, exec (.cpdisarm f) s = .next (t.advance x) ∧ t = { s with dies := t.dies } ∧
        (∀ j, j ≠ x.die → t.die j = s.die j) ∧ (t.die x.die).tpls = d.tpls.del tpl ∧
        (t.die x.die).queues = cleared.queues.filter (fun q => q.2.bound ≠ some tpl)) ∧
      ((p.firing ≠ none ∨ (keep ∧ left)) → ∃ t : State, exec (.cpdisarm f) s = .next (t.withWave x (waiting x x.w (.disarm tpl keep) (.cpdisarm f))) ∧
        t = { s with dies := t.dies } ∧ t.die x.die = cleared)

/-- R121, R296, R300 to R302: COPY_FIRE on an idle template takes the token that came first (of one cc, that of the lowest queue), whose signature joins the template's; on a firing it walks the next element (stated for one within a page): with the bases moved by the token's value as TOK says and the element taken from the codebook under CB (an index beyond it writes nothing and poisons the completion), KIND 0 stores the element at its home and puts the
line into the signature, KIND 1 writes the team's memory, makes its words full and takes the bytes off the barrier's TX; KIND 2 puts words with the channel tag at the port. COPY_COMPLETE ends a firing whose elements are all walked: the arrival at JOIN, then the token with
its value, and the signature and floor that the arrival's release leaves, on a bound completion queue; the template's signature is 0 and its floor 6 again. (The model's choices here: a copy translates with user rights, log entry 17; one COPY_FIRE walks one element and sets the full bits of its words together, log entries 24 and 51; a full completion queue holds the completion, log entry 51.) -/
def Sys2Proof.Claim.CopyFirings : Prop :=
  (∀ (s : State) die tpl tp q k us, (s.die die).tpls.fetch tpl = some tp → tp.armed = true → tp.firing = none →
    (s.die die).queues.fetch q = some us → us.bound = some tpl → us.tokens.head? = some k → FMap.sorted (s.die die).queues = true →
    (∀ j uj kj, (s.die die).queues.fetch j = some uj → uj.bound = some tpl → uj.tokens.head? = some kj → k.arr < kj.arr ∨ (k.arr = kj.arr ∧ q ≤ j)) →
    exec (.copyFire die tpl) s = .next (s.setDie die { s.die die with
      queues := (s.die die).queues.ins q { us with tokens := us.tokens.tail }
      tpls := (s.die die).tpls.ins tpl { tp with sig := tp.sig ||| k.sig, floor := min tp.floor k.floor, firing := some ⟨k, 0, false, false, 0, false⟩ } })) ∧
  (∀ (s : State) die tpl tp fi, (s.die die).tpls.fetch tpl = some tp → tp.armed = true → tp.firing = some fi → fi.waiting = false → fi.walked = false → tp.esize ≤ 3 →
    let n := 2 ^ tp.esize
    let sv := tp.src.addr fi.pos + if nbit tp.tok 0 then fi.tok.val else 0
    let dv := tp.dst.addr fi.pos + if nbit tp.tok 1 then fi.tok.val else 0
    let within := fun (a : W64) b => a.toNat % 65536 + b ≤ 65536
    let passed := fun bad : Bool => { fi with pos := fi.pos + 1, walked := fi.pos + 1 == tp.src.total, poisoned := fi.poisoned || bad }
    ∀ k, within sv n → (s.translate die none tp.tag false .load sv).2 = .ok k → k + n ≤ 2 ^ 52 → (∀ i < n, s.reach die (lineOf (k + i)) = .ok) →
      let u := (s.translate die none tp.tag false .load sv).1
      let data := (List.range n).map fun i => s.homeByte (k + i)
      (tp.cb = true → (∀ b, tp.book = some b → b.nent ≤ ofBytes data) →
        ∃ t, exec (.copyFire die tpl) s = .next t ∧ t = { s with dies := t.dies } ∧ (t.die die).tpls.fetch tpl = some { tp with firing := some (passed true) }) ∧
      ∀ out : List W8, (tp.cb = false → out = data) →
        (tp.cb = true → ∃ b, tp.book = some b ∧ ofBytes data < b.nent ∧ out = (List.range (2 ^ b.ewl)).map fun i => FMap.at' 0 b.data (ofBytes data * 2 ^ b.ewl + i)) →
        let m := out.length
        (∀ j, tp.kind = 0 → within dv m → (u.translate die none tp.tag false .store dv).2 = .ok j → j + m ≤ 2 ^ 52 → (∀ i < m, s.isReserved (lineOf (j + i)) = false) →
          ∃ t p, exec (.copyFire die tpl) s = .next t ∧ t = { s with l2d := t.l2d, dram := t.dram, peerCopy := t.peerCopy, dirCopy := t.dirCopy, watch := t.watch, free := t.free, dies := t.dies } ∧
            (∀ a, t.homeByte a = if j ≤ a ∧ a < j + m then out.getD (a - j) 0 else s.homeByte a) ∧
            (t.die die).tpls.fetch tpl = some p ∧ p.firing = some (passed false) ∧ (∀ i < m, sigHits p.sig (s.lineKey (lineOf (j + i))) = true) ∧ p.sig ||| tp.sig = p.sig) ∧
        (∀ tm, tp.kind = 1 → s.teams.fetch tp.team = some tm → rowOf dv = .team → dv.toNat - 0x0100000000000000 + m ≤ tm.teammem →
          let off := dv.toNat - 0x0100000000000000
          let ws := (List.range m).map fun i => (off + i) / 4
          (∀ w ∈ ws, FMap.at' false tm.full w = true ∨ FMap.at' 0 tm.feLast w ≠ s.cc + 1) →
          ∃ t tm', exec (.copyFire die tpl) s = .next t ∧ t = { s with teams := t.teams, dies := t.dies } ∧ t.teams.fetch tp.team = some tm' ∧
            (∀ a, FMap.at' 0 tm'.mem a = if off ≤ a ∧ a < off + m then out.getD (a - off) 0 else FMap.at' 0 tm.mem a) ∧
            (∀ w, FMap.at' false tm'.full w = (FMap.at' false tm.full w || ws.contains w)) ∧
            (∀ b e, tp.bar = some b → tm.bars.fetch b = some e → tm'.bars.fetch b = some (Bar.check { e with tx := e.tx - BitVec.ofNat 32 m })) ∧
            (t.die die).tpls.fetch tpl = some { tp with firing := some (passed false) }) ∧
        (tp.kind = 2 → let words := (List.range ((m + 7) / 8)).map fun i => (tp.chan, BitVec.ofNat 64 (field out (8 * i) 8))
          FMap.at' [] (s.stk tp.stack).inbox tp.port = [] →
          ∃ t, exec (.copyFire die tpl) s = .next t ∧ t = { s with stks := t.stks, dies := t.dies } ∧
            t.stk tp.stack = { s.stk tp.stack with inbox := (s.stk tp.stack).inbox.ins tp.port words } ∧
            (t.die die).tpls.fetch tpl = some { tp with firing := some (passed false) })) ∧
  ∀ (s : State) die tpl tp fi, (s.die die).tpls.fetch tpl = some tp → tp.firing = some fi → fi.walked = true → (tp.grid = 0 ∨ (s.grids.fetch tp.grid).isSome = true) →
    let flushes := sigFull tp.sig = true ∨ tp.floor < tp.scope
    let token : QTok := if tp.join ≠ 0 ∧ flushes then ⟨fi.tok.val, 0, tp.scope, s.cc⟩ else ⟨fi.tok.val, tp.sig, tp.floor, s.cc⟩
    let done := { tp with sig := 0, floor := 6, firing := none }
    (∀ q u, tp.cq = some q → (s.die die).queues.fetch q = some u → u.bound.isSome = true → u.grid = tp.grid → 256 ≤ u.tokens.length → exec (.copyComplete die tpl) s = .next s) ∧
    ((∀ q u, tp.cq = some q → (s.die die).queues.fetch q = some u → u.bound.isSome = true → u.grid = tp.grid → u.tokens.length < 256) →
      let a := if tp.join = 0 then s else s.arrive die 2 tp.tag tp.join tp.scope fi.poisoned tp.sig tp.floor 0 (320 + 4 * die)
      ∃ t, exec (.copyComplete die tpl) s = .next t ∧ t = { a with dies := t.dies } ∧ (t.die die).tpls = (a.die die).tpls.ins tpl done ∧
        ∀ q, (t.die die).queues.fetch q = ((a.die die).queues.fetch q).map fun u =>
          if tp.cq = some q ∧ u.bound.isSome = true ∧ u.grid = tp.grid then { u with tokens := u.tokens ++ [token] } else u)

/-- Copy templates, firings, and their completion (log 17, 24, 51). The statement is the conjunction of its parts, each described at its definition. -/
def Obligations.CopyEngine : Prop := Sys2Proof.Claim.CopyForms ∧ Sys2Proof.Claim.CopyFirings

/-! ### Arrivals, tasks and placement -/

/-- R121, R122, R278, R473: an arrival that the device makes of its own at a barrier of this device whose line is neither poisoned nor reserved makes the home step of R278 with its release in the line's slot, and a retired child's parent counts one child less. One whose
translation fails, or whose line is poisoned, is held on its die with a record of source 9 that carries the fault's code, and HELD_ARRIVAL leaves it there; one that waits for a member without a record is tried again, and is then made. (The device's own arrivals translate with a user's rights in the launcher's tag: log entry 17, PRESUMED; the record's SEQ and its ACC are log entry 47.) -/
def Obligations.DeviceArrivals : Prop :=
  (∀ (s : State) d h k, (s.translate d none h.tag false .store h.join).2 = .ok k → k + 64 ≤ 2 ^ 52 → s.poisoned (lineOf k) = false → s.isReserved (lineOf k) = false →
    let t := s.tryArrival d h
    Arrival s t k h.poison ∧ (∀ tm, h.parent ≠ 0 → s.teams.fetch h.parent = some tm → t.teams.fetch h.parent = some { tm with children := tm.children - 1 }) ∧
    (h.parent = 0 → t.teams = s.teams) ∧ t.waves = s.waves ∧ (t.die d).held = (s.die d).held ∧ (t.die d).arrivals = (s.die d).arrivals) ∧
  (∀ (s : State) d h, let r := (s.translate d none h.tag false .store h.join).2
    let t := s.tryArrival d h
    let Held := fun c : Code => ∃ q e, (t.die d).arrivals = (s.die d).arrivals ++ [q] ∧ q.code = c ∧ q.join = h.join ∧ q.poison = h.poison ∧ q.kind = h.kind ∧
      (t.die d).held = (s.die d).held ++ [e] ∧ e.code = c.num ∧ e.source = 9 ∧ e.replay = true ∧ e.va = h.join ∧ e.tag = h.tag ∧ e.seq = q.seq ∧ (∀ a, t.homeByte a = s.homeByte a)
    (r = .prot → Held .prot) ∧ (∀ e acc, r = .page e acc → Held .page) ∧ ∀ k, r = .ok k → s.poisoned (lineOf k) = true → Held .poison) ∧
  ∀ (s : State) die i h k, (s.die die).arrivals[i]? = some h →
    (h.code ≠ .trap → exec (.heldArrival die i) s = .next s) ∧
    (h.code = .trap → (s.translate die none h.tag false .store h.join).2 = .ok k → k + 64 ≤ 2 ^ 52 → s.poisoned (lineOf k) = false → s.isReserved (lineOf k) = false →
      ∃ t, exec (.heldArrival die i) s = .next t ∧ Arrival s t k h.poison ∧ (t.die die).arrivals = (s.die die).arrivals.erase h)

/-- R303: a task record that `spawn` rejects. -/
def badTask (bs : List W8) : Prop :=
  let f := field bs
  f 0 8 % 256 ≠ 0 ∨ f 8 8 = 0 ∨ f 8 8 % 64 ≠ 0 ∨ f 0x10 1 = 0 ∨ 6 < f 0x10 1 ∨ zeros bs 0x11 7 = false

/-- R304, R305: a task goes on top of a core's hand, whose bottom entry moves to the kitty when 256 stand there, and its team has one child more. -/
def Pushed (s t : State) (g : Nat) (k : Task) : Prop :=
  let h := (s.core g).hand
  t = { s with cores := t.cores, kitty := t.kitty, teams := t.teams } ∧
  (h.length < 256 → (t.core g).hand = h ++ [k] ∧ t.kitty = s.kitty) ∧
  (256 ≤ h.length → (t.core g).hand = h.tail ++ [k] ∧ t.kitty = s.kitty ++ h.take 1) ∧
  (∀ c, c ≠ g → t.core c = s.core c) ∧ (∀ j, t.teams.fetch j = (s.teams.fetch j).map fun tm => if j = k.parent then { tm with children := tm.children + 1 } else tm)

/-- R42, R304, R305: `spawn` at depth 10 raises NESTDEPTH, on a record off its alignment MISALIGN, on a malformed one PROT, and pushes nothing. Otherwise, after the wait and the flush of a release at scope 4, it pushes a task that holds the record, the depth of a child, and the wave's signature and floor as they then stand; with the hand full and
no room in the kitty the split is held, the push and the count not yet made, and SPAWN_PUSH makes them when there is room. (A wave without a team takes PROT: log entry 33.) -/
def Sys2Proof.Claim.Spawning : Prop :=
  (∀ f s x, Issues (.spawn f) s x → x.conv = true →
    let va := x.w.sreg x.f.a.num.toNat
    (x.tm = none → exec (.spawn f) s = .next (s.raise x { code := .prot, addr := va, kind := .desc })) ∧
    ∀ tm, x.tm = some tm →
      (tm.depth = 10 → exec (.spawn f) s = .next (s.raise x { code := .nestdepth })) ∧
      (tm.depth ≠ 10 → va.toNat % 64 ≠ 0 → exec (.spawn f) s = .next (s.raise x { code := .misalign, addr := va, kind := .desc })) ∧
      ∀ u bs, tm.depth ≠ 10 → va.toNat % 64 = 0 → s.readDesc x .desc va 64 = (u, .bytes bs) →
        (badTask bs → exec (.spawn f) s = .next (u.raise x { code := .prot, addr := va, kind := .desc })) ∧
        ∀ v w0 z w, ¬badTask bs → Waited u x 4 v w0 → z = v.relFlush x.key 4 → z.waves.fetch x.key = some w →
          let k : Task := { krec := BitVec.ofNat 64 (field bs 0 8), join := BitVec.ofNat 64 (field bs 8 8), scope := field bs 0x10 1
                            args := (List.range 5).map fun i => BitVec.ofNat 64 (field bs (0x18 + 8 * i) 8), depth := tm.depth + 1
                            sig := w.sigacc, floor := w.sigfl, parent := x.w.team, tag := tm.tag }
          (z.handRoom x.core = true → ∃ t, Pushed z t x.core k ∧ exec (.spawn f) s = .next (t.advance x)) ∧
          (z.handRoom x.core = false → exec (.spawn f) s = .next (z.withWave x (waiting x { w with spawning := w.spawning.ins x.entry k } .kitty (.spawn f))))) ∧
  ∀ (s : State) core slot e w sp f k, s.waves.fetch (64 * core + slot) = some w → w.halted = false → w.ex.splits.fetch e = some sp →
    sp.form = some (.spawn f) → sp.stall = .kitty → w.spawning.fetch e = some k → s.handRoom core = true → w.ex.conv = true →
    ∃ t, Pushed s { t with waves := s.waves } core k ∧ exec (.spawnPush ⟨core, slot⟩ e) s = .next t ∧
      t.waves = s.waves.ins (64 * core + slot) ({ w with spawning := w.spawning.del e }.withEx { w.ex with
        splits := w.ex.splits.ins e { sp with pc := sp.pc + (if f.x then 16 else 8), stall := .none, form := none, born := 0, ask := none } })

/-- What a core holds of a team that has been placed on it from u (R38, R62, R84, R392, R398, R400): the team with empty memory, and, for a record of one wave, that wave at its start in a slot that was free, not issuing before the die's count of cc reaches `till`. -/
def PlacedTeam (u t : State) (g : Nat) (p : Place) (offs : List Nat) (till : Nat) : Prop :=
  let n := u.nextId
  ∃ tm, t.teams.fetch n = some tm ∧ tm.core = g ∧ tm.grid = p.grid ∧ tm.teamId = p.teamId ∧ tm.rank = p.teamId % p.lr.group ∧ tm.depth = p.depth ∧ tm.tag = p.tag ∧
    tm.join = p.join ∧ tm.jscope = p.jscope ∧ tm.parent = p.parent ∧ tm.isTask = p.isTask ∧ tm.teammem = p.lr.teammem ∧ tm.nbar = p.lr.nbar ∧ tm.lrec = p.lr.addr ∧
    tm.alive = p.lr.waves.length ∧ tm.children = 0 ∧ tm.mem = [] ∧ tm.full = [] ∧ tm.t = [] ∧ tm.tsig = 0 ∧ tm.tsigfl = 6 ∧
    (∀ b < p.lr.nbar, tm.bars.fetch b = some { ph := 0, arr := 0, expect := p.lr.waves.length, tx := 0 }) ∧
    ∀ r o, p.lr.waves = [r] → offs = [o] → ∃ k w, k / 64 = g ∧ u.waves.fetch k = none ∧ t.waves = u.waves.ins k w ∧ w.team = n ∧ w.tag = p.tag ∧ w.waveId = 0 ∧ w.role = r.name ∧
      w.prio = r.prio ∧ w.lregs = r.lregs ∧ w.voff = o ∧ w.k = [(0, 0xFFFFFFFF)] ∧ (∀ i, FMap.at' 0 w.s i = p.args.getD i 0) ∧ w.v = [] ∧ w.a = [] ∧ w.flags = 0 ∧ w.fpctl = 0 ∧ w.fcm = 0 ∧
      w.ex = { splits := [(0, { pc := p.lr.entry, mask := 0xFFFFFFFF })], parked := [], ptimer := 0, rdv := [], conv := true, pcf := [] } ∧ w.hnd = none ∧ w.supervisor = false ∧
      w.movingTo = till ∧ w.trapvec = p.lr.trapvec ∧ w.wlim = (u.die (dieOf g)).wdlim.toNat ∧ w.wdog = w.wlim ∧ w.sigacc = (if p.isTask then p.sig else 0) ∧ w.sigfl = if p.isTask then min 6 p.floor else 6

/-- R304, R399, R401 to R404: a core takes the top entry of its own hand; one with an empty hand and room for a wave takes the bottom entry of the first victim's hand that fits, or else the oldest entry of the kitty. The entry runs as one team of its record, with ARG0 to ARG4 over the record's arguments; an entry whose record is
rejected arrives poisoned at its JOIN without running, with an empty signature and floor 6 (the model's reading: log entry 54, DEDUCED). Nothing more is taken by the core in that cc, nor the bottom of that hand by another thief, nor anything from the kitty once it has given an entry. -/
def Sys2Proof.Claim.TasksTaken : Prop :=
  let Takes := fun (s : State) (i : Instr) g holder (k : Task) (left : State → State) =>
    (∀ u lr offs, s.taskRec (dieOf g) k = (u, some lr, none, false) → (s.freeOf g).holds lr.need = true → (s.core g).packOff = [] → allocBlocks (s.blocks g) (lr.waves.map fun r => 2 ^ r.lregs) = some offs →
      let p : Place := { lr := lr, grid := s.nextId, teamId := 0, depth := k.depth, tag := k.tag, join := k.join, jscope := k.scope, parent := k.parent, isTask := true
                         args := k.args ++ lr.args.drop k.args.length, sig := k.sig, floor := k.floor }
      ∃ t, exec i s = .next t ∧ PlacedTeam { u with nextId := s.nextId + 1 } t g p offs 0 ∧ (t.core g).took = s.cc + 1 ∧ (t.grids.fetch s.nextId).isSome = true ∧
        t.kitty = (left u).kitty ∧ ∀ c, (t.core c).hand = ((left u).core c).hand) ∧
    ∀ u, s.taskRec (dieOf g) k = (u, none, none, false) →
      exec i s = .next (((left u).updCore g fun c => { c with took := s.cc + 1 }).arrive holder 1 k.tag k.join k.scope true 0 6 k.parent (320 + 4 * holder))
  (∀ (s : State) g k, (s.core g).hand.getLast? = some k → s.mayTake g = true → Takes s (.takeHand g) g (dieOf g) k fun s => s.updCore g fun c => { c with hand := c.hand.dropLast }) ∧
  (∀ (s : State) g v k, s.mayTake g = true → (s.core g).hand = [] → 1 ≤ (s.freeOf g).w → 8 ≤ (s.freeOf g).v → s.stealFrom g = some (v, k) →
    Takes s (.steal g) g (dieOf v) k fun s => s.updCore v fun c => { c with hand := c.hand.tail, robbed := s.cc + 1 }) ∧
  (∀ (s : State) g k ks, s.mayTake g = true → (s.core g).hand = [] → 1 ≤ (s.freeOf g).w → 8 ≤ (s.freeOf g).v → s.stealFrom g = none → s.kitty = k :: ks → s.kittyTook ≠ s.cc + 1 →
    Takes s (.kittyTake g) g (dieOf g) k fun s => { s with kitty := s.kitty.tail, kittyTook := s.cc + 1 }) ∧
  (∀ (s : State) g, s.kittyTook = s.cc + 1 → exec (.kittyTake g) s = .next s) ∧
  (∀ (s : State) g, ((s.core g).took = s.cc + 1 ∨ s.coreOpen g = false) → exec (.takeHand g) s = .next s ∧ exec (.steal g) s = .next s ∧ exec (.kittyTake g) s = .next s) ∧
  ∀ (s : State) g v k, s.stealFrom g = some (v, k) → v ∈ victims g ∧ v ≠ g ∧ (s.core v).robbed ≠ s.cc + 1 ∧ (s.core v).hand.head? = some k ∧ s.taskFits g k = true

/-- spawn, hands, stealing and the kitty (log 33, 54). The statement is the conjunction of its parts, each described at its definition. -/
def Obligations.Tasks : Prop := Sys2Proof.Claim.Spawning ∧ Sys2Proof.Claim.TasksTaken

/-- R393, R394, R465: SQ_TAKE_ENTRY of a queue whose RUN or VALID bit is clear does nothing, and a descriptor at or above 768 GiB loses the queue (ERR[1], R411). A reserved descriptor line waits; a poisoned one stops the queue with a POISON_READ record in the ring of the line's near die, until the line is written; a descriptor with ERR set, or an empty one, is left alone; a malformed one takes ERR[1] and one whose TAIL is too far ahead of HEAD ERR[0]. A queue that reads a TAIL it has not seen acquires it: the pair of the line's slot holds for the entries below it, joined to the pair of those still to take (log entry 32). Otherwise the entry at HEAD is taken: its STATUS is 0 and
a grid of its record with that pair waits on the queue, or 1 for a record that is rejected, or 2 for one that does not name the die; and HEAD rises by 1. -/
def Sys2Proof.Claim.SubmissionQueues : Prop :=
  ∀ (s : State) die sq, let d := s.die die
    let u := FMap.at' {} d.sq sq
    let p := bits u.sqd 6 58 * 64
    let i := Instr.sqTakeEntry die sq
    let runs := bit d.run 0 = true ∧ bit u.sqd 0 = true ∧ u.lost = false
    let near := nearDie (stackOf (128 * lineOf p))
    let head0 : W64 := BitVec.ofNat 64 (s.homeNat (p + 0x18) 8)
    let tail0 : W64 := BitVec.ofNat 64 (s.homeNat (p + 0x10) 8)
    let got := s.slotAcquire (lineOf p)
    let left := u.tail.any fun o => o != head0
    let q := if u.tail = some tail0 then u else { u with tail := some tail0, sig := got.1 ||| (if left then u.sig else 0), floor := if left then min u.floor got.2 else got.2 }
    let seen := if u.tail = some tail0 then s else s.updDie die fun x => { x with sq := x.sq.ins sq q }
    (¬runs → exec i s = .next s) ∧
    (runs → memTop ≤ p → ∃ t, exec i s = .next t ∧ t = { s with dies := t.dies } ∧ (t.die die).sq.fetch sq = some { u with lost := true }) ∧
    (runs → p < memTop → (s.isReserved (lineOf p) = true ∨ (u.stopped = true ∧ s.watch.fetch (lineOf p) ≠ some true)) → exec i s = .next s) ∧
    (runs → p < memTop → s.isReserved (lineOf p) = false → s.poisoned (lineOf p) = true → u.stopped = false → ((s.die near).held.filter fun q => q.spills).length < 256 →
      ∃ t e, exec i s = .next t ∧ t = { s with dies := t.dies, hard := t.hard, watch := s.watch.ins (lineOf p) false } ∧ (t.die die).sq.fetch sq = some { u with stopped := true } ∧
        (t.die near).held = (s.die near).held ++ [e] ∧ e.code = 0x35 ∧ e.source = 8 ∧ e.pa = 128 * lineOf p ∧ e.srcid.toNat = die % 2 ^ 32) ∧
    (runs → p < memTop → s.isReserved (lineOf p) = false → s.poisoned (lineOf p) = false → u.stopped = false →
      let F := fun off n => s.homeNat (p + off) n
      let bad := F 8 1 = 0 ∨ 12 < F 8 1 ∨ 3 < F 9 1 ∨ F 0x0A 1 = 0 ∨ F 0x0B 5 ≠ 0 ∨ 7 < F 0x20 4 ∨ F 0x24 28 ≠ 0
      let tail : W64 := BitVec.ofNat 64 (F 0x10 8)
      let head : W64 := BitVec.ofNat 64 (F 0x18 8)
      let n := 2 ^ F 8 1
      (F 0x20 4 % 8 ≠ 0 → exec i s = .next seen) ∧
      (F 0x20 4 % 8 = 0 → bad → ∃ t, exec i s = .next t ∧ FieldsSet s t p [(0x20, 4, F 0x20 4 ||| 2)] ∧ t.grids = s.grids) ∧
      (F 0x20 4 % 8 = 0 → ¬bad → n < (tail - head).toNat → ∃ t, exec i s = .next t ∧ FieldsSet s t p [(0x20, 4, F 0x20 4 ||| 1)] ∧ t.grids = s.grids) ∧
      (F 0x20 4 % 8 = 0 → ¬bad → tail = head → exec i s = .next seen) ∧
      ∀ k v r rb, F 0x20 4 % 8 = 0 → ¬bad → 1 ≤ (tail - head).toNat → (tail - head).toNat ≤ n →
        let w := seen.translate die none (F 0x0A 1) false .atomic (BitVec.ofNat 64 (F 0 8) + BitVec.ofNat 64 (64 * (head.toNat % n)))
        w.2 = .ok k → k + 64 ≤ 2 ^ 52 → (k + 64 ≤ p ∨ p + 64 ≤ k) → w.1.reach die (lineOf k) = .ok →
        let ra := BitVec.ofNat 64 (s.homeNat k 8)
        r = w.1.unitRead die (F 0x0A 1) ra 256 → r = (v, .bytes rb) →
        let ok := if s.homeNat (k + 0x0C) 0x34 = 0 then parseLRec ra false rb else none
        let status := match ok with | none => 1 | some lr => if nbit lr.dies die then 0 else 2
        ∃ t, exec i s = .next t ∧ (∀ a, t.homeByte a = if k + 8 ≤ a ∧ a < k + 12 then (if a = k + 8 then BitVec.ofNat 8 status else 0)
            else if p + 0x18 ≤ a ∧ a < p + 0x20 then (toBytes 8 (head.toNat + 1)).getD (a - (p + 0x18)) 0 else s.homeByte a) ∧
          (status ≠ 0 → t.grids = s.grids) ∧
          ∀ lr, ok = some lr → nbit lr.dies die = true → ∃ g, t.grids = s.grids.ins s.nextId g ∧ g.tag = F 0x0A 1 ∧ g.lr = lr ∧ g.die = die ∧ g.sq = sq ∧ g.qprio = F 9 1 ∧
            g.nextGroup = 0 ∧ g.retired = 0 ∧ g.todo = [] ∧ g.sig = q.sig ∧ g.floor = q.floor ∧ t.nextId = s.nextId + 1) ∧
    (runs → die < 2 → p < memTop → s.isReserved (lineOf p) = false → u.stopped = true → s.watch.fetch (lineOf p) = some true →
      ∃ t, t = { s with dies := t.dies, watch := s.watch.del (lineOf p) } ∧ FMap.at' {} (t.die die).sq sq = { u with stopped := false } ∧ exec i s = exec i t)

/-- R395 to R400, R465: PLACE_TEAM places the next team of the group under placement on its core, and asks for itself again while the group has teams left; without one it takes the first grid of the serving order whose next group has a plan on the die, and with RUN[0] clear it does nothing; the ranks of a group follow one another at once, and a group planned for a core at work in a compaction
waits for its end (log entry 54, DEDUCED). A plan puts a team on a fitting core of lowest score, ties to the lowest number. A team whose blocks no free block can take asks for COMPACTION, which moves the blocks of that core, of waves and of those that ended waves left to their teams, each wave of a moved block not issuing for 32 cc and the time of the copies, so that
they do not overlap, and assigns the request its offsets, which the placement takes next. A grid that waits for 2^20 cc becomes starved. -/
def Sys2Proof.Claim.Placement : Prop :=
  (∀ (s : State) d gid g c rest, s.grids.find? (fun p => !p.2.todo.isEmpty && p.2.todoDie == d) = some (gid, g) → g.todo = c :: rest → bit (s.die d).run 0 = true →
    let sizes := g.lr.waves.map fun r => 2 ^ r.lregs
    let rank := g.lr.group - g.todo.length
    let p : Place := { lr := g.lr, grid := gid, teamId := (g.nextGroup - 1) * g.lr.group + rank, depth := 0, tag := g.tag, join := g.lr.join, jscope := g.lr.jscope
                       parent := 0, isTask := false, args := g.lr.args, sig := g.sig, floor := g.floor }
    let now := (s.die (dieOf c)).ucc
    (∀ offs till, (s.freeOf c).holds g.lr.need = true →
      ((s.core c).packOff = [] ∧ allocBlocks (s.blocks c) sizes = some offs ∧ till = (if now < (s.core c).packEnd then (s.core c).packEnd else 0)) ∨
        (offs ≠ [] ∧ offs.length = sizes.length ∧ (s.core c).packOff = offs ∧ till = (s.core c).packEnd) →
      ∃ t, exec (.placeTeam d) s = .next t ∧ PlacedTeam s t c p offs till ∧ t.grids.fetch gid = some { g with todo := rest, waitSince := (s.die g.die).ucc, starved := false } ∧
        t.agenda = if rest.isEmpty then s.agenda else .event (.placeTeam d) :: s.agenda) ∧
    (sizes ≠ [] → (s.core c).packOff = [] → allocBlocks (s.blocks c) sizes = none →
      exec (.placeTeam d) s = .next { s.updCore c (fun x => { x with packReq := sizes }) with agenda := .event (.compaction c) :: .event (.placeTeam d) :: s.agenda })) ∧
  (∀ (s : State) d, bit (s.die d).run 0 = false → exec (.placeTeam d) s = .next s) ∧
  (∀ (s : State) d, s.grids.find? (fun p => !p.2.todo.isEmpty && p.2.todoDie == d) = none →
    let plan := (s.serveOrder d).findSome? fun p => (s.groupPlan d p.2.lr).map fun gs => (p, gs)
    (plan = none → exec (.placeTeam d) s = .next s) ∧
    ∀ gid g gs, bit (s.die d).run 0 = true → gs ≠ [] → plan = some ((gid, g), gs) →
      ((∃ c ∈ gs, (s.die (dieOf c)).ucc < (s.core c).packEnd) → exec (.placeTeam d) s = .next s) ∧
      ((∀ c ∈ gs, (s.core c).packEnd ≤ (s.die (dieOf c)).ucc) →
      let g' := { g with todo := gs, todoDie := d, nextGroup := g.nextGroup + 1 }
      let u := ({ s with grids := s.grids.ins gid g' } : State).updDie d fun x => { x with lastSq := (g'.queueOn d).getD 0 }
      u.grids.find? (fun p => !p.2.todo.isEmpty && p.2.todoDie == d) = some (gid, g') ∧ ∃ t, exec (.placeTeam d) s = .next t ∧ exec (.placeTeam d) u = .next t)) ∧
  (∀ (rooms : FMap Room) n g, FMap.sorted rooms = true → bestCore rooms n = some g →
    ∃ f, rooms.fetch g = some f ∧ f.holds n = true ∧ ∀ c h, rooms.fetch c = some h → h.holds n = true → f.score < h.score ∨ (f.score = h.score ∧ g ≤ c)) ∧
  (∀ (s : State) g, (s.core g).packReq ≠ [] → FMap.sorted s.waves = true → (∀ b ∈ s.blocksOf g, b.2.2 ∈ [8, 16, 32, 64, 128, 256]) → ((s.blocksOf g).map fun b => b.1).Nodup →
    ∃ t, exec (.compaction g) s = .next t ∧ t = { s with waves := t.waves, teams := t.teams, cores := t.cores } ∧ (t.core g).packReq = [] ∧
      (t.core g).packOff.length = (s.core g).packReq.length ∧ (∀ k, k / 64 ≠ g → t.waves.fetch k = s.waves.fetch k) ∧
      (∀ k w, s.waves.fetch k = some w → ∃ o m, t.waves.fetch k = some { w with voff := o, movingTo := m } ∧ (o ≠ w.voff → (s.die (dieOf g)).ucc + 32 ≤ m)) ∧ (∀ c, c ≠ g → t.core c = s.core c) ∧
      (s.die (dieOf g)).ucc + 32 ≤ (t.core g).packEnd ∧
      (∀ j tm, s.teams.fetch j = some tm → ∃ vs, t.teams.fetch j = some { tm with vacant := vs } ∧ vs.map (fun v => (v.slot, v.lregs)) = tm.vacant.map fun v => (v.slot, v.lregs)) ∧
      ∀ b ∈ t.blocksOf g, ∀ c ∈ t.blocksOf g, b.1 ≠ c.1 → b.2.1 + b.2.2 ≤ c.2.1 ∨ c.2.1 + c.2.2 ≤ b.2.1) ∧
  ∀ (s : State) d, FMap.sorted s.grids = true → ∃ t, exec (.placementStarvation d) s = .next t ∧ t = { s with grids := t.grids } ∧
    ∀ j, t.grids.fetch j = (s.grids.fetch j).map fun g =>
      if (s.waitingGrids d).contains (j, g) ∧ g.waitSince + 2 ^ 20 ≤ (s.die g.die).ucc then { g with starved := true } else g

/-- Submission queues, placement of teams, compaction and starvation (log 32, 54). The statement is the conjunction of its parts, each described at its definition. -/
def Obligations.QueuesAndPlacement : Prop := Sys2Proof.Claim.SubmissionQueues ∧ Sys2Proof.Claim.Placement

/-! ### Array launches and reductions -/

/-- R306: an array launch descriptor with a field that status 1 rejects. -/
def badLaunch (bs : List W8) : Prop :=
  let f := field bs
  f 0 8 % 256 ≠ 0 ∨ 11 < f 0x0E 1 ∨ 16 ≤ f 0x0F 1 ∨ f 0x10 8 % 64 ≠ 0 ∨ f 0x18 1 < 3 ∨ 6 < f 0x18 1 ∨ 64 < f 0x19 1 ∨ zeros bs 0x1A 2 = false ∨ f 0x20 8 % 8 ≠ 0 ∨
  zeros bs 0x28 24 = false ∨ (f 0 8 = 0 ∧ f 0x0C 2 = 0xFFFF)

/-- R306 to R308, R333, R349 to R351, R371 to R373: `alaunch` and `asplice` of a converged wave read their descriptor and write the first status that applies: 1 malformed, 5 held in recovery, 2 the context is occupied (for `asplice`: it holds no running configuration, or one is spliced onto it already), 3 no such image in the deck; once the image, the table and the
pattern records are read, 1 with ERRC and ERRW for an image that fails a check, and 4 or 1 for the records, an accepted image being kept in the deck all the same. With status 0 the configuration is loaded into the context, or stands as its successor, with the parameter, and the team has one child more. (The parameter of a successor is a free value: log entry 30. The order of the statuses, and that a parked or an empty context takes no successor, are the model's reading: log entry 53.) -/
def Sys2Proof.Claim.ArrayLaunches : Prop :=
  let Law := fun (i : Instr) (s s0 : State) (x : Ctx) (splice : Option Nat) (param : W64) =>
    let va := x.w.sreg x.f.a.num.toNat
    (va.toNat % 64 ≠ 0 → exec i s = .next (s0.raise x { code := .misalign, addr := va, kind := .desc })) ∧
    ∀ u bs, va.toNat % 64 = 0 → s0.readDesc x .desc va 64 = (u, .bytes bs) →
      let ends := fun (t : State) n => exec i s = .next ((wrote t x (va + 0x1C) 4 n).advance x)
      let st := field bs 0x0E 1
      let k := field bs 0x0F 1 % 4
      let c := splice.getD (field bs 0x0F 1 / 4)
      let y := u.stk st
      let taken := if splice.isSome then (∀ a, y.ctxs.fetch (4 * k + c) = some a → a.parked = true) ∨ (y.splices.fetch (4 * k + c)).isSome = true else (y.ctxs.fetch (4 * k + c)).isSome = true
      let ready := ¬badLaunch bs ∧ y.hold = false ∧ y.ptab.valid k = true ∧ ¬taken
      (badLaunch bs → ends u 1) ∧ (¬badLaunch bs → y.hold = true → ends u 5) ∧ (¬badLaunch bs → y.hold = false → y.ptab.valid k = false → ends u 1) ∧
      (¬badLaunch bs → y.hold = false → y.ptab.valid k = true → taken → ends u 2) ∧
      (ready → field bs 0 8 = 0 → y.deckGet x.grid (field bs 0x0C 2) = none → ends u 3) ∧
      ∀ v w z ib tb words es rb, ready →
        (if field bs 0 8 = 0 then v = u ∧ ib = [] ∧ ∃ e, y.deckGet x.grid (field bs 0x0C 2) = some e ∧ words = e.words
          else (if 2 ≤ field bs 8 4 ∧ field bs 8 4 ≤ 65536 then u.readDesc x .desc (BitVec.ofNat 64 (field bs 0 8)) (4 * field bs 8 4) = (v, .bytes ib) else v = u ∧ ib = []) ∧
            words = (List.range (ib.length / 4)).map fun i => BitVec.ofNat 32 (field ib (4 * i) 4)) →
        v.readDesc x .desc (BitVec.ofNat 64 (field bs 0x20 8)) (8 * field bs 0x19 1) = (w, .bytes tb) →
        w.readPats x ((List.range (tb.length / 8)).map fun i => field tb (8 * i) 8) = (z, es, .bytes rb) →
        let img := (z.stk st).checkImage k c words (field bs 0 8 == 0)
        (∀ r, img = .inl r → ends (z.setStk st ((z.stk st).imageError k r)) 1) ∧
        ∀ cfg, img = .inr cfg →
          let y := (z.stk st).deckTake x.grid (field bs 0x0C 2) (field bs 0 8 == 0) words
          let q := (z.setStk st y.1).checkPats st k x.w.tag (planeOf cfg k c) es
          (∀ n, q.2 = .inl n → ends q.1 n) ∧
          ∀ pats, q.2 = .inr pats → ∃ (t : State) (a : ACtx), ends t 0 ∧ t = { q.1 with stks := t.stks, teams := t.teams } ∧
            (∀ tm, q.1.teams.fetch x.w.team = some tm → t.teams.fetch x.w.team = some { tm with children := tm.children + 1 }) ∧
            (if splice.isSome then (t.stk st).splices.fetch (4 * k + c) = some { cfg := cfg, arr := a, taken := [] } ∧ (t.stk st).ctxs = (q.1.stk st).ctxs
              else (t.stk st).ctxs.fetch (4 * k + c) = some a ∧ (t.stk st).cfg = cfg) ∧
            a.tag = x.w.tag ∧ a.grid = x.grid ∧ a.team = x.w.team ∧ a.join.toNat = field bs 0x10 8 ∧ a.scope = field bs 0x18 1 ∧ a.param = param ∧ a.pats = pats ∧ a.parked = false ∧ a.sig = 0 ∧
            a.wave = none ∧ a.bufs = [] ∧ a.round = 0 ∧ a.img = y.2
  (∀ f s x, Issues (.alaunch f) s x → x.conv = true → Law (.alaunch f) s s x none (x.src false false x.f.b 0)) ∧
  ∀ f s x, Issues (.asplice f) s x → x.conv = true → Law (.asplice f) s { s with free := s.free + 1 } x (some (x.num x.f.b 2)) (Config.spliceParam s.free)

/-- R309: a reduction descriptor that status 1 rejects. -/
def badReduction (bs : List W8) : Prop :=
  let f := field bs
  f 0 8 % 128 ≠ 0 ∨ f 8 4 = 0 ∨ 2 ^ 24 < f 8 4 ∨ f 0x0C 2 = 0 ∨ 4096 ≤ f 0x0C 2 ∨ 1 < f 0x0E 1 ∨ f 0x0F 1 < 3 ∨ 6 < f 0x0F 1 ∨ f 0x10 8 % 64 ≠ 0 ∨ zeros bs 0x24 28 = false

/-- R157: the tree over twelve stacks; a missing value lets its partner pass up. -/
def treeOf12 (add : Nat → Nat → Nat) (v : Nat → Option Nat) : Nat :=
  let j := fun (a b : Option Nat) => match a, b with | some x, some y => some (add x y) | some x, none => some x | none, b => b
  (j (j (j (j (v 0) (v 1)) (j (v 2) (v 3))) (j (j (v 4) (v 5)) (j (v 6) (v 7)))) (j (j (v 8) (v 9)) (j (v 10) (v 11)))).getD 0

/-- R157, R309, R310, R347: `xred` arms the combine unit for a tag, or writes the first status that applies. XRED_CONTRIBUTION takes the next message: one for no reduction in flight, from a stack outside MASK, of another incarnation of its array or for a contribution that is complete is discarded; others add their elements, to those of the same incarnation only, an index sent twice keeping its value and poisoning the contribution.
With the last contribution, or when XRED_TIMEOUT finds TIMEOUT expired, the unit writes each line of the tree sums over the stacks present, marked when a contribution was poisoned or on a timeout, then MISSING and POISONED, and arrives at JOIN, poisoned if either mask is not zero; while a line that it writes is reserved, the end waits (R434). (An index at or beyond LEN and a contribution that ends incomplete are the model's reading: log entry 51.) -/
def Sys2Proof.Claim.Reductions : Prop :=
  let num := fun (ls : List Nat) => (ls.map fun i => 2 ^ i).sum
  let Ends := fun (i : Instr) (s u : State) d tag (r : Reduction) (timeout : Bool) =>
    let here := fun st => (r.contribs.fetch st).any fun c => c.complete
    let missing := (List.range 12).filter fun st => bit r.mask st && !here st
    let bad := (r.contribs.filter fun q => q.2.complete && q.2.poisoned).map Prod.fst
    let v := u.setDie d { u.die d with reds := (u.die d).reds.del tag }
    let w := (List.range ((r.len + 31) / 32)).foldl (fun (q : State × Sig × Bool) l =>
      let t := q.1.reduceLine d tag r l (timeout || !bad.isEmpty); (t.1, q.2.1 ||| t.2.1, q.2.2 || t.2.2)) (v, 0, false)
    exec i s = .next (((w.1.unitField d r.tag (r.desc + 0x20) (toBytes 2 (num missing))).unitField d r.tag (r.desc + 0x22) (toBytes 2 (num bad))).arrive
      d 5 r.tag r.join r.scope (!missing.isEmpty || !bad.isEmpty || w.2.2) w.2.1 6 0 (320 + 4 * d))
  (∀ f s x u bs, Issues (.xred f) s x → x.conv = true → let va := x.w.sreg x.f.a.num.toNat
    let tag := x.num x.f.b 16
    let ends := fun (u : State) n => exec (.xred f) s = .next ((wrote u x (va + 0x1C) 4 n).advance x)
    va.toNat % 64 = 0 → s.readDesc x .desc va 64 = (u, .bytes bs) →
    let reds := (u.die x.die).reds
    (badReduction bs → ends u 1) ∧ (¬badReduction bs → (reds.fetch tag).isSome = true → ends u 2) ∧ (¬badReduction bs → reds.fetch tag = none → 64 ≤ reds.length → ends u 3) ∧
    (¬badReduction bs → reds.fetch tag = none → reds.length < 64 → ∃ r : Reduction, ends (u.setDie x.die { u.die x.die with reds := reds.ins tag r }) 0 ∧
      r.dest.toNat = field bs 0 8 ∧ r.len = field bs 8 4 ∧ r.mask.toNat = field bs 0x0C 2 ∧ (r.int32 = true ↔ field bs 0x0E 1 = 1) ∧ r.scope = field bs 0x0F 1 ∧ r.join.toNat = field bs 0x10 8 ∧
      r.deadline = (if field bs 0x18 4 = 0 then 0 else s.cc + 256 * field bs 0x18 4) ∧ r.tag = x.w.tag ∧ r.desc = va ∧ r.contribs = [])) ∧
  (∀ f s x, Issues (.xred f) s x → x.conv = true → let va := x.w.sreg x.f.a.num.toNat
    va.toNat % 64 ≠ 0 → exec (.xred f) s = .next (s.raise x { code := .misalign, addr := va, kind := .desc })) ∧
  (∀ (s : State) d m q, (s.die d).contribQ = m :: q →
    let u := s.setDie d { s.die d with contribQ := q }
    let was := fun (r : Reduction) => FMap.at' {} r.contribs m.stack
    let c := fun (r : Reduction) => if (was r).ainc = m.ainc then was r else { ainc := m.ainc }
    let counts := fun (r : Reduction) => bit r.mask m.stack = true ∧ m.ainc = (s.stk m.stack).ainc.toNat ∧ (was r).complete = false
    ((∀ r, (s.die d).reds.fetch m.tag = some r → ¬counts r) → exec (.xredContribution d) s = .next u) ∧
    ∀ r, (s.die d).reds.fetch m.tag = some r → FMap.sorted r.contribs = true → counts r → ∃ c' : Contrib, c'.complete = m.final ∧
      ((m.elems.map Prod.fst).Nodup → (∀ e ∈ m.elems, e.1 < r.len ∧ (c r).elems.fetch e.1 = none) →
        (∀ j, c'.elems.fetch j = match m.elems.find? fun e => e.1 == j with | some e => some e.2 | none => (c r).elems.fetch j) ∧
        c'.poisoned = ((c r).poisoned || m.poisoned || (m.final && decide (c'.elems.length < r.len)))) ∧
      ((∃ e ∈ m.elems, e.1 < r.len ∧ ((c r).elems.fetch e.1).isSome = true) → c'.poisoned = true) ∧
      let r' := { r with contribs := r.contribs.ins m.stack c' }
      let all := ∀ st < 12, bit r.mask st = true → (r'.contribs.fetch st).any (fun c => c.complete) = true
      (¬all → exec (.xredContribution d) s = .next (u.setDie d { u.die d with reds := (u.die d).reds.ins m.tag r' })) ∧
      (all → u.reduceHeld d r' = true → exec (.xredContribution d) s = .next s) ∧
      (all → u.reduceHeld d r' = false → Ends (.xredContribution d) s u d m.tag r' false)) ∧
  (∀ (s : State) d tag r, (s.die d).reds.fetch tag = some r →
    ((r.deadline = 0 ∨ s.cc < r.deadline) → exec (.xredTimeout d tag) s = .next s) ∧
    (r.deadline ≠ 0 → r.deadline ≤ s.cc → s.reduceHeld d r = true → exec (.xredTimeout d tag) s = .next s) ∧
    (r.deadline ≠ 0 → r.deadline ≤ s.cc → s.reduceHeld d r = false → FMap.sorted r.contribs = true → Ends (.xredTimeout d tag) s s d tag r true)) ∧
  (∀ (s : State) d r va k, (va = r.desc ∨ ∃ l < (r.len + 31) / 32, va = r.dest + BitVec.ofNat 64 (128 * l)) → (s.translate d none r.tag false .store va).2 = .ok k →
    s.isReserved (lineOf k) = true → s.reduceHeld d r = true) ∧
  (∀ (s : State) d tag r l k bad, FMap.sorted r.contribs = true → (s.translate d none r.tag false .store (r.dest + BitVec.ofNat 64 (128 * l))).2 = .ok k → k % 128 = 0 → k + 128 ≤ 2 ^ 52 →
    let t := (s.reduceLine d tag r l bad).1
    let n := 4 * min 32 (r.len - 32 * l)
    let word := fun i => treeOf12 (fun a b => if r.int32 then (a + b) % 2 ^ 32 else addF32 a b)
      fun st => (r.contribs.fetch st).bind fun c => if c.complete then (c.elems.fetch i).map BitVec.toNat else none
    (∀ a, t.homeByte a = if k ≤ a ∧ a < k + n then BitVec.ofNat 8 (word (32 * l + (a - k) / 4) / 2 ^ (8 * ((a - k) % 4))) else s.homeByte a) ∧
    ∀ j, FMap.at' false t.poison j = if j = lineOf k ∧ bad = true then true else FMap.at' false s.poison j)

/-- alaunch, asplice and xred: status and effect; contributions, results and the timeout of a reduction (log 30, 51, 53). The statement is the conjunction of its parts, each described at its definition. -/
def Obligations.LaunchesAndReductions : Prop := Sys2Proof.Claim.ArrayLaunches ∧ Sys2Proof.Claim.Reductions

/-! ### Near-bank operations -/

/-- R311: a bank-operation descriptor that status 1 rejects. -/
def badBank (bs : List W8) : Prop :=
  let f := field bs
  f 0 8 % 64 ≠ 0 ∨ f 8 8 % 65536 ≠ 0 ∨ f 0x10 8 = 0 ∨ f 0x10 8 % 65536 ≠ 0 ∨ f 0x18 8 % 64 ≠ 0 ∨ f 0x20 8 % 128 ≠ 0 ∨ f 0x28 8 % 128 ≠ 0 ∨ f 0x30 8 % 64 ≠ 0 ∨
  f 0x38 2 = 0 ∨ 1024 < f 0x38 2 ∨ 11 < f 0x3A 1 ∨ f 0x3B 1 < 3 ∨ 6 < f 0x3B 1 ∨ f 0x3C 2 = 0

/-- R311 to R313: `bnkop` of a converged wave writes STATUS 1 for a malformed descriptor or microprogram, 2 for a page outside its stack, and 0 with the operation last in the stack's queue. BANK_RUN starts the next accepted operation, with clear latches, when none runs; when the words of the running one are done it drops the home's copies of the rows written and
arrives at JOIN, and the combine, if there is one, is left to wait. A combine, between runs, does nothing while JOIN is open; once JOIN has a status it comes before the next run: when it reads 1 it writes each sum of a partial in CBUF, on the left, and a result and arrives at CJOIN; with 2 or 3 it writes nothing and arrives poisoned. -/
def Sys2Proof.Claim.BankOperations : Prop :=
  (∀ f s x, Issues (.bnkop f) s x → x.conv = true → let va := x.w.sreg x.f.a.num.toNat
    (va.toNat % 64 ≠ 0 → exec (.bnkop f) s = .next (s.raise x { code := .misalign, addr := va, kind := .desc })) ∧
    ∀ u bs, va.toNat % 64 = 0 → s.readDesc x .desc va 64 = (u, .bytes bs) →
      let ends := fun (t : State) n => exec (.bnkop f) s = .next ((wrote t x (va + 0x3E) 2 n).advance x)
      let w := fun o => BitVec.ofNat 64 (field bs o 8)
      let clen := field bs 0x3C 2
      let n := if field bs 0x20 8 = 0 then 0 else 128 * clen
      let st := field bs 0x3A 1
      (badBank bs → ends u 1) ∧
      ∀ v pb, ¬badBank bs → u.readDesc x .desc (w 0) (8 * field bs 0x38 2) = (v, .bytes pb) →
        let words := (List.range (field bs 0x38 2)).map fun i => BitVec.ofNat 64 (field pb (8 * i) 8)
        (words.all wordOk = false → ends v 1) ∧
        ∀ q1 q2 q3 q4 ps rs cs os, words.all wordOk = true → v.rangePages x (w 8) (field bs 0x10 8) = (q1, ps, .bytes []) → q1.rangePages x (w 8) n = (q2, rs, .bytes []) →
          q2.rangePages x (w 0x20) n = (q3, cs, .bytes []) → q3.rangePages x (w 0x28) n = (q4, os, .bytes []) →
          let inside := ∀ p ∈ ps ++ rs ++ cs ++ os, homeOf p = .here ∧ stackOf p = st
          ∃ b : BankOp, b.words = words ∧ b.pages = ps ∧ b.res = rs ∧ b.cbuf = cs ∧ b.cout = os ∧ b.join = w 0x18 ∧ b.cjoin = w 0x30 ∧ b.scope = field bs 0x3B 1 ∧ b.clen = clen ∧
            b.tag = x.w.tag ∧ b.poisoned = false ∧ b.idx = 0 ∧ b.sig = 0 ∧ b.wrote = [] ∧
            let fits := ∀ v ∈ words, ∀ k ∈ (wordRows v).1 ++ (wordRows v).2, k < b.depth
            (¬inside → ends q4 2) ∧ (inside → ¬fits → ends q4 1) ∧
            (inside → fits → ends (q4.setStk st { q4.stk st with bankq := (q4.stk st).bankq ++ [b] }) 0)) ∧
  (∀ (s : State) st b q, (s.stk st).bankRun = none → (s.stk st).bankq = b :: q → (s.stk st).combines = [] →
    exec (.bankRun st) s = .next (s.setStk st { s.stk st with bankq := q, bankRun := some b, latchA := [], latchB := [], cy := [] })) ∧
  (∀ (s : State) st b, (s.stk st).bankRun = some b → b.words.length ≤ b.idx →
    ∃ u : State, u = { s with l2d := u.l2d, dirCopy := u.dirCopy, stks := u.stks } ∧ (∀ p ∈ b.wrote, ∀ i < 1024, p % 128 = 0 → u.l2d.fetch (p + i) = none) ∧
      (∀ k, (∀ p ∈ b.wrote, ∀ i < 8, k / 128 ≠ p / 128 + i) → u.l2d.fetch k = s.l2d.fetch k) ∧
      u.stk st = { s.stk st with bankRun := none, combines := if b.cbuf.isEmpty then (s.stk st).combines else (s.stk st).combines ++ [b] } ∧
      exec (.bankRun st) s = .next (u.arrive (st / 6) 4 b.tag b.join b.scope b.poisoned b.sig 6 0 (320 + 4 * (st / 6)))) ∧
  (∀ (s : State) st b, (s.stk st).bankRun = some b → exec (.bankCombine st) s = .next s) ∧
  ∀ (s : State) st b u bs i, (s.stk st).bankRun = none → (s.stk st).combines = [b] → (i = .bankCombine st ∨ (i = .bankRun st ∧ (s.stk st).bankq ≠ [])) →
    s.unitRead (st / 6) b.tag (b.join + 0x10) 4 = (u, .bytes bs) →
    let v := u.setStk st { u.stk st with combines := [] }
    let ends := fun (v : State) poison sig => exec i s = .next (v.arrive (st / 6) 4 b.tag b.cjoin b.scope poison sig 6 0 (320 + 4 * (st / 6)))
    (ofBytes bs % 4 = 0 → i = .bankCombine st → exec i s = .next u) ∧
    (∀ o q, ofBytes bs % 4 = 0 → i = .bankRun st → (s.stk st).bankq = o :: q →
      exec i s = .next (u.setStk st { u.stk st with bankq := q, bankRun := some o, latchA := [], latchB := [], cy := [] })) ∧
    (2 ≤ ofBytes bs % 4 → ends v true 0) ∧
    ∀ c r o, ofBytes bs % 4 = 1 → b.cbuf = [c] → b.res = [r] → b.cout = [o] → b.cbufVa.toNat % 65536 + 128 * b.clen ≤ 65536 → 128 * b.clen ≤ 65536 → b.coutVa.toNat % 65536 + 128 * b.clen ≤ 65536 →
      (∀ l, s.poisoned l = false) → (∀ k, s.l2d.fetch k = none) →
      let cb := c + b.cbufVa.toNat % 65536
      let ob := o + b.coutVa.toNat % 65536
      (ob + 128 * b.clen ≤ cb ∨ cb + 128 * b.clen ≤ ob) → (ob + 128 * b.clen ≤ r ∨ r + 128 * b.clen ≤ ob) →
      let word := fun (s : State) a => ofBytes ((List.range 4).map fun i => s.dramByte (a + i))
      ∃ (t : State) (sig : Sig), t = { v with dram := t.dram, dirCopy := t.dirCopy, watch := t.watch } ∧ ends t false sig ∧ (∀ i < 32 * b.clen, word t (ob + 4 * i) = addF32 (word s (cb + 4 * i)) (word s (r + 4 * i)) % 2 ^ 32) ∧
        ∀ a, (a < ob ∨ ob + 128 * b.clen ≤ a) → t.dramByte a = s.dramByte a

/-- The value of n bits at rows r to r + n - 1 of a column, lowest bit first (R345): rs are the rows of the range in a bank. -/
def colVal (s : State) (st site : Nat) (rs : List Nat) (r n c : Nat) : Nat :=
  ((List.range n).map fun i => if bit (s.dramByte (rowPa st (rs.getD (r + i) 0) (site / 256) (site % 256) + c / 8)) (c % 8) then 2 ^ i else 0).sum

/-- A word of the running program writes m rows from RD in every bank of the range that holds all the rows it names, to the values that a function gives of the columns read before, and nothing else: not where a bank lacks a row, and no row beside. It holds when no row named is poisoned or failed and the L2 is clean. -/
def WordLaw (i : Nat → Instr) (w : W64) (rd m : Nat) (val : (Nat → Nat → Nat → Nat) → Nat → Nat) : Prop :=
  ∀ (s : State) st b, (s.stk st).bankRun = some b → b.words[b.idx]? = some w → wordOk w = true → (∀ k, s.l2d.fetch k = none) → (∀ l, s.poisoned l = false) →
    ∃ t b', exec (i st) s = .next t ∧ t = { s with dram := t.dram, dirCopy := t.dirCopy, watch := t.watch, stks := t.stks } ∧ (t.stk st).bankRun = some b' ∧ b'.idx = b.idx + 1 ∧ b'.poisoned = b.poisoned ∧
      b'.words = b.words ∧ b'.pages = b.pages ∧
      (∀ q ∈ b.sites, ∀ c < 8192, (∀ k ∈ (wordRows w).1 ++ (wordRows w).2, k < q.2.length) → colVal t st q.1 q.2 rd m c = val (fun c r n => colVal s st q.1 q.2 r n c) c) ∧
      ∀ a, (∀ q ∈ b.sites, (∀ k ∈ (wordRows w).1 ++ (wordRows w).2, k < q.2.length) → ∀ k, rd ≤ k → k < rd + m → let p := rowPa st (q.2.getD k 0) (q.1 / 256) (q.1 % 256); a < p ∨ p + 1024 ≤ a) →
        t.dramByte a = s.dramByte a

/-- R345, R367, R368: what each microprogram operation writes in each column: COPY, the bitwise operations and NOT; ADD and SUB wrapped to N bits; SETC the low bits of the sign-extended constant; LT one bit; MAC8, CVTF and XPOSE 32 bits; NOP nothing. A word that is not the running program's next one does nothing. -/
def Sys2Proof.Claim.BankWords : Prop :=
  ∀ rd ra rb n, rd < 16384 → ra < 16384 → rb < 16384 → n < 64 →
    WordLaw (fun st => .bankNop st) 0 0 0 (fun _ _ => 0) ∧
    WordLaw (fun st => .bankCopy st rd ra n) (opWord 1 rd ra 0 n) rd n (fun v c => v c ra n) ∧
    WordLaw (fun st => .bankAnd st rd ra rb n) (opWord 2 rd ra rb n) rd n (fun v c => v c ra n &&& v c rb n) ∧
    WordLaw (fun st => .bankOr st rd ra rb n) (opWord 3 rd ra rb n) rd n (fun v c => v c ra n ||| v c rb n) ∧
    WordLaw (fun st => .bankXor st rd ra rb n) (opWord 4 rd ra rb n) rd n (fun v c => v c ra n ^^^ v c rb n) ∧
    WordLaw (fun st => .bankAndn st rd ra rb n) (opWord 5 rd ra rb n) rd n (fun v c => v c ra n &&& (2 ^ n - 1 - v c rb n)) ∧
    WordLaw (fun st => .bankNot st rd ra n) (opWord 6 rd ra 0 n) rd n (fun v c => 2 ^ n - 1 - v c ra n) ∧
    WordLaw (fun st => .bankAdd st rd ra rb n) (opWord 7 rd ra rb n) rd n (fun v c => (v c ra n + v c rb n) % 2 ^ n) ∧
    WordLaw (fun st => .bankSub st rd ra rb n) (opWord 8 rd ra rb n) rd n (fun v c => (v c ra n + 2 ^ n - v c rb n) % 2 ^ n) ∧
    WordLaw (fun st => .bankSetc st rd rb n) (opWord 9 rd 0 rb n) rd n (fun _ _ => wrapInt n (sextNat 14 rb)) ∧
    WordLaw (fun st => .bankLt st rd ra rb n) (opWord 10 rd ra rb n) rd 1 (fun v c => if sextNat n (v c ra n) < sextNat n (v c rb n) then 1 else 0) ∧
    WordLaw (fun st => .bankMac8 st rd ra rb) (opWord 11 rd ra rb 0) rd 32 (fun v c => wrapInt 32 ((v c rd 32 : Int) + sextNat 8 (v c ra 8) * sextNat 8 (rb % 256))) ∧
    WordLaw (fun st => .bankCvtf st rd ra rb) (opWord 12 rd ra rb 0) rd 32 (fun v c =>
      let x := sextNat 32 (v c ra 32); (roundFp .f32 .rne 0 false false (.fin (decide (x < 0)) x.natAbs (((rb % 256 : Nat) : Int) - 127))).1) ∧
    WordLaw (fun st => .bankXpose st rd ra) (opWord 13 rd ra 0 0) rd 32 (fun v c =>
      ((List.range 32).map fun r => if (v (256 * r + c / 32) ra 32) / 2 ^ (c % 32) % 2 = 1 then 2 ^ r else 0).sum) ∧
    ∀ i w, (i, w) ∈ [(fun st => Instr.bankNop st, (0 : W64)), (fun st => .bankCopy st rd ra n, opWord 1 rd ra 0 n), (fun st => .bankAnd st rd ra rb n, opWord 2 rd ra rb n),
        (fun st => .bankOr st rd ra rb n, opWord 3 rd ra rb n), (fun st => .bankXor st rd ra rb n, opWord 4 rd ra rb n), (fun st => .bankAndn st rd ra rb n, opWord 5 rd ra rb n),
        (fun st => .bankNot st rd ra n, opWord 6 rd ra 0 n), (fun st => .bankAdd st rd ra rb n, opWord 7 rd ra rb n), (fun st => .bankSub st rd ra rb n, opWord 8 rd ra rb n),
        (fun st => .bankSetc st rd rb n, opWord 9 rd 0 rb n), (fun st => .bankLt st rd ra rb n, opWord 10 rd ra rb n), (fun st => .bankMac8 st rd ra rb, opWord 11 rd ra rb 0),
        (fun st => .bankCvtf st rd ra rb, opWord 12 rd ra rb 0), (fun st => .bankXpose st rd ra, opWord 13 rd ra 0 0)] →
      ∀ (s : State) st, (∀ b, (s.stk st).bankRun = some b → b.words[b.idx]? ≠ some w) → exec (i st) s = .next s

/-- bnkop, its run and its combine, and what each microprogram word writes. The statement is the conjunction of its parts, each described at its definition. -/
def Obligations.NearBank : Prop := Sys2Proof.Claim.BankOperations ∧ Sys2Proof.Claim.BankWords

/-! ### Elements and ports of an array -/

/-- Element e of stack st runs configuration h, with its context a and its network n, and the configuration moves (R316, R330). -/
def RunsOn (s : State) (st e : Nat) (h : ArrH) (a : ACtx) (n : Net) : Prop :=
  s.holder st e = some h ∧ s.arr h = some a ∧ s.arrMoves h a = true ∧ n = s.net h

/-- t is the whole device as it was in s, but for configuration h, which then meets P, and for the counts of tokens that guards have dropped. -/
def ArrayMoves (s t : State) (h : ArrH) (P : State → ACtx → Prop) : Prop :=
  ∃ a' : ACtx, t = { s with stks := t.stks } ∧ (∀ st, st ≠ h.st → t.stk st = s.stk st) ∧
    t.stk h.st = { s.stk h.st with cfg := (t.stk h.st).cfg, ctxs := (t.stk h.st).ctxs, splices := (t.stk h.st).splices } ∧
    (∀ k c e f, e < 1011 → f < 64 → (t.stk h.st).field k c e f = (s.stk h.st).field k c e f) ∧
    (∀ g : ArrH, (g.st ≠ h.st ∨ g.key ≠ h.key ∨ g.succ ≠ h.succ) → t.arr g = s.arr g) ∧ t.arr h = some a' ∧ P t a'

/-- An event that moves a configuration, and nothing else. -/
def ArrayStep (i : Instr) (s : State) (h : ArrH) (P : State → ACtx → Prop) : Prop :=
  ∃ t, exec i s = .next t ∧ ArrayMoves s t h P

/-- The queues at the slots after an event that takes the head of each slot of a list, and puts more tokens behind what is left. -/
def Queues (a a' : ACtx) (ins : List Nat) (outs : Nat → List (Nat × Tok)) : Prop :=
  ∀ q, FMap.at' [] a'.bufs q = (if q ∈ ins then (FMap.at' [] a.bufs q).tail else FMap.at' [] a.bufs q) ++ outs q

/-- The ac from which a token is there that is sent at ac r to a slot: r, or one after the last token of the slot, as a track carries one token an ac (R316). -/
def after (a : ACtx) (q r : Nat) : Nat := match (FMap.at' [] a.bufs q).getLast? with | some p => max r (p.1 + 1) | none => r

/-- What a slot gets when a source of element e sends a token on each of its tracks: the token, from ac r on; nothing where the track leaves the partition (R316, R344). -/
def sentOn (n : Net) (a : ACtx) (e src r : Nat) (t : Tok) (q : Nat) : List (Nat × Tok) :=
  ((n.fan e src).filter fun f => decide ((n.dest e f).1 = .slot q)).map fun _ => (after a q r, t)

def nothing (_ : Nat) : List (Nat × Tok) := []

/-- R318, R319: a PE that has a token at each configured input and room on its output tracks takes them and, after the latency of its slot, sends one token: slot 1 when the control token is valid and true, SOT and EOT of the lowest input, PSN of any; with an empty token among
them it obeys its policy: absorb the firing (but pass on a boundary), send an empty token, or put its constant in place. An input without a token, or a track without room, leaves everything as it was. It fires once an ac. -/
def Sys2Proof.Claim.ProcessingElements : Prop :=
  ∀ (s : State) st e h a n lo, RunsOn s st e h a n →
    let tok := fun f => a.token (64 * e + f) n.ac
    let ins := n.peInputs e
    let some_ := fun (p : Tok → Bool) => ins.any fun f => (tok f).any p
    ((∃ f ∈ ins, tok f = none) → exec (.peFire st e) s = .next s) ∧ (n.room a e 17 = false → exec (.peFire st e) s = .next s) ∧
    (n.g.pe e = true → (ins.head?.bind tok) = some lo → (∀ f ∈ ins, (tok f).isSome = true) → a.fresh (64 * e + 17) n.ac = true → n.room a e 17 = true →
      let slot := if 0x23 ∈ ins ∧ (tok 0x23).any (fun t => t.v && bit t.data 0) = true then 1 else 0
      let empty := some_ fun t => !t.v
      let edge := some_ fun t => t.sot || t.eot || t.swap
      let policy := n.g e 0 % 4
      let fires := fun outs => ArrayStep (.peFire st e) s h fun _ a' => Queues a a' (ins.map fun f => 64 * e + f) outs ∧ a'.fresh (64 * e + 17) n.ac = false
      let sends := fun t => fires (sentOn n a e 17 (n.ac + opLatency (n.g e (1 + 2 * slot) % 256) (nbits (n.g e (1 + 2 * slot)) 8 3)) t)
      let mark := some_ fun t => t.psn
      let val := fun fmt i => if 0x20 + i ∈ ins then (tok (0x20 + i)).elim 0 fun t => if t.v then t.data else widen fmt (n.g e 9 + 65536 * n.g e 10) else 0
      let out : Tok := { data := n.slotValue e slot a.param val, sot := lo.sot, eot := lo.eot, psn := mark, gen := a.gen, ctx := n.c }
      ((empty = false ∨ 2 ≤ policy) → sends out) ∧
      (empty = true → policy = 1 → sends { out with data := 0, v := false }) ∧
      (empty = true → policy = 0 → edge = false → fires nothing) ∧
      (empty = true → policy = 0 → edge = true →
        sends { out with data := 0, v := false, sot := some_ fun t => t.sot, eot := some_ fun t => t.eot, swap := some_ fun t => t.swap }))

/-- R353, R354: what the operations of a PE make of their operands, by format: i32 (0), u32 (1) and i64 (3) wrap, and min, max, compares, ABS and RELU take the sign of the format; the others of bf16x4 (4) and i8x8 (5) work on 16-bit and 8-bit pieces; DOT8 adds eight products of signed bytes. -/
def Sys2Proof.Claim.ArrayOperations : Prop :=
  ∀ rnd (x y z : W64), let a : W32 := x.truncate 32
    let b : W32 := y.truncate 32
    let c : W32 := z.truncate 32
    let w := fun (v : W32) => (v.zeroExtend 64 : W64)
    let flag := fun (p : Bool) => if p then (1 : W64) else 0
    (∀ fmt, fmt = 0 ∨ fmt = 1 → arrOp 0x01 fmt rnd x y z = w (a + b) ∧ arrOp 0x02 fmt rnd x y z = w (a - b) ∧ arrOp 0x03 fmt rnd x y z = w (a * b) ∧
      arrOp 0x04 fmt rnd x y z = w (a * b + c) ∧ arrOp 0x09 fmt rnd x y z = w (a &&& b) ∧ arrOp 0x0A fmt rnd x y z = w (a ||| b) ∧ arrOp 0x0B fmt rnd x y z = w (a ^^^ b) ∧
      arrOp 0x0E fmt rnd x y z = w (if c = 0 then b else a) ∧ arrOp 0x0C fmt rnd x y z = w (a <<< b.toNat)) ∧
    arrOp 0x05 0 rnd x y z = w (if a.toInt ≤ b.toInt then a else b) ∧ arrOp 0x06 1 rnd x y z = w (if a.toNat ≤ b.toNat then b else a) ∧
    arrOp 0x0D 0 rnd x y z = w (a.sshiftRight b.toNat) ∧ arrOp 0x0D 1 rnd x y z = w (a >>> b.toNat) ∧
    arrOp 0x12 0 rnd x y z = flag (decide (a.toInt < b.toInt)) ∧ arrOp 0x12 1 rnd x y z = flag (decide (a.toNat < b.toNat)) ∧ arrOp 0x10 0 rnd x y z = flag (a == b) ∧
    arrOp 0x18 0 rnd x y z = w (if a.toInt < 0 then 0 else a) ∧ arrOp 0x08 0 rnd x y z = w (-a) ∧
    arrOp 0x01 3 rnd x y z = x + y ∧ arrOp 0x02 3 rnd x y z = x - y ∧ arrOp 0x03 3 rnd x y z = x * y ∧ arrOp 0x15 3 rnd x y z = flag (decide (y.toInt ≤ x.toInt)) ∧
    arrOp 0x0B 5 rnd x y z = x ^^^ y ∧
    arrOp 0x30 5 rnd x y z = w (BitVec.ofInt 32 (c.toNat + ((List.range 8).map fun k => (x.extractLsb' (8 * k) 8).toInt * (y.extractLsb' (8 * k) 8).toInt).sum)) ∧
    ∀ opc k, opc ≤ 0x18 → k < 4 → (arrOp opc 4 rnd x y z).toNat / 2 ^ (16 * k) % 2 ^ 16 =
      arrFp .bf16 opc (rndOf rnd) (x.extractLsb' (16 * k) 16).toNat (y.extractLsb' (16 * k) 16).toNat (z.extractLsb' (16 * k) 16).toNat % 2 ^ 16

/-- R320: the control operators, each with its inputs A (0x24), B (0x25) and C (0x26), the outputs true (18) and false (19), and one ac of latency: `steer` sends A where C points, `carry` lets A in and then B while C is true, `invariant` repeats A while C is true, `merge` takes B or A as C says. -/
def Sys2Proof.Claim.ControlOperators : Prop :=
  ∀ (s : State) st e h a n, RunsOn s st e h a n →
    let tok := fun f => a.token (64 * e + f) n.ac
    let moves := fun i fs outs (o : OpSt) => ArrayStep i s h fun _ a' => Queues a a' (fs.map fun f => 64 * e + f) outs ∧ Net.opSt a' e = o
    let old := Net.opSt a e
    (∀ d c, n.opReady a e 1 = true → tok 0x24 = some d → tok 0x26 = some c →
      let out := if Net.isTrue c then 18 else 19
      let other := if Net.isTrue c then 19 else 18
      (n.fan e out ≠ [] → n.room a e out = true → moves (.steer st e) [0x24, 0x26] (sentOn n a e out (n.ac + 1) { d with psn := d.psn || c.psn }) old) ∧
      (n.fan e out ≠ [] → n.room a e out = false → exec (.steer st e) s = .next s) ∧
      (n.fan e out = [] → (d.sot || d.eot || d.swap) = false → moves (.steer st e) [0x24, 0x26] nothing old) ∧
      (n.fan e out = [] → (d.sot || d.eot || d.swap) = true → n.room a e other = true →
        moves (.steer st e) [0x24, 0x26] (sentOn n a e other (n.ac + 1) { d with v := false, data := 0, psn := d.psn || c.psn }) old)) ∧
    (n.opReady a e 2 = true →
      (∀ t, old.busy = false → tok 0x24 = some t → n.room a e 18 = true → moves (.carry st e) [0x24] (sentOn n a e 18 (n.ac + 1) t) { busy := true }) ∧
      (∀ c, old.busy = true → tok 0x26 = some c → Net.isTrue c = false → moves (.carry st e) [0x26] nothing {}) ∧
      ∀ c b, old.busy = true → tok 0x26 = some c → Net.isTrue c = true → tok 0x25 = some b → n.room a e 18 = true →
        moves (.carry st e) [0x25, 0x26] (sentOn n a e 18 (n.ac + 1) { b with psn := b.psn || c.psn }) old) ∧
    (n.opReady a e 3 = true →
      (∀ t, old.held = none → tok 0x24 = some t → n.room a e 18 = true → moves (.invariant st e) [0x24] (sentOn n a e 18 (n.ac + 1) t) { busy := true, held := some t }) ∧
      (∀ v c, old.held = some v → tok 0x26 = some c → Net.isTrue c = false → moves (.invariant st e) [0x26] nothing {}) ∧
      ∀ v c, old.held = some v → tok 0x26 = some c → Net.isTrue c = true → n.room a e 18 = true →
        moves (.invariant st e) [0x26] (sentOn n a e 18 (n.ac + 1) { v with psn := v.psn || c.psn }) old) ∧
    (∀ c t, n.opReady a e 4 = true → tok 0x26 = some c → n.room a e 18 = true →
      let f := if Net.isTrue c then 0x25 else 0x24
      tok f = some t → moves (.merge st e) [f, 0x26] (sentOn n a e 18 (n.ac + 1) { t with psn := t.psn || c.psn }) old) ∧
    (tok 0x26 = none → exec (.steer st e) s = .next s ∧ exec (.merge st e) s = .next s)

/-- Firings of processing elements and control operators, and the operations of a slot. The statement is the conjunction of its parts, each described at its definition. -/
def Obligations.ArrayElements : Prop := Sys2Proof.Claim.ProcessingElements ∧ Sys2Proof.Claim.ControlOperators ∧ Sys2Proof.Claim.ArrayOperations

/-- The counter of dropped tokens of a partition (R360). -/
def dropsOf (x : Stack) (k : Nat) : Nat := x.field 0 0 1011 (16 * k + 3) + 65536 * x.field 0 0 1011 (16 * k + 4)

/-- R316, R344, R448, R327, R328, R329, R335: a router sends the head of an incoming track, a marker too, on every track that takes it, when all have room, and a guard counts a token that would leave the partition. A node takes a group of four tokens and adds each row's sum of products, and at EOT sends its eight results.
A gate holds a token's operation for its round, with at most 64 held, and a token that names no operation sets ALIGN. A PE, and a node once its last group is in its partials, passes on a marker that stands at each of its inputs. -/
def Sys2Proof.Claim.NetworkSteps : Prop :=
  (∀ (s : State) st e src h a n t, RunsOn s st e h a n → src ≠ 17 → src ≠ 18 → src ≠ 19 → a.head (64 * e + src) n.ac = some t → n.fan e src ≠ [] → a.fresh (64 * e + src) n.ac = true →
    (n.room a e src = false → exec (.routeHop st e src) s = .next s) ∧
    (n.room a e src = true → ArrayStep (.routeHop st e src) s h fun u a' => Queues a a' [64 * e + src] (sentOn n a e src (n.ac + 1) t) ∧ a'.fresh (64 * e + src) n.ac = false ∧
      let lost := if t.mark then 0 else ((n.fan e src).filter fun f => decide ((n.dest e f).1 = .guard)).length
      dropsOf (u.stk st) h.k = if lost = 0 then dropsOf (s.stk st) h.k else (dropsOf (s.stk st) h.k + lost) % 2 ^ 32)) ∧
  (∀ (s : State) st i h a n, let e := 832 + i
    RunsOn s st e h a n → ∀ t0 t1 t2 t3 : Tok, (List.range 4).map (fun t => a.token (64 * e + t) n.ac) = [some t0, some t1, some t2, some t3] →
    a.fresh (64 * e) n.ac = true → t0.swap = false → (∃ t ∈ [t0, t1, t2, t3], t.v = true) →
    let x := Net.nodeSt a i
    let d := fun t => let q := [t0, t1, t2, t3].getD t t0; if q.v then q.data.toNat else 0
    (n.g.fmt i = 1 → t0.eot = false → ArrayStep (.mvStep st i) s h fun _ a' => Queues a a' ((List.range 4).map fun t => 64 * e + t) nothing ∧
      let x' := Net.nodeSt a' i
      x'.vpsn = (x.vpsn || x.apsn || [t0, t1, t2, t3].any fun t => t.psn) ∧ x'.active = x.active ∧
      ∀ r < 16, FMap.at' false x'.live r = true ∧ FMap.at' 0 x'.partials r =
        let v := fun j => valueOf .bf16 (nbits (d (j / 4)) (16 * (j % 4)) 16)
        let q := mvGroup 1 x.active r v
        BitVec.ofNat 32 (if FMap.at' false x.live r then addF32 (FMap.at' 0 x.partials r).toNat q else q)) ∧
    (n.g.fmt i ≠ 0 → t0.eot = true → n.resultRoom a e = true → ArrayStep (.mvStep st i) s h fun _ a' =>
      ∃ ts : List Tok, ts.length = 8 ∧ (∀ k < 8, ∃ t, ts[k]? = some t ∧ t.v = true ∧ t.mark = false ∧ (t.sot = true ↔ k = 0) ∧ (t.eot = true ↔ k = 7) ∧ t.ctx = n.c) ∧
        Queues a a' ((List.range 4).map fun t => 64 * e + t) (fun q => if q = 64 * taker e + 20 then ((List.range 8).zip ts).map fun p => (after a q (n.ac + 8) + p.1, p.2) else []) ∧
        (Net.nodeSt a' i).partials = [] ∧ (Net.nodeSt a' i).live = [] ∧ (Net.nodeSt a' i).vpsn = false)) ∧
  (∀ (s : State) st g h a n t, let e := 864 + g
    RunsOn s st e h a n → a.head (64 * e) n.ac = some t → n.g.gateOn g = true → a.fresh (64 * e) n.ac = true →
    let held := fun (a : ACtx) r => FMap.at' [] a.gates (64 * r + g)
    let r := a.roundAt (elemPt e 0)
    (t.mark = true → ArrayStep (.gateToken st g) s h fun _ a' => Queues a a' [64 * e] nothing ∧ a'.gates = a.gates ∧ a'.roundsPast (elemPt e 0) = r) ∧
    (t.mark = false → 64 ≤ a.gateHeld g → exec (.gateToken st g) s = .next s) ∧
    (t.mark = false → t.v = true → t.psn = false → bits t.data 20 12 = 0 → a.gateHeld g < 64 →
      ArrayStep (.gateToken st g) s h fun _ a' => Queues a a' [64 * e] nothing ∧ held a' r = held a r ++ [t] ∧ ∀ k, k ≠ 64 * r + g → FMap.at' [] a'.gates k = FMap.at' [] a.gates k) ∧
    (t.mark = false → (t.v = false ∨ t.psn = true ∨ bits t.data 20 12 ≠ 0) → a.gateHeld g < 64 → ArrayStep (.gateToken st g) s h fun _ a' =>
      Queues a a' [64 * e] nothing ∧ a'.gates = a.gates ∧ a'.poisoned = (a.poisoned || t.psn) ∧ (t.v = true → bits t.data 20 12 ≠ 0 → nbit (FMap.at' 0 a'.rerr (n.g.region e)) 0 = true))) ∧
  (∀ (s : State) st e h a n, RunsOn s st e h a n → e < 832 → n.g.oper e = 0 → n.g.pe e = true → n.peInputs e ≠ [] → (∀ f ∈ n.peInputs e, a.marked (64 * e + f) n.ac = true) → a.fresh (64 * e + 17) n.ac = true → n.room a e 17 = true →
    ∃ m : Tok, m.mark = true ∧ ArrayStep (.markerForward st e) s h fun _ a' =>
      Queues a a' ((n.peInputs e).map fun f => 64 * e + f) (sentOn n a e 17 (n.ac + 1) m) ∧ a'.roundsPast (elemPt e 17) = a.roundAt (elemPt e 17)) ∧
  ∀ (s : State) st i h a n, let e := 832 + i
    RunsOn s st e h a n → i < 32 → n.g.fmt i ≠ 0 → (∀ t < 4, a.marked (64 * e + t) n.ac = true) → a.fresh (64 * e) (n.ac - 3) = true → n.emitRoom a e 0 = true →
    ∃ m : Tok, m.mark = true ∧ ArrayStep (.markerForward st e) s h fun _ a' =>
      Queues a a' ((List.range 4).map fun t => 64 * e + t) (fun q => if q = 64 * taker e + 20 then [(after a q (n.ac + 1), m)] else []) ∧ a'.roundsPast (elemPt e 0) = a.roundAt (elemPt e 0) ∧
      a'.next.nodes.fetch i = some (Net.nodeSt a i)

/-- Hops, guards, matrix-vector nodes, gates and forwarded markers. The statement is the conjunction of its parts, each described at its definition. -/
def Obligations.ArrayNetwork : Prop := Sys2Proof.Claim.NetworkSteps

/-- The state in which a function of an element has begun its one firing of this ac (R316). -/
def began (s : State) (h : ArrH) (fn : Nat) : State := s.updArr h fun a => a.fired fn s.ac

/-- R316, R321 to R326, R343, R365: what a stream port of one track does in an ac. A read port sends the next of the tokens that it has fetched, in the running context, with SOT and EOT at the ends of a trick and SWAP where its pattern swaps; a weight port's node loads the next of them into its tile. Both fetch in the slots of their partition, DSHARE of every 16 ac, up to
16 tokens a track ahead (DESIGN CHOICE, log entry 42). A store port takes a token into the write-behind of its round, or waits while 64 KiB are held there, and takes a marker; a port that waits for a command, or one that has acted in this ac, does nothing. A word that a copy firing sent goes to the port of the context whose tag it bears, and sets CHANERR where there is none; a copy-fed port sends its words in turn. -/
def Obligations.StreamPorts : Prop :=
  (∀ (s : State) st p h a n, RunsOn s st (768 + p) h a n → a.fresh (64 * (768 + p)) n.ac = false → exec (.storePortConsume st p) s = .next s) ∧
  -- DSHARE of every 16 ac
  (∀ (s : State) st k, ((List.range 16).countP fun i => ({ s with cc := s.cc + 2 * i } : State).slotOpen st k) = min 16 ((s.stk st).field 0 0 1010 (16 * k + 11) % 32)) ∧
  -- a read port sends what it has fetched, and then fetches ahead
  (∀ (s : State) st p h a n pt d psn rest, let e := 768 + p
    RunsOn s st e h a n → n.g.mode p = 1 → n.g.width p = 1 → s.runs h = true → a.pat p = some pt →
    let q := a.port p
    let ready := a.fresh (64 * e) n.ac = true ∧ q.fetched = (d, psn) :: rest ∧ (q.tok ≠ 0 ∨ n.mayStart a p = true) ∧ n.emitRoom a e 0 = true
    (a.fresh (64 * e) n.ac = false → exec (.readPortEmit st p) s = .next (s.fetchSlot st p)) ∧
    (a.fresh (64 * e) n.ac = true → q.fetched = [] → exec (.readPortEmit st p) s = .next ((began s h (64 * e)).fetchSlot st p)) ∧
    (ready → let os := pt.ordinals q.pos q.tok
      let last := q.tok + 1 = pt.tokens
      ∃ t, exec (.readPortEmit st p) s = .next (t.fetchSlot st p) ∧ ArrayMoves s t h fun _ a' =>
        ∃ tok : Tok, Queues a a' [] (fun i => if i = 64 * taker e + 20 then [(after a i (s.ac + 1), tok)] else []) ∧
        (tok.sot = true ↔ q.tok = 0) ∧ (tok.eot = true ↔ last) ∧ (tok.v = true ↔ os ≠ []) ∧ tok.data = (if os = [] then 0 else d) ∧ tok.psn = psn ∧ tok.mark = false ∧ tok.gen = a.gen ∧ tok.ctx = h.c ∧
        (tok.swap = true ↔ q.tok = 0 ∧ pt.swaps (q.pos * pt.trick) = true) ∧
        a'.port p = if last then { q with pos := q.pos + 1, tok := 0, since := q.since + 1, fetched := rest } else { q with tok := q.tok + 1, fetched := rest })) ∧
  -- a port fetches once an ac, in a slot of its partition, up to 16 tokens a track
  (∀ (s : State) st p, (∀ k, (s.stk st).ptab.owner (768 + p) = some k → s.slotOpen st k = false) → s.fetchSlot st p = s) ∧
  (∀ (s : State) p k (h : ArrH) a, (s.stk h.st).ptab.owner (768 + p) = some k → s.slotOpen h.st k = true → s.loadedCtxs h.st k = [h] → s.arr h = some a →
    let n := s.net h
    let fn := 64 * (768 + p) + 1
    ((n.g.mode p ≠ 1 ∧ n.g.mode p ≠ 5) ∨ a.fresh fn n.ac = false → s.fetchSlot h.st p = s) ∧
    (n.g.mode p = 1 ∨ n.g.mode p = 5 → a.fresh fn n.ac = true → s.fetchSlot h.st p = (began s h fn).fetchUpTo h p (16 * n.g.width p))) ∧
  (∀ (s : State) p (h : ArrH) a pt m, s.arr h = some a → s.arrMoves h a = true → a.pat p = some pt →
    let n := s.net h
    let q := a.port p
    let w := n.g.width p
    let len := if n.g.mode p = 5 then pt.tokens else (pt.tokens + w - 1) / w * w
    let i := (if n.g.mode p = 5 then q.pos else q.pos * len + q.tok) + q.fetched.length
    n.g.mode p = 1 ∨ n.g.mode p = 5 →
    (16 * w ≤ q.fetched.length ∨ pt.tricks * len ≤ i ∨ q.fault = true → s.fetchUpTo h p m = s) ∧
    ∀ u r, q.fetched.length < 16 * w → i < pt.tricks * len → q.fault = false → s.readToken h a p pt (pt.ordinals (i / len) (i % len)) = (u, r) →
      (r = none → s.fetchUpTo h p (m + 1) = u) ∧
      ∀ v, r = some v → u.stks = s.stks → ∃ (t : State) (a' : ACtx), s.fetchUpTo h p (m + 1) = t.fetchUpTo h p m ∧ t = { u with stks := t.stks } ∧ t.arr h = some a' ∧
        a'.bufs = a.bufs ∧ a'.port p = { q with fetched := q.fetched ++ [v] }) ∧
  (∀ (s : State) st p h a n pt t, let e := 768 + p
    RunsOn s st e h a n → a.fresh (64 * e) n.ac = true → n.g.mode p = 2 → n.g.width p = 1 → a.pat p = some pt →
    let q := a.port p
    let r := a.roundAt (elemPt e 0)
    let key := 64 * r + p
    let next := if q.tok + 1 = pt.tokens then { q with pos := q.pos + 1, tok := 0, trk := 0 } else { q with tok := q.tok + 1, trk := 0 }
    q.fault = false → q.trk = 0 → a.head (64 * e) n.ac = some t →
    (t.mark = true → ArrayStep (.storePortConsume st p) s h fun _ a' => Queues a a' [64 * e] nothing ∧ a'.roundsPast (elemPt e 0) = r ∧ a'.next.ports.fetch p = some q) ∧
    (t.mark = false → pt.tricks ≤ q.pos → ArrayStep (.storePortConsume st p) s h fun _ a' => Queues a a' [64 * e] nothing ∧ a'.wb = a.wb ∧ nbit (FMap.at' 0 a'.rerr (n.g.region e)) 0 = true) ∧
    (t.mark = false → q.pos < pt.tricks → (t.v = false ∨ pt.ordinals q.pos q.tok = []) →
      ArrayStep (.storePortConsume st p) s h fun _ a' => Queues a a' [64 * e] nothing ∧ a'.wb = a.wb ∧ a'.port p = next) ∧
    ∀ u ks, t.mark = false → q.pos < pt.tricks → t.v = true → pt.ordinals q.pos q.tok ≠ [] →
      let os := pt.ordinals q.pos q.tok
      let b := began s h (64 * e)
      (65536 < a.held p + os.length * 2 ^ pt.esz → exec (.storePortConsume st p) s = .next b) ∧
      (a.held p + os.length * 2 ^ pt.esz ≤ 65536 → b.streamAddrs h (a.fired (64 * e) n.ac) p .store (os.map pt.addr) = (u, some ks) → u.stks = b.stks → ks.Nodup →
        (∀ i j k l : Nat, i < 2 ^ pt.esz → j < 2 ^ pt.esz → ks[k]?.any (fun x => ks[l]?.any fun y => x + i == y + j) = true → k = l) →
        ∃ v a', exec (.storePortConsume st p) s = .next v ∧ v = { u with stks := v.stks } ∧ v.arr h = some a' ∧ Queues a a' [64 * e] nothing ∧ a'.port p = next ∧
          (∀ x, FMap.fetch (FMap.at' [] a'.wb key) x = match (List.range ks.length).findSome? fun j => if ks.getD j 0 ≤ x ∧ x < ks.getD j 0 + 2 ^ pt.esz then some (2 ^ pt.esz * j + (x - ks.getD j 0)) else none with
            | some o => some (t.data.extractLsb' (8 * o) 8)
            | none => FMap.fetch (FMap.at' [] a.wb key) x) ∧ (t.psn = true → ∀ k ∈ ks, FMap.at' false a'.wbPois (2 ^ 48 * r + lineOf k) = true))) ∧
  (∀ (s : State) st i p h a n d psn rest, let e := 832 + i
    RunsOn s st e h a n → a.fresh (64 * e + 1) n.ac = true → ([2 * i, 2 * i + 1].filter fun p => n.t.port n.k p && n.g.mode p == 5) = [p] → s.runs h = true →
    n.g.fmt i ≠ 0 → n.g.width p = 1 → s.holder st (768 + p) = some h →
    let q := a.port p
    let x := Net.nodeSt a i
    let b := began s h (64 * e + 1)
    let ends := fun (t : State) => exec (.weightLoad st i) s = .next ((t.fetchSlot st (2 * i)).fetchSlot st (2 * i + 1))
    (tileTokens (n.g.fmt i) ≤ x.loaded ∨ q.fetched = [] → ends b) ∧
    (x.loaded < tileTokens (n.g.fmt i) → q.fetched = (d, psn) :: rest → ∃ t, ends t ∧ ArrayMoves s t h fun _ a' =>
      a'.bufs = a.bufs ∧ a'.port p = { q with pos := q.pos + 1, fetched := rest } ∧
      Net.nodeSt a' i = { x with loading := x.loading.ins x.loaded d, loaded := x.loaded + 1, lpsn := x.lpsn || psn })) ∧
  (∀ (s : State) st p k tag d rest, FMap.at' [] (s.stk st).inbox p = (tag, d) :: rest → (s.stk st).ptab.owner (768 + p) = some k →
    let fed := (s.loadedCtxs st k).filter fun h => (s.planeFor h).mode p == 3
    let u := s.deliverWord st p
    (∀ h a, (fed.find? fun h => s.planeFor h (768 + p) 2 == tag.toNat) = some h → s.arr h = some a → s.runs h = false → (∀ g, s.holder st (768 + p) = some g → s.runs g = false) →
      let q := a.port p
      (4096 ≤ q.words.length + q.retained.length → exec (.copyFedWord st p) s = .next s) ∧
      (q.words.length + q.retained.length < 4096 → ∃ t a', exec (.copyFedWord st p) s = .next t ∧ t.arr h = some a' ∧ a'.port p = { q with words := q.words ++ [d] } ∧ a'.bufs = a.bufs ∧
        FMap.at' [] (t.stk st).inbox p = rest ∧ t = { s with stks := t.stks })) ∧
    (∀ h a, fed = [h] → s.planeFor h (768 + p) 2 ≠ tag.toNat → s.arr h = some a → ∃ a', u.arr h = some a' ∧ nbit (FMap.at' 0 a'.rerr ((s.planeFor h).region (768 + p))) 1 = true ∧
      FMap.at' [] (u.stk st).inbox p = rest) ∧ exec (.copyFedWord st p) s = .next (u.emitWord st p)) ∧
  ∀ (s : State) st p h a n d ds, let e := 768 + p
    RunsOn s st e h a n → FMap.at' [] (s.stk st).inbox p = [] → n.g.mode p = 3 → s.runs h = true → a.fresh (64 * e) n.ac = true → n.emitRoom a e 0 = true →
    let q := a.port p
    q.words = d :: ds → (q.tok ≠ 0 ∨ (n.g.wcount p ≤ q.words.length ∧ n.mayStart a p = true)) →
    let last := q.tok + 1 = n.g.wcount p
    ArrayStep (.copyFedWord st p) s h fun _ a' =>
      (∃ tok : Tok, tok.data = d ∧ tok.v = true ∧ tok.mark = false ∧ (tok.sot = true ↔ q.tok = 0) ∧ (tok.eot = true ↔ last) ∧ tok.psn = false ∧
        Queues a a' [] (fun i => if i = 64 * taker e + 20 then [(after a i (s.ac + 1), tok)] else [])) ∧
      a'.port p = { q with words := ds, retained := q.retained ++ [d], tok := if last then 0 else q.tok + 1
                           pos := if last then q.pos + 1 else q.pos, since := if last then q.since + 1 else q.since }

/-! ### The running of array contexts -/

/-- The partition and context of a configuration that is no successor. -/
def ctxOf (st k c : Nat) : ArrH := ⟨st, k, c, false⟩

/-- The partition's running context, once the scheduler has given it to c, or to none. -/
def Given (s t : State) (st k : Nat) (c : Option Nat) : Prop :=
  t = { s with stks := t.stks } ∧ (∃ p, (t.stk st).parts.fetch k = some p ∧ p.running = c ∧ p.tricks = 0) ∧ (∀ j, j ≠ st → t.stk j = s.stk j) ∧
    ∀ g : ArrH, t.arr { g with st := st } = (s.arr { g with st := st }).map fun a => { a with bcount := (t.arr { g with st := st }).elim 0 fun b => b.bcount }

/-- R330 to R332: an idle partition takes up the one context whose predicate is true; at a trick boundary a context that is no longer eligible gives way to the one that is, or leaves the partition idle, and one that alone is eligible stays; away from a boundary, a successor's among them, nothing changes. An element takes the plane of the running context
once no token of the outgoing one stands in it or can still reach it, and not before. (What a port without a next trick asks, and which element the last token has left, are the model's reading: log entry 43, DEDUCED.) -/
def Sys2Proof.Claim.ArrayScheduling : Prop :=
  (∀ (s : State) st k c, (FMap.at' {} (s.stk st).parts k).running = none → c < 4 → (∀ d < 4, s.wantsOut st k d = false) →
    ((∀ d < 4, s.eligible st k d = true ↔ d = c) → ∃ t, exec (.predicateTrue st k) s = .next t ∧ Given s t st k (some c)) ∧
    ((∀ d < 4, s.eligible st k d = false) → exec (.predicateTrue st k) s = .next s)) ∧
  (∀ (s : State) st k c d, (FMap.at' {} (s.stk st).parts k).running = none → c < 4 → d < 4 → (∀ i < 4, s.wantsOut st k i = false) → s.eligible st k c = true → s.eligible st k d = true →
    s.ctxPrio st k d < s.ctxPrio st k c → (∀ i < 4, i ≠ c → i ≠ d → s.eligible st k i = false) → ∃ t, exec (.predicateTrue st k) s = .next t ∧ Given s t st k (some c)) ∧
  (∀ (s : State) st k c p a, (s.stk st).parts.fetch k = some p → p.running = some c → s.arr (ctxOf st k c) = some a →
    let n := s.net (ctxOf st k c)
    let i := Instr.trickBoundary st k
    let within := ∃ b, s.arr ⟨st, k, c, true⟩ = some b ∧ ∃ q ∈ (s.net ⟨st, k, c, true⟩).sources, (b.port q).tok ≠ 0
    (n.atBoundary a = false ∨ within → exec i s = .next s) ∧
    (n.atBoundary a = true → ¬within → c < 4 → (∀ d < 4, s.wantsOut st k d = false) →
      (∀ d, d < 4 → d ≠ c → (∀ j < 4, s.eligible st k j = true ↔ j = d) → ∃ t, exec i s = .next t ∧ Given s t st k (some d)) ∧
      ((∀ j < 4, s.eligible st k j = false) → ∃ t, exec i s = .next t ∧ Given s t st k none) ∧
      ((∀ j < 4, s.eligible st k j = true ↔ j = c) → ∃ t, exec i s = .next t ∧ t = { s with stks := t.stks } ∧
        (t.stk st).parts.fetch k = some { p with tricks := p.tricks + (n.progress a - a.bcount) }))) ∧
  ∀ (s : State) st k e c p, (s.stk st).parts.fetch k = some p → p.running = some c →
    let x := s.stk st
    let i := Instr.planeChange st k e
    let takes := exec i s = .next (s.setStk st { x with plane := x.plane.ins e c })
    (x.ptab.owns k e = false → exec i s = .next s) ∧
    (x.ptab.owns k e = true → x.plane.fetch e = none → takes) ∧
    ∀ o, x.ptab.owns k e = true → x.plane.fetch e = some o →
      ((o = c ∨ s.leftBy st k o e = false) → exec i s = .next s) ∧ (o ≠ c → s.leftBy st k o e = true → takes) ∧
      ((∀ h a, (h = ctxOf st k o ∨ h = ⟨st, k, o, true⟩) → s.arr h = some a → ∀ q ∈ a.bufs, q.2 = []) → s.leftBy st k o e = true) ∧
      ∀ h a q, (h = ctxOf st k o ∨ h = ⟨st, k, o, true⟩) → s.arr h = some a → q ∈ a.bufs → q.2 ≠ [] → (q.1 / 64 = e ∨ ∃ r ∈ (s.net h).after q.1, r / 64 = e) → s.leftBy st k o e = false

/-- R414, R339, R340: a rollback of a context begins: it is counted by its cause, its record is held, and the context stands until that is written. -/
def RollsBack (s : State) (i : Instr) (h : ArrH) (code cause region : Nat) : Prop :=
  ∃ t r x a a', exec i s = .next t ∧ t = { s with stks := t.stks, dies := t.dies } ∧ t.stk h.st = x ∧ s.arr h = some a ∧ t.arr h = some a' ∧ a' = { a with undo := some (code, region) } ∧
    x.rollb = satInc (s.stk h.st).rollb ∧ (code = 0x20 → x.regc = satByte (s.stk h.st).regc cause ∧ x.arue = (s.stk h.st).arue) ∧ (code = 0x23 → x.arue = satInc (s.stk h.st).arue ∧ x.regc = (s.stk h.st).regc) ∧
    (t.die (h.st / 6)).held = (s.die (h.st / 6)).held ++ [r] ∧ r.code = code ∧ r.source = 5 ∧ r.tag = a.tag ∧ r.cause = (if code = 0x20 then cause else 0) ∧
    bits r.srcid 0 4 = h.st ∧ bits r.srcid 10 2 = h.k ∧ bits r.srcid 12 2 = h.c ∧ bits r.srcid 14 4 = region

/-- R334 to R340: a source that owes a marker injects it on every track at the end of a trick, and begins the wave if none is under way; a successor that is spliced onto a context begins none before it has the context. A wave whose markers have passed every element, and no longer hop between routers, commits: the bytes of the write-behind are in DRAM, the snapshot stands, and a wave that ends the patterns ends the configuration; one with a region that fails its
check, or one that takes longer than MARKTO, begins a rollback, as an uncorrectable error does. ROLLBACK, once its record is written, brings the snapshot back, and stops a configuration that has rolled back already since its last commit, or one that stands after a stream fault of cause 2 until that record is written. (That a marker stall names region 0, that an uncorrectable error acts on the successor alone where it lies there, and how FINAL and a pre-emption meet, are the model's reading: log entry 43, DEDUCED.) -/
def Obligations.MarkersAndCommits : Prop :=
  (∀ (s : State) st k c p P a n, st < 12 → k < 4 → c < 4 → (s.stk st).parts.fetch k = some P → P.running = some c →
    RunsOn s st (768 + p) (ctxOf st k c) a n → n.sources = [p] →
    let q := a.port p
    let e := 768 + p
    let w := if n.g.mode p = 3 then 1 else n.g.width p
    ((q.tok ≠ 0 ∨ n.markDue a p = false ∨ a.fresh (64 * e) n.ac = false) → exec (.markerInject st k) s = .next s) ∧
    (q.tok = 0 → q.fault = false → a.fresh (64 * e) n.ac = true → n.markDue a p = true → (∀ t < w, n.emitRoom a e t = true) → a.wave = none →
      ∃ m : Tok, m.mark = true ∧ m.v = false ∧ m.preempt = (a.preemptReq && !n.finished a p) ∧ m.data.toNat = (a.round + 1) % 2 ^ 32 + (if n.finished a p then 2 ^ 32 else 0) ∧
        ArrayStep (.markerInject st k) s (ctxOf st k c) fun _ a' => (∀ i, FMap.at' [] a'.bufs i = FMap.at' [] a.bufs i ++ if 64 * taker e + 20 ≤ i ∧ i < 64 * taker e + 20 + w then [(after a i (n.ac + 1), m)] else []) ∧
          a'.wave = some { round := a.round + 1, final := n.finished a p, preempt := a.preemptReq && !n.finished a p, since := n.ac } ∧
          a'.port p = { q with since := 0 } ∧ a'.next.ports.fetch p = some { q with since := 0, words := q.retained, retained := [], fetched := [] } ∧ a'.roundsPast (elemPt e 0) = a.roundAt (elemPt e 0))) ∧
  (∀ (s : State) st k c a p, (s.net ⟨st, k, c, true⟩).markDue a p = false) ∧
  (∀ (s : State) st k c a w, st < 12 → k < 4 → c < 4 → let h := ctxOf st k c
    s.arr h = some a → s.arrMoves h a = true → a.wave = some w →
    let n := s.net h
    n.sources ≠ [] →
    ((∃ p ∈ n.sources, a.injected p = false) → exec (.waveCommit st k c) s = .next s) ∧
    ((∃ pt ∈ n.functionPoints, a.roundsPast pt ≠ w.round) → exec (.waveCommit st k c) s = .next s) ∧
    (n.tracksClear a = false → exec (.waveCommit st k c) s = .next s) ∧
    ((∀ p ∈ n.sources, a.injected p = true) → (∀ pt ∈ n.functionPoints, a.roundsPast pt = w.round) → n.tracksClear a = true →
      (∀ r cause, a.badRegion w.round = some (r, cause) → RollsBack s (.waveCommit st k c) h 0x20 cause r) ∧
      (a.badRegion w.round = none → (∀ p, n.g.notify p = none) → n.ports 4 = [] → (∀ g < 64, FMap.at' [] a.gates (64 * w.round + g) = []) → (∀ q ∈ a.drops, q.1 / 65536 ≠ w.round) →
        (∀ q ∈ a.wbPois, q.1 / 2 ^ 48 ≠ w.round) → (∀ l, s.l2d.fetch l = none) → (∀ p, FMap.sorted (FMap.at' [] a.wb (64 * w.round + p)) = true) →
        (∀ p ∈ n.ports 2, ∀ q ∈ n.ports 2, p ≠ q → ∀ i, FMap.fetch (FMap.at' [] a.wb (64 * w.round + p)) i = none ∨ FMap.fetch (FMap.at' [] a.wb (64 * w.round + q)) i = none) →
        ∃ t, exec (.waveCommit st k c) s = .next t ∧
          (∀ i, (∀ p ∈ n.ports 2, FMap.fetch (FMap.at' [] a.wb (64 * w.round + p)) i = none) → t.dramByte i = s.dramByte i) ∧
          (∀ p ∈ n.ports 2, ∀ i b, FMap.fetch (FMap.at' [] a.wb (64 * w.round + p)) i = some b → t.dramByte i = b) ∧
          (w.final = false → ∃ a', t.arr h = some a' ∧ a'.round = w.round ∧ a'.wave = none ∧ a'.rolled = false ∧ a'.snap = a'.next ∧ a'.snap.ops = a.next.ops ∧ a'.snap.nodes = a.next.nodes ∧ a'.bufs = a.bufs ∧
            a'.parked = (a.parked || w.preempt) ∧ ∀ p < 64, FMap.at' [] a'.wb (64 * w.round + p) = []) ∧
          (w.final = true → (s.stk st).splices.fetch (4 * k + c) = none → t.arr h = none ∧
            ∃ (v : State) (sig : Sig), t = v.arrive (st / 6) 3 a.tag a.join a.scope a.poisoned sig 6 a.team (320 + 4 * (st / 6)) ∧ v = { s with dram := v.dram, dirCopy := v.dirCopy, watch := v.watch, stks := v.stks } ∧ v.arr h = none)))) ∧
  (∀ (s : State) st k c a w, st < 12 → k < 4 → c < 4 → let h := ctxOf st k c
    s.arr h = some a → a.wave = some w → a.undo = none →
    (a.faulted = false → (s.planeFor h).markto < s.ac - w.since → RollsBack s (.markerStall st k c) h 0x20 3 0) ∧
    (a.faulted = false → s.ac - w.since ≤ (s.planeFor h).markto → exec (.markerStall st k c) s = .next s)) ∧
  (∀ (s : State) st k c succ region a, st < 12 → k < 4 → c < 4 → region < 16 → let h : ArrH := ⟨st, k, c, succ⟩
    s.arr h = some a → (a.undo = none → RollsBack s (.arrayUe st k ⟨c, succ, region⟩) h 0x23 0 region) ∧ (a.undo ≠ none → exec (.arrayUe st k ⟨c, succ, region⟩) s = .next s)) ∧
  (∀ (s : State) st k c a code region, st < 12 → k < 4 → c < 4 → let h := ctxOf st k c
    s.arr h = some a → (s.stk st).splices.fetch (4 * k + c) = none → a.undo = some (code, region) → code ≠ 0x22 → region < 16 →
    let id : W32 := BitVec.ofNat 32 (st + 1024 * k + 4096 * c + 16384 * region)
    ((∃ r ∈ (s.die (st / 6)).held, r.source = 5 ∧ r.srcid = id) → exec (.rollback st k c) s = .next s) ∧
    ((∀ r ∈ (s.die (st / 6)).held, ¬(r.source = 5 ∧ r.srcid = id)) →
      (a.rolled = false → ArrayStep (.rollback st k c) s h fun _ a' => a'.dyn.ops = a.snap.ops ∧ a'.dyn.nodes = a.snap.nodes ∧ a'.next = a.snap ∧ a'.bufs = [] ∧ a'.wb = [] ∧ a'.gates = [] ∧ a'.reds = [] ∧ a'.bal = [] ∧
        a'.wave = none ∧ a'.undo = none ∧ a'.rolled = true ∧ a'.round = a.round ∧
        ∀ p q, a.dyn.ports.fetch p = some q → a'.port p = { FMap.at' {} a.snap.ports p with words := q.retained ++ q.words, retained := [], fault := false, fetched := [] }) ∧
      (a.rolled = true → ∃ t v : State, exec (.rollback st k c) s = .next t ∧ t = v.arrive (st / 6) 3 a.tag a.join a.scope true a.sig 6 a.team (320 + 4 * (st / 6)) ∧ v.arr h = none ∧
        (v.stk st).stops = satInc (s.stk st).stops ∧ v.waves = s.waves ∧ v.dram = s.dram ∧ v.l2d = s.l2d))) ∧
  ∀ (s : State) st k c a p, st < 12 → k < 4 → c < 4 → p < 64 → let h := ctxOf st k c
    s.arr h = some a → (s.stk st).splices.fetch (4 * k + c) = none → a.undo = some (0x22, p) →
    let id : W32 := BitVec.ofNat 32 (st + 16 * p + 1024 * k + 4096 * c + 16384 * (s.planeFor h).region (768 + p))
    ((∃ r ∈ (s.die (st / 6)).held, r.source = 2 ∧ r.srcid = id) → exec (.rollback st k c) s = .next s) ∧
    ((∀ r ∈ (s.die (st / 6)).held, ¬(r.source = 2 ∧ r.srcid = id)) →
      ∃ t v : State, exec (.rollback st k c) s = .next t ∧ t = v.arrive (st / 6) 3 a.tag a.join a.scope true a.sig 6 a.team (320 + 4 * (st / 6)) ∧ v.arr h = none ∧
        (v.stk st).stops = satInc (s.stk st).stops ∧ v.waves = s.waves ∧ v.dram = s.dram ∧ v.l2d = s.l2d)

/-- R406: a command of a partition ends with a STATUS. -/
def Ended (s : State) (st k : Nat) (v : W32) : State :=
  s.setStk st { s.stk st with parts := (s.stk st).parts.upd k fun p => { p with stat := v, busy := none } }

/-- R341, R406: the commands of a partition. One that is not in progress does nothing. PREEMPT asks the context to stop at its next commit, and ends, with 0, once the context is parked, or at once with its committed snapshot while a source waits for a command (the scheduler's own request does the same; log entry 43); SAVE puts a parked context, and a successor spliced onto it, into its area, from which RESTORE brings it back to the same partition shape (the area holds the model's own data, from which a RESTORE starts it again, and its length is free, so that status 3 is for one that the length carries beyond the memory: log entry 31, DESIGN CHOICE); RESUME
lets a parked context run; STOP ends a configuration with a poisoned arrival. A context in the wrong state gives 2, and a bad address 3. -/
def Obligations.ArrayCommands : Prop :=
  ∀ (s : State) st k c p, st < 12 → (s.stk st).parts.fetch k = some p →
    let h := ctxOf st k c
    let key := 4 * k + c
    let ends := fun (i : Instr) (u : State) v => exec i s = .next (Ended u st k v)
    let portWaits := fun (a : ACtx) => ∃ q ∈ a.dyn.ports, q.2.fault = true ∧ ((s.net h).g.mode q.1 = 1 ∨ (s.net h).g.mode q.1 = 3 ∨ (s.net h).g.mode q.1 = 5)
    let area := p.saveAddr.toNat
    let fits := area % 4096 = 0 ∧ area < memTop ∧ area + (Config.saveLen area).toNat ≤ memTop
    let parks := fun (u : State) (a : ACtx) => ∃ a', u = { s with stks := u.stks } ∧ u.arr h = some a' ∧ a'.parked = true ∧ a'.preemptReq = false ∧ a'.dyn.ops = a.snap.ops ∧
      a'.dyn.nodes = a.snap.nodes ∧ a'.bufs = [] ∧ (u.stk st).parts.fetch k = some { p with running := if p.running = some c then none else p.running }
    (p.busy ≠ some (1, c) → exec (.preempt st k ⟨c, false⟩) s = .next s) ∧ (p.busy ≠ some (2, c) → exec (.save st k c) s = .next s) ∧ (p.busy ≠ some (3, c) → exec (.restore st k c) s = .next s) ∧
    (p.busy ≠ some (4, c) → exec (.resume st k c) s = .next s) ∧ (p.busy ≠ some (5, c) → exec (.stop st k c) s = .next s) ∧
    -- a request of the partition's scheduler
    ((∀ a, s.arr h = some a → a.parked = true) → exec (.preempt st k ⟨c, true⟩) s = .next s) ∧
    (∀ a, s.arr h = some a → a.parked = false → ((a.undo ≠ none ∨ ¬portWaits a) → ArrayStep (.preempt st k ⟨c, true⟩) s h fun _ a' => a' = { a with preemptReq := true }) ∧
      (a.undo = none → portWaits a → ∃ u, exec (.preempt st k ⟨c, true⟩) s = .next u ∧ parks u a)) ∧
    -- a request that is still asked for when the configuration completes goes to its successor
    (∀ a q, s.arr h = some a → (s.stk st).splices.fetch key = some q → ((s.stk st).freeCtx h).ctxs.fetch key = some { q.arr with preemptReq := a.preemptReq }) ∧
    (p.busy = some (1, c) →
      (s.arr h = none → ends (.preempt st k ⟨c, false⟩) s 2 ∧ ends (.arrayCommandDone st k) s 2) ∧
      ∀ a, s.arr h = some a →
        (a.parked = true → ends (.preempt st k ⟨c, false⟩) s 2 ∧ ends (.arrayCommandDone st k) s 0) ∧ (a.parked = false → exec (.arrayCommandDone st k) s = .next s) ∧
        (a.parked = false → (a.undo ≠ none ∨ ¬portWaits a) → ArrayStep (.preempt st k ⟨c, false⟩) s h fun _ a' => a' = { a with preemptReq := true }) ∧
        (a.parked = false → a.undo = none → portWaits a → ∃ u, ends (.preempt st k ⟨c, false⟩) u 0 ∧ parks u a)) ∧
    (p.busy = some (2, c) →
      (s.arr h = none → ends (.save st k c) s 2) ∧
      ∀ a, s.arr h = some a →
        (a.parked = false → ends (.save st k c) s 2) ∧
        (a.parked = true → (¬fits → ends (.save st k c) s 3) ∧
          (fits → ∃ u v, ends (.save st k c) u 0 ∧ u.saves.fetch area = some v ∧ v.arr = a ∧ v.stack = st ∧ v.next = ((s.stk st).splices.fetch key).map Splice.restart ∧ u.arr h = none ∧
            (u.stk st).splices.fetch key = none ∧ (∀ j, j ≠ area → u.saves.fetch j = s.saves.fetch j) ∧
            u = { s with stks := u.stks, saves := u.saves, l2d := u.l2d, dram := u.dram, peerCopy := u.peerCopy, free := u.free, watch := u.watch, dirCopy := u.dirCopy }))) ∧
    (p.busy = some (3, c) →
      ((s.arr h).isSome = true → ends (.restore st k c) s 2) ∧
      (s.arr h = none →
        (¬fits → ends (.restore st k c) s 3) ∧
        (fits → (s.saves.fetch area = none → ends (.restore st k c) s 2) ∧
          ∀ v, s.saves.fetch area = some v →
            let x := s.stk st
            let same := v.stack = st ∧ v.pcol.toNat = x.field 0 0 1010 (16 * k) ∧ v.masks = (List.range 10).map fun i => BitVec.ofNat 16 (x.field 0 0 1010 (16 * k + 1 + i))
            (¬same → ends (.restore st k c) s 2) ∧
            (same → ∃ u, ends (.restore st k c) u 0 ∧ u = { s with stks := u.stks } ∧ u.arr h = some v.arr ∧ (∀ q, v.next = some q → u.arr ⟨st, k, c, true⟩ = some q.arr) ∧ ∀ g : ArrH, g.st = st → g.key ≠ key → u.arr g = s.arr g)))) ∧
    (p.busy = some (4, c) →
      ((s.arr h).all (fun a => !a.parked) = true → ends (.resume st k c) s 2) ∧
      ∀ a, s.arr h = some a → a.parked = true → ∃ u, ends (.resume st k c) u 0 ∧ u = { s with stks := u.stks } ∧ u.arr h = some { a with parked := false }) ∧
    (p.busy = some (5, c) →
      (s.arr h = none → ends (.stop st k c) s 2) ∧
      ∀ a, s.arr h = some a → (s.stk st).splices.fetch key = none → ∃ v : State, ends (.stop st k c) (v.arrive (st / 6) 3 a.tag a.join a.scope true a.sig 6 a.team (320 + 4 * (st / 6))) 0 ∧
        v.arr h = none ∧ (v.stk st).stops = satInc (s.stk st).stops ∧ v.waves = s.waves ∧ v.dram = s.dram ∧ v.l2d = s.l2d)

/-- R333: an element of a context with a successor takes the successor's configuration when the predecessor does not use it, or when a final marker has passed all its points in an earlier ac (a weight port goes with its node); an element that is not the partition's, or one that the marker has yet to pass, stays. -/
def Sys2Proof.Claim.Splicing : Prop :=
  ∀ (s : State) st k c e p a, (s.stk st).splices.fetch (4 * k + c) = some p → s.arr (ctxOf st k c) = some a →
    let n := s.net (ctxOf st k c)
    let x := s.stk st
    let i := Instr.spliceReconfig st k c e
    let takes := exec i s = .next (s.setStk st { x with splices := x.splices.ins (4 * k + c) { p with taken := p.taken.ins e true } })
    let weight := 768 ≤ e ∧ e < 832 ∧ n.g.mode (e - 768) = 5
    let pts := if weight then [elemPt (832 + (e - 768) / 2) 0] else n.points e
    ((n.t.owns k e = false ∨ FMap.at' false p.taken e = true) → exec i s = .next s) ∧
    (n.t.owns k e = true → FMap.at' false p.taken e = false →
      (pts = [] → takes) ∧
      (pts ≠ [] → a.wave = none → exec i s = .next s) ∧
      ∀ w, pts ≠ [] → a.wave = some w →
        let passed := w.final = true ∧ ∀ pt ∈ pts, ∃ t, a.finals.fetch pt = some t ∧ t < s.ac
        (passed → takes) ∧ (¬passed → exec i s = .next s))

/-- Which context runs in a partition, plane changes, and splicing (log 43). The statement is the conjunction of its parts, each described at its definition. -/
def Obligations.ArrayScheduling : Prop := Sys2Proof.Claim.ArrayScheduling ∧ Sys2Proof.Claim.Splicing

/-- The stacks read as before, but for one. -/
def OneStack (s t : State) (st : Nat) : Prop := t = { s with stks := t.stks } ∧ ∀ j, j ≠ st → t.stk j = s.stk j

/-- R359: a sound partition table. Valid partitions have columns in order and share nothing, their attachments lie in their columns, and their shares of the path are 1 to 16 together, none without one that has a port. -/
def SoundTable (t : PTab) : Prop :=
  (∀ k < 4, t.valid k = true → t k 0 % 32 ≤ t k 0 / 32 % 32 ∧ (∀ p < 64, t.port k p = true → t.col k (p % 32) = true ∧ 1 ≤ t k 11) ∧
    (∀ g < 64, t.gate k g = true → t.col k (g % 32) = true) ∧ ∀ n < 32, t.node k n = true → t.col k n = true) ∧
  (∀ j < 4, ∀ k < 4, j ≠ k → ∀ e < 928, ¬(t.owns j e = true ∧ t.owns k e = true)) ∧ ((List.range 4).map fun k => if t.valid k then t k 11 else 0).sum ≤ 16

/-- A context of a partition is loaded. -/
def HasContext (x : Stack) (k : Nat) : Prop := ∃ c < 4, (x.ctxs.fetch (4 * k + c)).isSome = true ∨ (x.splices.fetch (4 * k + c)).isSome = true

/-- R359 to R361: CONFIG_FIELD_WRITE. A write is kept when the field is of a partition whose context is not loaded and the value is one that the field may hold, and is dropped otherwise; no other field changes. A write of the partition table is dropped, and sets PERR, when a reserved bit or field is named, the table would not be sound, a context of the partition is loaded (but for TQ), or an element
of a partition with a context would change hands; else the elements that the partition had or has, and its copies of elements 1008 and 1009, read zero in every plane, and a new partition's counters do. A write of element 1011 clears an error field or does nothing. (R361's general formula, its addresses of the copies, and its sentence on the offsets 0x10000 to 0x3FFFF of a plane do not agree; the model's reading is log entry 34, DEDUCED.) -/
def Sys2Proof.Claim.ConfigurationFields : Prop :=
  (∀ k c e f : Nat, 1 ≤ k → k < 4 → c < 4 → (e = 1008 ∨ e = 1009) → f < 64 → cfgAt (0x40000 * c + 0x10000 * k + (64 * e + f) * 4) = some ⟨k, c, e, f⟩) ∧
  (∀ (s : State) st off v, cfgAt (off / 4 * 4) = none → exec (.configFieldWrite st off v) s = .next s) ∧
  ∀ (s : State) st off v a, cfgAt (off / 4 * 4) = some a →
    let x := s.stk st
    let drops := ∃ t, exec (.configFieldWrite st off v) s = .next t ∧ OneStack s t st ∧ t.stk st = x
    let keeps := fun (P : Stack → Prop) => ∃ t, exec (.configFieldWrite st off v) s = .next t ∧ OneStack s t st ∧ t.stk st = { x with cfg := (t.stk st).cfg } ∧ P (t.stk st)
    let same := fun (y : Stack) (but : Nat → Nat → Nat → Nat → Prop) => ∀ j < 4, ∀ c < 4, ∀ e < 1024, ∀ f < 64, ¬but j c e f → y.field j c e f = x.field j c e f
    (off < 0x100000 → copyAt (off / 4 * 4) = none → a = ⟨0, off / 0x40000, off % 0x40000 / 256, off / 4 % 64⟩) ∧
    (a.e ≠ 1010 → a.e ≠ 1011 → a.e < 1024 →
      ((2 ^ 16 ≤ v.toNat ∨ wrongValue a.e a.f v.toNat = true ∨ x.cfgOwner a = none) → drops) ∧
      ∀ k, x.cfgOwner a = some k → v.toNat < 2 ^ 16 → wrongValue a.e a.f v.toNat = false →
        let loaded := (x.ctxs.fetch (4 * k + a.c)).isSome = true ∨ (x.splices.fetch (4 * k + a.c)).isSome = true
        (loaded → drops) ∧
        (¬loaded → keeps fun y => y.field k a.c a.e a.f = v.toNat ∧ same y fun j c e f => fieldKey j c e f = fieldKey k a.c a.e a.f)) ∧
    (a.e = 1011 → (a.f % 16 ≠ 5 → drops) ∧ (a.f % 16 = 5 → keeps fun y => y.field 0 0 1011 a.f = 0 ∧ same y fun _ _ e f => e = 1011 ∧ f = a.f)) ∧
    (a.e = 1010 → let k := a.f / 16
      let i := a.f % 16
      let new : PTab := fun j n => if 16 * j + n = a.f then v.toNat else x.ptab j n
      let bad := 2 ^ 16 ≤ v.toNat ∨ 13 ≤ i ∨ (i = 0 ∧ bits v 10 5 ≠ 0) ∨ (i = 11 ∧ 16 < v.toNat) ∨ ¬SoundTable new ∨ (i ≠ 12 ∧ HasContext x k) ∨
        ∃ e < 928, ∃ j, x.ptab.owner e = some j ∧ new.owner e ≠ some j ∧ HasContext x j
      let its := fun j c e => (e < 928 ∧ c < 4 ∧ (x.ptab.owns k e = true ∨ new.owns k e = true)) ∨ (j = k ∧ (e = 1008 ∨ e = 1009))
      let fresh := fun e f => e = 1011 ∧ 16 * k ≤ f ∧ f < 16 * k + 5 ∧ new.valid k = true ∧ x.ptab.valid k = false
      (bad → keeps fun y => y.field 0 0 1011 (16 * k + 5) = 1 ∧ same y fun _ _ e f => e = 1011 ∧ f = 16 * k + 5) ∧
      (¬bad → i = 12 → keeps fun y => y.field 0 0 1010 a.f = v.toNat ∧ same y fun _ _ e f => e = 1010 ∧ f = a.f) ∧
      (¬bad → i ≠ 12 → keeps fun y => y.field 0 0 1010 a.f = v.toNat ∧ (∀ j < 4, ∀ c < 4, ∀ e < 1024, ∀ f < 64, its j c e ∨ fresh e f → y.field j c e f = 0) ∧
        same y fun j c e f => (e = 1010 ∧ f = a.f) ∨ its j c e ∨ fresh e f))

/-- R362: of the valid entries that name a row the lowest governs it; the row is spared when that entry is. -/
def SparedBy (rows : Nat → W32) (row : Nat) : Prop :=
  ∃ i, bit (rows i) 31 = true ∧ bit (rows i) 30 = true ∧ entryRow (rows i) = row ∧ ∀ j < i, ¬(bit (rows j) 31 = true ∧ entryRow (rows j) = row)

/-- R362: FAILED_ROW_WRITE. A store to entry i of the failed-row table is ignored when it sets a reserved bit or names a row that the running bank operation touches; one that would spare a ninth row of a bank leaves the entry with SPARED = 0 and nothing else changed (what else the entry then holds is the model's reading: log entry 48, DEDUCED); else the entry holds it.
Of two valid entries that name one row the lower governs: a row that a store makes spared reads as zero from then on and its eight lines are poisoned, and no other byte and no other line changes; so a store that names a row which a lower valid entry names changes nothing of that row. -/
def Sys2Proof.Claim.FailedRows : Prop :=
  ∀ (s : State) st i v, st < 12 → FMap.sorted (s.stk st).rows = true → (∀ q ∈ (s.stk st).rows, q.1 < 1024) → let x := s.stk st
    let row := entryRow v
    let spare := bit v 30 = true ∧ bit v 31 = true
    let was := fun j => FMap.at' 0 x.rows j
    let touched := ∃ b, x.bankRun = some b ∧ b.touches row = true
    let refused := bits v 14 4 ≠ 0 ∨ 1024 ≤ i ∨ touched
    let ninth := spare ∧ 8 ≤ x.sparesUsed i v
    let stored := fun (P : State → (Nat → W32) → Prop) => ∃ t, exec (.failedRowWrite st i v) s = .next t ∧ t = { s with stks := t.stks, dram := t.dram, poison := t.poison } ∧
      OneStack s { t with dram := s.dram, poison := s.poison } st ∧ t.stk st = { x with rows := (t.stk st).rows } ∧
      (∀ j, j ≠ i → FMap.at' 0 (t.stk st).rows j = was j) ∧ P t fun j => FMap.at' 0 (t.stk st).rows j
    let place := fun a => st * 2 ^ 36 ≤ a ∧ a < (st + 1) * 2 ^ 36
    (refused → exec (.failedRowWrite st i v) s = .next s) ∧
    (¬refused → ninth → stored fun t now => bit (now i) 30 = false ∧ (∀ b, b ≠ 30 → bit (now i) b = bit (was i) b) ∧ t.dram = s.dram ∧ t.poison = s.poison) ∧
    (¬refused → ¬ninth → stored fun t now => now i = v ∧
      (∀ r a, place a → r = a % 2 ^ 36 / 1024 → (SparedBy now r ∧ ¬SparedBy was r → t.dramByte a = 0 ∧ FMap.at' false t.poison (a / 128) = true) ∧
        (¬(SparedBy now r ∧ ¬SparedBy was r) → t.dramByte a = s.dramByte a ∧ FMap.at' false t.poison (a / 128) = FMap.at' false s.poison (a / 128))) ∧
      (∀ a, ¬place a → t.dramByte a = s.dramByte a ∧ FMap.at' false t.poison (a / 128) = FMap.at' false s.poison (a / 128)) ∧
      -- one entry names the row, or none below i
      ((∀ j < i, ¬(bit (was j) 31 = true ∧ entryRow (was j) = row)) → spare → ¬SparedBy was row → ∀ a, place a → a % 2 ^ 36 / 1024 = row → t.dramByte a = 0 ∧ FMap.at' false t.poison (a / 128) = true) ∧
      -- a lower entry names it
      ((∃ j < i, bit (was j) 31 = true ∧ entryRow (was j) = row) → ∀ a, place a → a % 2 ^ 36 / 1024 = row → t.dramByte a = s.dramByte a ∧ FMap.at' false t.poison (a / 128) = FMap.at' false s.poison (a / 128)))


/-- Writes of configuration fields and of the failed-row table (log 34, 48). The statement is the conjunction of its parts, each described at its definition. -/
def Obligations.ConfigurationAndRows : Prop := Sys2Proof.Claim.ConfigurationFields ∧ Sys2Proof.Claim.FailedRows

/-! ### Events of waves and teams -/

/-- An event that changes one wave and nothing else. -/
def WaveTo (i : Instr) (s : State) (w : WRef) (v' : Wave) : Prop :=
  ∃ t, exec i s = .next t ∧ t = { s with waves := t.waves } ∧ ∀ j, t.waves.fetch j = if j = 64 * w.core + w.slot then some v' else s.waves.fetch j

/-- R48, R49, R64, R204, R205: when 4096 cc have passed with parked lanes, the split with the highest PC (of equal ones, that with the highest lane) parks last, and the oldest parked group, with every parked lane at its PC, takes its entry; no lane's PC changes. Not in a handler, nor in a wave that is
suspended or stopped, or waits to save or load a context. (The lanes that park stay parked, though they stand at the PC of the group that takes the entry: the model's choice, log entry 45.) Two splits at one PC, or a split and parked lanes at its PC, may meld. A wave that has been ready for 65536 cc is boosted. A `yield` and a `wait` end when their cc have passed, and not before. -/
def Sys2Proof.Claim.WaveEvents : Prop :=
  ∀ (s : State) (w : WRef) v, s.waves.fetch (64 * w.core + w.slot) = some v →
    let x := v.ex
    let saves := ∃ q ∈ x.splits, q.2.stall ≠ .none ∧ ∃ f, q.2.form = some (.ctxsave f) ∨ q.2.form = some (.ctxload f)
    ((x.ptimer < 4096 ∨ v.hnd.isSome = true ∨ v.halted = true ∨ x.parked = [] ∨ saves) → WaveTo (.parkRotation w) s w v) ∧
    (∀ e sp g rest, 4096 ≤ x.ptimer → v.hnd = none → v.halted = false → ¬saves → x.parked = g :: rest → FMap.sorted x.splits = true → (∀ k, (x.splits.fetch k).isSome = true ↔ k < 4) →
      x.wellFormed v.live = true → x.splits.fetch e = some sp → sp.mask ≠ 0 →
      (∀ k q, k ≠ e → x.splits.fetch k = some q → q.pc.toNat < sp.pc.toNat ∨ (q.pc = sp.pc ∧ highLane q.mask < highLane sp.mask)) →
      ∃ x', WaveTo (.parkRotation w) s w (v.withEx x') ∧ x'.ptimer = 0 ∧ x'.parked.getLast? = some sp.mask ∧ x'.rdv = x.rdv ∧ x'.conv = x.conv ∧
        (∃ q, x'.splits.fetch e = some q ∧ q.pc = x.lanePc (lowLane g) ∧ q.mask = x.parkedAt (x.lanePc (lowLane g))) ∧ (∀ k, k ≠ e → x'.splits.fetch k = x.splits.fetch k) ∧
        ∀ l < 32, ∀ pc, StandsAt x l pc → StandsAt x' l pc) ∧
    (∀ e o p q, o < 4 → e ≠ o → x.splits.fetch e = some p → x.splits.fetch o = some q → q.pc = p.pc → x.parked = [] →
      let ok := fun (r : Split) => r.stall = .none ∧ r.waitTo = 0 ∧ v.fcm &&& r.mask = 0
      (¬(ok p ∧ ok q) → WaveTo (.meld w e o) s w v) ∧
      (ok p → ok q → ∃ x', WaveTo (.meld w e o) s w (v.withEx x') ∧ x' = { x with splits := x'.splits } ∧ x'.splits.fetch e = some { p with mask := p.mask ||| q.mask } ∧ x'.splits.fetch o = none ∧
        ∀ k, k ≠ e → k ≠ o → x'.splits.fetch k = x.splits.fetch k)) ∧
    (∀ e o p, 4 ≤ o → x.splits.fetch e = some p → p.stall = .none → p.waitTo = 0 → let m := x.parkedAt p.pc
      v.fcm &&& (p.mask ||| m) = 0 → x.pwait = [] → ∃ x', WaveTo (.meld w e o) s w (v.withEx x') ∧ x' = { x with splits := x'.splits, parked := x'.parked } ∧
        x'.splits.fetch e = some { p with mask := p.mask ||| m } ∧ (∀ k, k ≠ e → x'.splits.fetch k = x.splits.fetch k) ∧
        ∀ l < 32, (∃ g ∈ x'.parked, bit g l = true) ↔ (∃ g ∈ x.parked, bit g l = true) ∧ bit m l = false) ∧
    WaveTo (.waveBoost w) s w { v with boosted := v.boosted || decide (65536 ≤ v.readyFor) } ∧
    WaveTo (.yieldExpire w) s w { v with yieldTo := if v.yieldTo < s.cc then 0 else v.yieldTo } ∧
    ∀ e, ∃ x', WaveTo (.waitExpire w e) s w (v.withEx x') ∧ x' = { x with splits := x'.splits } ∧
      ∀ k, x'.splits.fetch k = (x.splits.fetch k).map fun p => if k = e ∧ p.waitTo < s.cc then { p with waitTo := 0 } else p

/-- R424, R407: a wave whose budget has run out takes WDOG: it stops for the service, with no part left in a `mma.clu` that waits (R293), and its record names every live lane. R68, R471: once a save of a context has waited 65536 cc in which the core's die was not throttled, every wave of the context on that core that is in a handler is frozen. -/
def Sys2Proof.Claim.WatchdogAndFreeze : Prop :=
  (∀ (s : State) (w : WRef) v, let wk := 64 * w.core + w.slot
    s.waves.fetch wk = some v →
    ((v.halted = true ∨ v.hnd.isSome = true ∨ v.wlim = 0 ∨ v.wdog ≠ 0) → exec (.wdog w) s = .next s) ∧
    (v.halted = false → v.hnd = none → v.wlim ≠ 0 → v.wdog = 0 → ∃ t v' r, exec (.wdog w) s = .next t ∧ t = { s with waves := t.waves, dies := t.dies, teams := t.teams } ∧
      (∀ j, t.teams.fetch j = (s.teams.fetch j).map fun tm => if j = v.team then { tm with clu := tm.clu.filter fun c => c.slot != wk % 64 } else tm) ∧ t.waves = s.waves.ins wk v' ∧
      v'.stopped = true ∧ v'.pcode = some .wdog ∧ v'.ex = v.ex ∧ v'.seq = (v.seq + 1) % 65536 ∧ (t.die (dieOf (wk / 64))).held = (s.die (dieOf (wk / 64))).held ++ [r] ∧
      r.code = 0x0B ∧ r.source = 0 ∧ r.lanes = v.live ∧ r.replay = true ∧ r.srcid = BitVec.ofNat 32 (wk / 64 + 512 * (wk % 64)))) ∧
  ∀ (s : State) g tag,
    let due := ∃ p ∈ s.waves, ∃ q ∈ p.2.ex.splits, ∃ a, q.2.ask = some a ∧ a.core = g ∧ a.tag = tag ∧ a.since + 65536 ≤ (s.die (dieOf g)).ucc
    (¬due → exec (.handlerFreeze g tag) s = .next s) ∧
    (due → ∃ t, exec (.handlerFreeze g tag) s = .next t ∧ t = { s with waves := t.waves } ∧
      ∀ j, t.waves.fetch j = (s.waves.fetch j).map fun v => if j / 64 = g ∧ v.tag = tag ∧ v.hnd.isSome = true then { v with frozen := true } else v)

/-- R43, R44, R266, R296, R351: a team that drains, with no child left, retires: no team holds a replica of its windows, or a place for it among its subscribers, and it arrives at its join barrier, poisoned if it was killed, with the pair of its waves. One that does not drain, or has a child, stays. With the last team
of a grid the grid is complete: its images leave the decks, its queues are unbound, and its templates without a firing are disarmed. -/
def Sys2Proof.Claim.Retirement : Prop :=
  (∀ (s : State) n tm, s.teams.fetch n = some tm →
    ((tm.draining = false ∨ tm.children ≠ 0 ∨ tm.alive ≠ 0) → exec (.teamRetire n) s = .next s) ∧
    (tm.draining = true → tm.children = 0 → tm.alive = 0 → ∃ u : State,
      exec (.teamRetire n) s = .next ((u.arrive (dieOf tm.core) 0 tm.tag tm.join tm.jscope tm.killed tm.rsig tm.rfl tm.parent tm.core).gridRetire tm.grid) ∧
      u.teams.fetch n = none ∧ (∀ j, j ≠ n → (u.teams.fetch j).isSome = (s.teams.fetch j).isSome) ∧
      (∀ p ∈ u.teams, (∀ r ∈ p.2.replicas, r.owner ≠ n) ∧ ∀ q ∈ p.2.windows, q.2.subs.fetch n = none) ∧ u.l2d = s.l2d ∧ u.dram = s.dram ∧ u.dies = s.dies ∧ u.grids = s.grids)) ∧
  ∀ (s : State) n g, s.grids.fetch n = some g →
    (g.retired + 1 < g.lr.nteams → s.gridRetire n = { s with grids := s.grids.ins n { g with retired := g.retired + 1 } }) ∧
    (g.lr.nteams ≤ g.retired + 1 → let t := s.gridRetire n
      t.grids.fetch n = none ∧ (∀ j, j ≠ n → t.grids.fetch j = s.grids.fetch j) ∧ (∀ st, ∀ e ∈ (t.stk st).deck, e.grid ≠ n) ∧
      ∀ d < 2, (∀ p ∈ (t.die d).queues, p.2.grid ≠ n) ∧ ∀ p ∈ (t.die d).tpls, p.2.grid = n → p.2.firing.isSome = true)

/-- Rotation, melding, boost, expiry of yield and wait, the watchdog, frozen handlers, and retirement (log 45). The statement is the conjunction of its parts, each described at its definition. -/
def Obligations.WaveAndTeamEvents : Prop := Sys2Proof.Claim.WaveEvents ∧ Sys2Proof.Claim.WatchdogAndFreeze ∧ Sys2Proof.Claim.Retirement

/-! ### The fault service -/

/-- The die's ring takes a record (R412, R414): its 64 bytes stand at the entry that FQTAIL names, and FQTAIL rises by 1. -/
def RingTakes (s t : State) (d : Nat) (r : Rec) : Prop :=
  let x := s.die d
  let k := x.fqbase.toNat + 64 * (x.fqtail.toNat % 2 ^ bits x.fqlog2n 0 5)
  (∀ a, t.homeByte a = if k ≤ a ∧ a < k + 64 then r.bytes.getD (a - k) 0 else s.homeByte a) ∧ (t.die d).fqtail = x.fqtail + 1 ∧
  t = { s with l2d := t.l2d, dram := t.dram, peerCopy := t.peerCopy, free := t.free, watch := t.watch, dirCopy := t.dirCopy, dies := t.dies } ∧ ∀ j, j ≠ d → t.die j = s.die j

/-- R410, R413, R414, R434: with room in the ring the oldest record that is not in it yet is written; with none, or while the line is reserved, nothing is written. A producer's record joins those that wait; while the ring has no room for all of them, a record of the overflow queue is lost when 256 such wait, and one that its producer drops is lost at once, and FQLOST counts it. A write of FQHEAD sets it, and FQERR[1] when it lies beyond FQTAIL. (That FQHEAD is then kept as written is the model's reading: log entry 47, DEDUCED.) -/
def Sys2Proof.Claim.FaultRing : Prop :=
  (∀ (s : State) d, let x := s.die d
    let room := 6 ≤ bits x.fqlog2n 0 5 ∧ bits x.fqlog2n 0 5 ≤ 16 ∧ x.fqbase.toNat < 12 * 2 ^ 36 ∧ (x.fqtail - x.fqhead).toNat < 2 ^ bits x.fqlog2n 0 5
    let shut := s.isReserved (lineOf (x.fqbase.toNat + 64 * (x.fqtail.toNat % 2 ^ bits x.fqlog2n 0 5))) = true
    (¬room ∨ shut → exec (.faultRecord d) s = .next s) ∧
    (room → ¬shut → (x.held = [] → exec (.faultRecord d) s = .next s) ∧
      ∀ r rs, x.held = r :: rs → ∃ t, exec (.faultRecord d) s = .next t ∧ RingTakes s t d r ∧ (t.die d).held = rs) ∧
    ∀ r, let e := { r with time := s.cc }
      let space := if 6 ≤ bits x.fqlog2n 0 5 ∧ bits x.fqlog2n 0 5 ≤ 16 ∧ x.fqbase.toNat < 12 * 2 ^ 36 then 2 ^ bits x.fqlog2n 0 5 - (x.fqtail - x.fqhead).toNat else 0
      let waits := s.setDie d { x with held := x.held ++ [e] }
      let lost := s.setDie d { x with fqlost := satInc x.fqlost }
      let full := 256 ≤ (x.held.filter fun q => q.code == 0x34 || q.code == 0x35).length
      s.record d .hold r = waits ∧ (space ≤ x.held.length → full → s.record d .overflow r = lost) ∧ ((x.held.length < space ∨ ¬full) → s.record d .overflow r = waits) ∧
      (space ≤ x.held.length → s.record d .drop r = lost) ∧ (x.held.length < space → x.held ≠ [] ∨ shut → s.record d .drop r = waits) ∧
      (0 < space → x.held = [] → ¬shut → RingTakes s (s.record d .drop r) d e)) ∧
  (∀ r : Rec, r.bytes.length = 64 ∧ (r.code < 256 → r.source < 16 → field r.bytes 0 1 = r.code ∧ field r.bytes 1 1 % 16 = r.source) ∧ field r.bytes 4 4 = r.srcid.toNat ∧ field r.bytes 0x18 8 = r.va.toNat) ∧
  ∀ (s : State) d v, exec (.fqheadWrite d v) s = .next (s.setDie d { s.die d with
    fqhead := v, fqerr := if (s.die d).fqtail.toNat < v.toNat then (s.die d).fqerr ||| 2 else (s.die d).fqerr })

/-- R415, R428: a command whose SRCID, SEQ and source name no one that waits sets FQERR[0] and does nothing else. REPLAY makes a wave run again, with its budget reloaded, a stream port try again, and a held arrival be made again; DELIVER makes a wave without a nested fault enter its handler for the code given; KILL ends the live lanes of a wave, and with them
the wave; KILLTREE ends every wave of the team's tree, and takes the tree's tasks off the hands and the kitty. R420: a walk that reaches a leaf caches it, and any other walk caches nothing. -/
def Sys2Proof.Claim.ServiceCommands : Prop :=
  (∀ (s : State) d id seq src code, let err := s.setDie d { s.die d with fqerr := (s.die d).fqerr ||| 1 }
    (s.waiter d id seq src = none → exec (.replay d id seq src) s = .next err ∧ exec (.deliver d id seq src code) s = .next err ∧ exec (.killCmd d id seq src) s = .next err) ∧
    (s.waves.fetch (srcWave id) = none → exec (.killtree d id) s = .next err)) ∧
  (∀ (s : State) g slot seq v, g < 328 → slot < 64 → let wk := 64 * g + slot
    let d := dieOf g
    let id : W32 := BitVec.ofNat 32 (g + 512 * slot)
    s.waves.fetch wk = some v →
    ((v.pcode = none ∨ v.seq ≠ seq) → s.waiter d id seq 0 = none) ∧
    (v.pcode.isSome = true → v.seq = seq →
      (v.ex.parked = [] → v.ex.fullRecord = none → ∃ v' x', exec (.replay d id seq 0) s = .next { s with waves := s.waves.ins wk v' } ∧
        v' = { v with suspended := false, stopped := false, nested := false, pcode := none, wdog := v.wlim }.withEx x' ∧ x' = { v.ex with splits := x'.splits } ∧
        ∀ k, x'.splits.fetch k = (v.ex.splits.fetch k).map fun p => { p with stall := .none, form := none, born := 0, ask := none }) ∧
      (∀ code c, Code.ofNum code = some c →
        ((v.nested = true ∨ v.hnd.isSome = true ∨ v.trapvec = 0) → exec (.deliver d id seq 0 code) s = .next s) ∧
        (v.nested = false → v.hnd = none → v.trapvec ≠ 0 → ∃ v', exec (.deliver d id seq 0 code) s = .next { s with waves := s.waves.ins wk v' } ∧ v'.hnd.isSome = true ∧ v'.supervisor = true ∧
          v'.stopped = false ∧ v'.suspended = false ∧ v'.pcode = none ∧ v'.ex = { splits := [(0, { pc := v.trapvec + BitVec.ofNat 64 (64 * code), mask := v.plane })], parked := [], ptimer := 0, rdv := [], conv := true, pcf := [] } ∧
          v'.frame.code = BitVec.ofNat 32 code ∧ v'.frame.lanes = v.plane ∧ v'.frame.fpc = v.ppc ∧ v'.frame.marked = v.pmark ∧ v'.frame.rpc = v.ppc &&& ~~~7 ∧
          (∀ n, FMap.at' 0 v'.s n = if n = 63 then 0x01FFF00100000000 else FMap.at' 0 v.s n) ∧ ∀ i < 4, FMap.at' 0 v'.frame.save i = FMap.at' 0 v.s (60 + i))) ∧
      (v.live ≠ 0 → ∃ t, exec (.killCmd d id seq 0) s = .next t ∧ t.waves.fetch wk = none ∧ (∀ j, j ≠ wk → (t.waves.fetch j).isSome = (s.waves.fetch j).isSome) ∧
        ∀ tm, v.team ≠ 0 → s.teams.fetch v.team = some tm → 1 < tm.alive → ∃ tm', t.teams.fetch v.team = some tm' ∧ tm'.killed = true ∧ tm'.alive = tm.alive - 1))) ∧
  (∀ (s : State) d id v, FMap.sorted s.waves = true → s.waves.fetch (srcWave id) = some v → v.team ≠ 0 → ∃ t, exec (.killtree d id) s = .next t ∧
    let tree := s.treeOf v.team
    (∀ j w, s.waves.fetch j = some w → w.team ∈ tree → w.live ≠ 0 → t.waves.fetch j = none) ∧ (∀ j w, s.waves.fetch j = some w → w.team ∉ tree → (t.waves.fetch j).isSome = true) ∧
    (∀ k ∈ t.kitty, k.parent ∉ tree) ∧ (∀ g, ∀ k ∈ (t.core g).hand, k.parent ∉ tree)) ∧
  (∀ (s : State) d id seq h p, s.waiter d id seq 2 = some (.port h p) → ∃ t a, exec (.replay d id seq 2) s = .next t ∧ t = { s with stks := t.stks } ∧ s.arr h = some a ∧
    t.arr h = some (a.setPort p { a.port p with fault := false })) ∧
  (∀ (s : State) d id seq q, s.waiter d id seq 9 = some (.arrival q) →
    exec (.replay d id seq 9) s = .next ((s.setDie d { s.die d with arrivals := (s.die d).arrivals.erase q }).tryArrival d q)) ∧
  ∀ (s : State) d tag va,
    ((2 ^ 56 ≤ va.toNat ∨ (s.die d).stlb.any (fun e => e.covers d tag va.toNat) = true) → exec (.translationWalk d tag va) s = .next s) ∧
    (va.toNat < 2 ^ 56 → (s.die d).stlb.any (fun e => e.covers d tag va.toNat) = false →
      (∀ e, s.walk d tag va.toNat = .leaf e → exec (.translationWalk d tag va) s = .next (s.setDie d { s.die d with stlb := e :: (s.die d).stlb })) ∧
      ((∀ e, s.walk d tag va.toNat ≠ .leaf e) → exec (.translationWalk d tag va) s = .next s))

/-- The fault ring and the commands of the fault service (log 47). The statement is the conjunction of its parts, each described at its definition. -/
def Obligations.FaultServiceCommands : Prop := Sys2Proof.Claim.FaultRing ∧ Sys2Proof.Claim.ServiceCommands

/-! ### Links and members -/

/-- The bytes of this device after a write of some bytes at k. -/
def WritesAt (s t : State) (k : Nat) (bs : List W8) : Prop :=
  ∀ a, a < 2 ^ 52 → t.homeByte a = if k ≤ a ∧ a < k + bs.length then bs.getD (a - k) 0 else s.homeByte a

/-- R432, R434, R437, R459 to R461: a message whose sender is not ALIVE, or whose incarnation is another, is counted and has no other effect, and a device in no domain drops every message. One that names a reserved line, other than the next flit of the write that reserved it, is held. Otherwise a load and an acquire are answered with the bytes, a store with the bytes that its mask selects, a release, an atomic and an
arrival are performed, a whole-line write is performed with its last flit, a response is kept as a copy of the sender's line, a write at the sender's home drops the copies of its line, a flush of scope 5 or 6 empties the L1s, and a read of a poisoned line draws an error. A pair is answered at scopes 5 and 6 alone. (The error for a poisoned line is log entry 44, the slot that a release below scope 5 leaves alone log entry 49: the model's reading.) -/
def Obligations.PeerMessages : Prop :=
  ∀ (s : State) d m inc msg, let x := s.die d
    let a := x.agent m
    let i := Instr.scaleupMessage d m inc msg
    ((a.st ≠ .alive ∨ a.inc ≠ inc) → exec i s = .next (s.setDie d (x.setAgent m { a with drops := min (a.drops + 1) 0xFFFFFFFF }))) ∧
    (a.st = .alive → a.inc = inc → bit x.myinc 24 = false → exec i s = .next s) ∧
    (a.st = .alive → a.inc = inc → bit x.myinc 24 = true → s.linkq = [] →
      (∀ l r, (msgLine msg = some l ∧ s.reserved.fetch l = some r ∧ ¬(r.1 = m ∧ ∃ pa k bs, msg = .lineFlit pa k bs ∧ k ≠ 0)) → exec i s = .next { s with linkq := [.msg d m msg] }) ∧
      ((∀ l, msgLine msg = some l → s.reserved.fetch l = none) →
        (∀ pa n, (msg = .loadReq pa n ∨ ∃ sc, msg = .acquire pa n sc) → pa + n ≤ memTop →
          (s.poisoned (lineOf pa) = true → exec i s = .next { s with reply := ⟨true, [], 0, 6⟩ }) ∧
          (s.poisoned (lineOf pa) = false → ∃ t, exec i s = .next t ∧ t = { s with dirCopy := t.dirCopy, reply := t.reply } ∧ t.reply.err = false ∧
            t.reply.data = (List.range n).map (fun j => s.homeByte (pa + j)) ∧ (∀ sc, msg = .acquire pa n sc → (t.reply.sig, t.reply.floor) = if sc < 5 then (0, 6) else s.slotAcquire (lineOf pa)) ∧
            (msg = .loadReq pa n → ∃ who, t.dirCopy.fetch (lineOf pa) = some who ∧ m ∈ who))) ∧
        (∀ pa bs mask, msg = .store pa bs mask → mask.length = bs.length → (memTop < pa + bs.length → exec i s = .next { s with reply := ⟨true, [], 0, 6⟩ }) ∧
          (pa + bs.length ≤ memTop → ∃ t, exec i s = .next t ∧ t = { s with l2d := t.l2d, dram := t.dram, peerCopy := t.peerCopy, free := t.free, watch := t.watch, dirCopy := t.dirCopy, reply := ⟨false, [], 0, 6⟩ } ∧
            (∀ a < 2 ^ 52, t.homeByte a = if pa ≤ a ∧ a < pa + bs.length ∧ mask.getD (a - pa) false = true then bs.getD (a - pa) 0 else s.homeByte a) ∧
            ∀ j < bs.length, mask.getD j false = true → t.dirCopy.fetch (lineOf (pa + j)) = none)) ∧
        (∀ pa bs sig fl sc, msg = .release pa bs sig fl sc → pa + bs.length ≤ memTop → ∃ t, exec i s = .next t ∧ WritesAt s t pa bs ∧ t.waves = s.waves ∧ t.reply.err = false ∧
          (5 ≤ sc → sigFull sig = false → s.slotOf (lineOf pa) ≠ none → t.slotAcquire (lineOf pa) = (sig, fl))) ∧
        (∀ pa p sig fl sc, msg = .arrival pa p sig fl sc → pa + 64 ≤ memTop → s.poisoned (lineOf pa) = false → ∃ t, exec i s = .next t ∧ Arrival s t pa p ∧ t.waves = s.waves ∧ t.reply.err = false) ∧
        (∀ op ty pa b c sig fl rel acq, msg = .atomic op ty pa b c sig fl rel acq → op < 8 → pa + 8 ≤ memTop → s.poisoned (lineOf pa) = false → let n := atBits ty
          let old := s.homeNat pa (n / 8)
          ∃ t, exec i s = .next t ∧ t.reply.data = toBytes (n / 8) old ∧ (t.reply.sig, t.reply.floor) = (if acq < 5 then (0, 6) else s.slotAcquire (lineOf pa)) ∧ t.waves = s.waves ∧
            ((amoOf op n (atSigned ty) old (b.toNat % 2 ^ n) (c.toNat % 2 ^ n)) = none → ∀ a, t.homeByte a = s.homeByte a) ∧
            ∀ v, amoOf op n (atSigned ty) old (b.toNat % 2 ^ n) (c.toNat % 2 ^ n) = some v → WritesAt s t pa (toBytes (n / 8) v)) ∧
        (∀ pa bs, msg = .lineFlit pa 0 bs → pa + 128 ≤ memTop → bs.length = 32 → exec i s = .next { s with reserved := s.reserved.ins (lineOf pa) (m, bs) }) ∧
        (∀ pa bs, msg = .loadResp pa bs → m < 256 → pa + bs.length ≤ 2 ^ 52 → d < 2 → ∃ t, exec i s = .next t ∧
          t = { s with peerMem := t.peerMem, peerCopy := t.peerCopy, peerSlots := t.peerSlots, l2d := t.l2d, dram := t.dram, free := t.free } ∧ (∀ a < 2 ^ 52, t.homeByte a = s.homeByte a) ∧
          (∀ j < bs.length, t.peerCopy.fetch (copyKey d (memberKey m pa + j)) = some (bs.getD j 0) ∧ t.homeByte (memberKey m pa + j) = bs.getD j 0) ∧
          ((∃ j < bs.length, s.homeByte (memberKey m pa + j) ≠ bs.getD j 0) → ∀ j < bs.length, t.peerCopy.fetch (copyKey (1 - d) (memberKey m pa + j)) = none)) ∧
        (∀ pa bs, msg = .homeWrite pa bs → m < 256 → pa + bs.length ≤ 2 ^ 52 → ∃ t, exec i s = .next t ∧ t = { s with peerMem := t.peerMem, peerCopy := t.peerCopy, peerSlots := t.peerSlots } ∧
          ∀ j < bs.length, t.homeByte (memberKey m pa + j) = bs.getD j 0 ∧ ∀ die < 2, t.peerCopy.fetch (copyKey die (memberKey m pa + j)) = none) ∧
        ∀ sc, msg = .flush sc → (sc < 5 → exec i s = .next s) ∧ (5 ≤ sc → ∃ t, exec i s = .next t ∧ t.waves = s.waves ∧ ∀ g < 328, (t.core g).l1 = [])) ∧
      (∀ pa k bs had, msg = .lineFlit pa k bs → 1 ≤ k → k ≤ 3 → pa + 128 ≤ memTop → s.reserved.fetch (lineOf pa) = some (m, had) → had.length = 32 * k → bs.length = 32 →
        (k < 3 → exec i s = .next { s with reserved := s.reserved.ins (lineOf pa) (m, had ++ bs) }) ∧
        (k = 3 → ∃ t, exec i s = .next t ∧ t.reserved.fetch (lineOf pa) = none ∧ WritesAt s t (128 * lineOf pa) (had ++ bs))))

/-- An event of a member that leaves, on a die, this entry for it and the others as they were. -/
def AgentTo (s t : State) (d m : Nat) (a : Agent) : Prop := (t.die d).agent m = a ∧ ∀ j, j ≠ m → (t.die d).agent j = (s.die d).agent j

/-- The die's L2 holds no copy of a line of the members. -/
def NoCopies (t : State) (d : Nat) (who : Nat → Prop) : Prop := ∀ m pa, who m → m < 256 → pa < 2 ^ 52 → t.peerCopy.fetch (copyKey d (memberKey m pa)) = none

/-- R433, R435, R436: the life of a member. An ALIVE member that misses HBMISS periods, or that the control node fences, becomes RECOVERING, and its lines leave the die's L2; a heartbeat of an ALIVE member restarts its time; a RECOVERING one becomes DEAD at DEAD, or when RECMAX has passed; READMIT with another incarnation makes any but an ALIVE one ALIVE. In any other state an event changes nothing.
The scrub takes the member out of every copy record of the die's lines, and poisons the lines it had reserved. -/
def Sys2Proof.Claim.MemberStates : Prop :=
  ∀ (s : State) d m, d < 2 → let x := s.die d
    let a := x.agent m
    let fenced := fun (i : Instr) => ∃ t, exec i s = .next t ∧ AgentTo s t d m { a with st := .recovering, since := s.cc, scrubbing := true } ∧ NoCopies t d (· = m) ∧ t.waves = s.waves
    let silent := bit x.myinc 24 = true ∧ bits x.myinc 16 8 ≠ m ∧ m < 144 ∧ a.st = .alive ∧ a.since + 125000 * max 1 (bits x.hbmiss 0 8) ≤ s.cc
    let overdue := a.st = .recovering ∧ x.recmax ≠ 0 ∧ a.since + 2500 * x.recmax.toNat ≤ s.cc
    let dies := fun (i : Instr) => ∃ t, exec i s = .next t ∧ AgentTo s t d m { a with st := .dead, scrubbing := false } ∧
      (∀ j w, s.waves.fetch j = some w → dieOf (j / 64) = d → m ∈ w.heldStores → ∃ w', t.waves.fetch j = some w' ∧ w'.deadStore = some a.inc ∧ m ∉ w'.heldStores)
    (a.st = .alive → fenced (.fence d m)) ∧ (a.st ≠ .alive → exec (.fence d m) s = .next s) ∧
    (silent → fenced (.heartbeatMiss d m)) ∧ (¬silent → exec (.heartbeatMiss d m) s = .next s) ∧
    (a.st = .alive → exec (.heartbeat d m) s = .next (s.setDie d (x.setAgent m { a with since := s.cc }))) ∧ (a.st ≠ .alive → exec (.heartbeat d m) s = .next s) ∧
    (a.st = .recovering → s.linkq = [] → dies (.dead d m)) ∧ (a.st ≠ .recovering → exec (.dead d m) s = .next s) ∧
    (overdue → s.linkq = [] → dies (.recmaxExpire d m)) ∧ (¬overdue → exec (.recmaxExpire d m) s = .next s) ∧
    (∀ inc, bit x.myinc 24 = true → bits x.myinc 16 8 ≠ m →
      ((a.inc = inc % 65536 ∨ 144 ≤ m ∨ a.st = .alive) → exec (.readmit d m inc) s = .next s) ∧
      (a.inc ≠ inc % 65536 → m < 144 → (a.st = .dead ∨ a.st = .absent) → a.scrubbing = false →
        exec (.readmit d m inc) s = .next (s.setDie d (x.setAgent m { a with st := .alive, inc := inc % 65536, since := s.cc }))) ∧
      (a.inc ≠ inc % 65536 → m < 144 → a.st = .recovering → (∀ j, s.waves.fetch j = none) → s.linkq = [] →
        ∃ t, exec (.readmit d m inc) s = .next t ∧ AgentTo s t d m { a with st := .alive, inc := inc % 65536, since := s.cc, scrubbing := false })) ∧
    (a.scrubbing = false → exec (.scrub d m) s = .next s) ∧
    (a.scrubbing = true → s.linkq = [] → ∃ t, exec (.scrub d m) s = .next t ∧ AgentTo s t d m { a with scrubbing := false } ∧
      (∀ l who, homedOn d l = true → t.dirCopy.fetch l = some who → m ∉ who) ∧ (∀ l, homedOn d l = false → FMap.sorted s.dirCopy = true → s.dirCopy.fetch l ≠ some [] → t.dirCopy.fetch l = s.dirCopy.fetch l) ∧
      (∀ l bs, FMap.sorted s.reserved = true → homedOn d l = true → s.reserved.fetch l = some (m, bs) → t.reserved.fetch l = none ∧ FMap.at' false t.poison l = true) ∧ t.waves = s.waves ∧ t.l2d = s.l2d) ∧
    exec .heartbeatSend s = .next (s.setDie 0 { s.die 0 with hbSent := s.cc })

/-- R461, R462: ASSIGN, ignored in a domain and with incarnation 0, gives the device its member number and incarnation, makes its own entry ALIVE and every other ABSENT; READMIT outside a domain does the same. LEAVE takes the device out of its domain, makes every entry ABSENT, and drops every copy of a peer's line. (That READMIT there acts as ASSIGN whatever the index, that the other entries' incarnation becomes 0, and that an index from 144 on is ignored, are the model's reading: log entry 50.) -/
def Sys2Proof.Claim.DomainCommands : Prop :=
  ∀ (s : State) d m inc, d < 2 → s.linkq = [] → let x := s.die d
    let assigned := fun (i : Instr) => ∃ t, exec i s = .next t ∧ (t.die d).myinc = BitVec.ofNat 32 (inc % 65536 + 65536 * m + 2 ^ 24) ∧
      ((t.die d).agent m).st = .alive ∧ ((t.die d).agent m).inc = inc % 65536 ∧ ∀ j, j < 144 → j ≠ m → ((t.die d).agent j).st = .absent ∧ ((t.die d).agent j).inc = 0 ∧ ((t.die d).agent j).drops = (x.agent j).drops
    ((bit x.myinc 24 = true ∨ inc % 65536 = 0 ∨ 144 ≤ m) → exec (.assign d m inc) s = .next s) ∧
    (bit x.myinc 24 = false → inc % 65536 ≠ 0 → m < 144 → assigned (.assign d m inc) ∧ assigned (.readmit d m inc)) ∧
    ∃ t, exec (.leave d) s = .next t ∧ (t.die d).myinc = x.myinc &&& ~~~0x1000000 ∧ (∀ j < 144, ((t.die d).agent j).st = .absent) ∧ NoCopies t d fun _ => True

/-- The life of a member, the scrub, and the commands of a domain (log 50). The statement is the conjunction of its parts, each described at its definition. -/
def Obligations.DomainMembers : Prop := Sys2Proof.Claim.MemberStates ∧ Sys2Proof.Claim.DomainCommands

/-- R455, R456, R458, R465 to R467: a port that changes state shows it, bit 40 of a scale-up port's register and CPSTAT of both dies for a control port, and one that does not change nothing; LINK_LANE keeps the mask of lanes. The control node reads and writes memory, once DRAM is ready, in aligned pieces of 4, 8 or 64 bytes, and the registers of the supervisor window; anything else, and a read of a poisoned line,
draws an error response. A request at a reserved line is held, and a release waits behind the held requests of its port; one that draws an error performs nothing. The traffic of a die for a member's line takes port 9d + (pa[16:7] mod 9), or else the next of the die that is up, and then those of the other die. (The order of the ports across the bridge and the error for a poisoned line are log entry 44, and that a release which draws an error performs nothing log entry 50: the model's reading.) -/
def Obligations.PortsAndHost : Prop :=
  (∀ (s : State) p up mask, p < 18 → let d := p / 9
    let v := FMap.at' 0 (s.die d).link (p % 9)
    (bit v 40 = up → exec (.linkPort p up) s = .next s) ∧
    (bit v 40 ≠ up → ∃ t, exec (.linkPort p up) s = .next t ∧ bit (FMap.at' 0 (t.die d).link (p % 9)) 40 = up ∧ (∀ j, j ≠ 40 → bit (FMap.at' 0 (t.die d).link (p % 9)) j = bit v j) ∧ t.waves = s.waves) ∧
    ∃ t, exec (.linkLane p mask) s = .next t ∧ bits (FMap.at' 0 (t.die d).link (p % 9)) 32 8 = mask.toNat ∧ (∀ j, (j < 32 ∨ 40 ≤ j) → bit (FMap.at' 0 (t.die d).link (p % 9)) j = bit v j) ∧ t.waves = s.waves) ∧
  (∀ (s : State) d line p, d < 2 →
    let port := fun i => (if i < 9 then 9 * d else 9 * (1 - d)) + (line % 1024 + i) % 9
    s.portOfLine d line = some p ↔ ∃ i < 18, p = port i ∧ s.portUp p = true ∧ ∀ j < i, s.portUp (port j) = false) ∧
  (∀ (s : State) n up, n < 2 →
    (bit (s.die n).cpstat 0 = up → exec (.linkPort (128 + n) up) s = .next s) ∧
    (bit (s.die n).cpstat 0 ≠ up → ∃ t, exec (.linkPort (128 + n) up) s = .next t ∧ bit (t.die n).cpstat 0 = up ∧ bit (t.die (1 - n)).cpstat 1 = up ∧
      (∀ j, j ≠ 0 → bit (t.die n).cpstat j = bit (s.die n).cpstat j) ∧ ∀ j, j ≠ 1 → bit (t.die (1 - n)).cpstat j = bit (s.die (1 - n)).cpstat j)) ∧
  (∀ (s : State) port (addr : W64) n, let a := addr.toNat
    let err := fun (i : Instr) => exec i s = .next { s with reply := ⟨true, [], 0, 6⟩ }
    let ok := (n = 4 ∨ n = 8 ∨ n = 64) ∧ a % n = 0 ∧ bit (s.die port).bootst 2 = true
    a + n ≤ memTop → 0 < n → s.isReserved (lineOf a) = false →
    (¬ok → err (.hostAccess port addr n none)) ∧
    (ok → (s.poisoned (lineOf a) = true → err (.hostAccess port addr n none)) ∧
      (s.poisoned (lineOf a) = false → exec (.hostAccess port addr n none) s = .next { s with reply := ⟨false, (List.range n).map fun j => s.homeByte (a + j), 0, 6⟩ }) ∧
      ∀ bs : List W8, (bs.length ≠ n → err (.hostAccess port addr n (some bs))) ∧
        (bs.length = n → ∃ t, exec (.hostAccess port addr n (some bs)) s = .next t ∧ t = { s with l2d := t.l2d, dram := t.dram, peerCopy := t.peerCopy, free := t.free, watch := t.watch, dirCopy := t.dirCopy, reply := ⟨false, [], 0, 6⟩ } ∧ WritesAt s t a bs) ∧
        (bs.length = n → s.linkq = [] → ∃ t, exec (.hostRelease port addr bs) s = .next t ∧ WritesAt s t a bs ∧ t.slotAcquire (lineOf a) = (0, 4) ∧ t.waves = s.waves ∧ ∀ g < 328, (t.core g).l1 = []))) ∧
  (∀ (s : State) port (addr : W64) n data, addr.toNat < memTop → s.isReserved (lineOf addr.toNat) = true → exec (.hostAccess port addr n data) s = .next { s with linkq := s.linkq ++ [.host port addr n data] }) ∧
  (∀ (s : State) port (addr : W64) n, memTop ≤ addr.toNat → rowOf addr ≠ .supervisor → exec (.hostAccess port addr n none) s = .next { s with reply := ⟨true, [], 0, 6⟩ }) ∧
  ∀ (s : State) port (addr : W64) n b off, memTop ≤ addr.toNat → rowOf addr = .supervisor → blockOf addr = some (b, off) →
    (b.widthOk off n = false → exec (.hostAccess port addr n none) s = .next { s with reply := ⟨true, [], 0, 6⟩ } ∧
      ∀ bs : List W8, bs.length = n → s.linkq = [] → exec (.hostRelease port addr bs) s = .next { s with reply := ⟨true, [], 0, 6⟩ }) ∧
    (b.widthOk off n = true → exec (.hostAccess port addr n none) s = .next { s with reply := ⟨false, toBytes n (s.supRead b off n), 0, 6⟩ } ∧
      ∀ bs : List W8, bs.length = n → exec (.hostAccess port addr n (some bs)) s = .next { s.supWrite b off n (ofBytes bs) with reply := ⟨false, [], 0, 6⟩ })

/-! ### Reset, bring-up and the telemetry block -/

/-- R463, R465: a cold reset leaves the device as it is at reset, all of its memory zero; a warm one does the same but keeps what memory holds, dirty L2 lines included, with LFL and the poison marks (stated where no row is marked failed). The peers' and the host's memory stays. DRAM_READY sets BOOTST[2] of both dies.
(That a warm reset keeps BOOTST[2] is the model's reading: log entry 14.) -/
def Sys2Proof.Claim.Resets : Prop :=
  (∀ s : State, ∃ t, exec .coldReset s = .next t ∧ t = { State.reset with peerMem := s.peerMem, hostMem := s.hostMem, free := s.free, nextId := s.nextId } ∧ (∀ a, a < 2 ^ 52 → t.homeByte a = 0) ∧
    (∀ l, t.poisoned l = false ∧ t.lineFloor l = 6) ∧ (∀ k, 2 ^ 52 ≤ k → t.homeByte k = s.homeByte k)) ∧
  (∀ s : State, (∀ l, s.failedLine l = false) → ∃ t, exec .warmReset s = .next t ∧ t.l2d = [] ∧ (∀ a, a < 2 ^ 52 → t.dramByte a = s.homeByte a) ∧ (∀ l, FMap.at' false t.poison l = FMap.at' false s.poison l) ∧
    (∀ l, t.lineFloor l = s.lineFloor l) ∧ (∀ d < 2, t.die d = { bootst := (s.die d).bootst &&& 4 }) ∧
    t = { State.reset with dram := t.dram, poison := t.poison, hard := s.hard, lfl := t.lfl, saves := s.saves, peerMem := s.peerMem, hostMem := s.hostMem, free := s.free, nextId := s.nextId, dies := t.dies }) ∧
  ∀ s : State, ∃ t, exec .dramReady s = .next t ∧ t = { s with dies := t.dies } ∧ ∀ d, t.die d = if d < 2 then { s.die d with bootst := (s.die d).bootst ||| 4 } else s.die d

/-- R464, R465: the first write of BOOTPC starts the die's four system cores as converged supervisor waves at that PC with their numbers in s0, or sets BOOTERR when SYSROOT is not valid or the first fetch faults; later writes are ignored. A store to SYSROOT or to an SQD entry with a reserved bit set is ignored, as is setting EN of an entry that has it; RUN keeps its lowest bit. -/
def Sys2Proof.Claim.BringUp : Prop :=
  (∀ (s : State) d v, d < 2 → let x := s.die d
    let pc := v &&& ~~~7
    let started := s.setDie d { x with bootpc := pc, bootst := x.bootst ||| 1 }
    let failed := fun (u : State) => u.setDie d { u.die d with bootst := (u.die d).bootst ||| 2 }
    (bit x.bootst 0 = true → exec (.bootpc d v) s = .next s) ∧
    (bit x.bootst 0 = false → bit x.sysroot 0 = false → exec (.bootpc d v) s = .next (failed started)) ∧
    (∀ u fi, bit x.bootst 0 = false → bit x.sysroot 0 = true → started.fetchWord (320 + 4 * d) 0 true pc = (u, .fault fi) → exec (.bootpc d v) s = .next (failed u)) ∧
    ∀ u w, bit x.bootst 0 = false → bit x.sysroot 0 = true → started.fetchWord (320 + 4 * d) 0 true pc = (u, .word w) → ∃ t, exec (.bootpc d v) s = .next t ∧ t = { u with waves := t.waves } ∧
      (∀ i < 4, ∃ y, t.waves.fetch (64 * (320 + 4 * d + i)) = some y ∧ y.team = 0 ∧ y.tag = 0 ∧ y.supervisor = true ∧ y.trapvec = 0 ∧ y.k = [(0, 0xFFFFFFFF)] ∧
        (∀ n, FMap.at' 0 y.s n = if n = 0 then BitVec.ofNat 64 (4 * d + i) else 0) ∧ y.v = [] ∧ y.a = [] ∧ y.flags = 0 ∧ y.wlim = x.wdlim.toNat ∧ y.wdog = y.wlim ∧ y.hnd = none ∧
        y.ex = { splits := [(0, { pc := pc, mask := 0xFFFFFFFF })], parked := [], ptimer := 0, rdv := [], conv := true, pcf := [] }) ∧
      ∀ j, (∀ i < 4, j ≠ 64 * (320 + 4 * d + i)) → t.waves.fetch j = u.waves.fetch j) ∧
  (∀ (s : State) d v, exec (.sysroot d v) s = .next (if bits v 1 11 = 0 then s.setDie d { s.die d with sysroot := v } else s)) ∧
  (∀ (s : State) d v, exec (.run d v) s = .next (s.setDie d { s.die d with run := v &&& 1 })) ∧
  ∀ (s : State) d q v, q < 16 → let old := FMap.at' {} (s.die d).sq q
    ((bits v 1 5 ≠ 0 ∨ (bit v 0 = true ∧ bit old.sqd 0 = true)) → exec (.sqd d q v) s = .next s) ∧
    (bits v 1 5 = 0 → (bit v 0 = false ∨ bit old.sqd 0 = false) → exec (.sqd d q v) s = .next (s.setDie d { s.die d with sq := (s.die d).sq.ins q { sqd := v } }))

/-- Cold and warm reset, DRAM_READY, BOOTPC, SYSROOT, RUN and SQD (log 14). The statement is the conjunction of its parts, each described at its definition. -/
def Obligations.ResetAndBringUp : Prop := Sys2Proof.Claim.Resets ∧ Sys2Proof.Claim.BringUp

/-- The die at the end of an ageing command: MARG of a cluster, and AGESTAT 0. -/
def AgedTo (s : State) (i : Instr) (d cl : Nat) (m : W32) : Prop :=
  ∃ t, exec i s = .next t ∧ t = { s with dies := t.dies } ∧ t.die d = { s.die d with marg := (t.die d).marg, agestat := 0, ageing := none } ∧ FMap.at' 0 (t.die d).marg cl = m ∧
    (∀ c, c ≠ cl → FMap.at' 0 (t.die d).marg c = FMap.at' 0 (s.die d).marg c) ∧ ∀ j, j ≠ d → t.die j = s.die j

/-- R470: an ageing command while one is under way is dropped; one for a cluster above 9 gives status 1. DRAIN, UNDRAIN, RETIRE and UNRETIRE give status 0 at once (log entry 48, DEDUCED) and set or clear MARG[18] or MARG[17] in the next cc. MEASURE and SETV give status 2 on a cluster with a resident team, and else take 20 and 10 microseconds: then MARGIN and VALID hold the measurement, or VOFF the new offset with VALID clear. -/
def Sys2Proof.Claim.Ageing : Prop :=
  ∀ (s : State) d cl, let x := s.die d
    let m := FMap.at' 0 x.marg cl
    let all := fun v => [Instr.drain d cl, .undrain d cl, .measure d cl, .setv d cl v, .retire d cl, .unretire d cl]
    let busy := ∃ p ∈ s.teams, clusterOf p.2.core = 10 * d + cl
    let status := fun i v => exec i s = .next (s.setDie d { x with agestat := v })
    let asked := fun i op => exec i s = .next (s.setDie d { x with agestat := 0, ageNext := x.ageNext ++ [(op, cl)] })
    let next := fun op (new : W32) => x.ageNext = [(op, cl)] → x.settle = { x with marg := x.settle.marg, ageNext := [] } ∧ FMap.at' 0 x.settle.marg cl = new ∧
      ∀ c, c ≠ cl → FMap.at' 0 x.settle.marg c = FMap.at' 0 x.marg c
    (x.agestat = 0x80 → ∀ v, ∀ i ∈ all v, exec i s = .next s) ∧
    (x.agestat ≠ 0x80 → 10 ≤ cl → ∀ v, ∀ i ∈ all v, status i 1) ∧
    (x.agestat ≠ 0x80 → cl < 10 → asked (.drain d cl) 1 ∧ asked (.undrain d cl) 2 ∧ asked (.retire d cl) 5 ∧ asked (.unretire d cl) 6) ∧
    (next 1 (m ||| 0x40000) ∧ next 2 (m &&& ~~~0x40000) ∧ next 5 (m ||| 0x20000) ∧ next 6 (m &&& ~~~0x20000)) ∧
    -- the end of the cc, on a device at rest
    (d < 2 → s.agenda = [] → s.phase ≠ 0 → s.waves = [] → (∀ e < 2, (s.die e).agents = [] ∧ bit (s.die e).myinc 24 = false ∧ (s.die e).ageing = none) →
      ∃ t, step s = .next t ∧ (t.die d).marg = x.settle.marg ∧ (t.die d).ageNext = []) ∧
    (x.agestat ≠ 0x80 → cl < 10 → ∀ v,
      (busy → status (.measure d cl) 2 ∧ status (.setv d cl v) 2) ∧
      (¬busy → exec (.measure d cl) s = .next (s.setDie d { x with agestat := 0x80, ageing := some ⟨3, cl, 0, s.cc + 50000⟩ }) ∧
        exec (.setv d cl v) s = .next (s.setDie d { x with agestat := 0x80, ageing := some ⟨4, cl, v % 16, s.cc + 25000⟩ }))) ∧
    (∀ g : W8, (x.ageing = none → exec (.measureDone d g) s = .next s ∧ exec (.setvDone d) s = .next s) ∧
      ∀ n v, (s.cc < n → x.ageing = some ⟨3, cl, v, n⟩ → exec (.measureDone d g) s = .next s) ∧
        (n ≤ s.cc → x.ageing = some ⟨3, cl, v, n⟩ → AgedTo s (.measureDone d g) d cl ((m &&& ~~~0x100FF) ||| 0x10000 ||| g.zeroExtend 32)) ∧
        (n ≤ s.cc → x.ageing = some ⟨4, cl, v, n⟩ → AgedTo s (.setvDone d) d cl ((m &&& ~~~0x10F00) ||| BitVec.ofNat 32 (256 * v))))

/-- R467 to R469: a sample stores the sensors' values, the hottest cluster's among them, and the time, and moves the throttle level by the table of R468; THRCNT counts it when the level in force before it was above 0 (log entry 48, DEDUCED), and a trip sets THR[4]. CLRCNT clears the counters of the die, its stacks and its cores. A RESET of an array acts under HOLD alone: it stops every loaded configuration, zeroes the planes but not the partition table, empties the deck and raises AINC. -/
def Sys2Proof.Claim.Telemetry : Prop :=
  (∀ (s : State) d pwr tdie any clt stk, d < 2 → clt.length = 10 → tdie ∈ clt → (∀ v ∈ clt, v.toInt ≤ tdie.toInt) → let x := s.die d
    let n := bits x.thr 0 4
    let cap := bits x.pcap 0 16
    let lim := (x.tlim.truncate 16 : W16).toInt
    let trip := (x.ttrip.truncate 16 : W16).toInt
    let up := n < 8 ∧ ((cap ≠ 0 ∧ cap < pwr.toNat) ∨ lim < tdie.toInt)
    let down := n < 8 ∧ (cap = 0 ∨ 100 * pwr.toNat < 95 * cap) ∧ tdie.toInt < lim - 40
    n ≤ 8 → ∃ t, exec (.telemetrySample d pwr any clt stk) s = .next t ∧ (t.die d).tsamp = s.cc ∧ (t.die d).pwr = pwr.zeroExtend 32 ∧ (t.die d).tdie = tdie.zeroExtend 32 ∧
      (∀ c < 10, FMap.at' 0 (t.die d).clt c = (clt.getD c 0).zeroExtend 32) ∧ (∀ j < 6, (t.stk (6 * d + j)).stkpt = stk.getD j 0) ∧ t.waves = s.waves ∧ t.cores = s.cores ∧ t.teams = s.teams ∧
      bits (t.die d).thr 0 4 = (if trip ≤ tdie.toInt then 8 else if n = 8 ∧ tdie.toInt < lim then 7 else if up then min (n + 1) 7 else if down then n - 1 else n) ∧
      (t.die d).thrcnt = (if n = 0 then x.thrcnt else if x.thrcnt = 0xFFFFFFFF then x.thrcnt else x.thrcnt + 1) ∧
      bit (t.die d).thr 4 = (bit x.thr 4 || decide (trip ≤ tdie.toInt ∧ n ≠ 8))) ∧
  (∀ (s : State) d, d < 2 → ∃ t, exec (.clrcnt d) s = .next t ∧ t = { s with dies := t.dies, stks := t.stks, cores := t.cores } ∧ t.die d = { s.die d with
      thr := (s.die d).thr &&& ~~~0x10, thrcnt := 0, rce := 0, rue := 0, l1e := 0, link := (t.die d).link } ∧ (∀ p, bits (FMap.at' 0 (t.die d).link p) 0 32 = 0 ∧ bits (FMap.at' 0 (t.die d).link p) 32 9 = bits (FMap.at' 0 (s.die d).link p) 32 9) ∧
    (∀ st, t.stk st = if 6 * d ≤ st ∧ st < 6 * d + 6 then { s.stk st with dramce := 0, dramue := 0, rollb := 0, stops := 0, regc := 0, arue := 0 } else s.stk st) ∧
    ∀ g, t.core g = if dieOf g = d then { s.core g with ce := 0, ue := 0 } else s.core g) ∧
  ∀ (s : State) st, st < 12 → ((s.stk st).hold = false → exec (.arrayReset st) s = .next s) ∧
    ((s.stk st).hold = true → ∃ t, exec (.arrayReset st) s = .next t ∧ (t.stk st).deck = [] ∧ (t.stk st).ainc = (s.stk st).ainc + 1 ∧ (t.stk st).hold = true ∧ t.waves = s.waves ∧
      (∀ k c e f, e < 1010 → f < 64 → k < 4 → c < 4 → (t.stk st).field k c e f = 0) ∧ (∀ k i, k < 4 → i < 16 → (t.stk st).ptab k i = (s.stk st).ptab k i) ∧
      ((s.stk st).ctxs = [] → (s.stk st).splices = [] → t.dies = s.dies ∧ t.l2d = s.l2d))

/-- R410, R411, R465, R467, R469: a store to a register of the supervisor window is a write of that register, of its lower or upper half where it is wide, and of nothing where none is listed or the width is not one that the block accepts; registers keep the bits that they define, a counter that is cleared by a write of any value is cleared, and read-only ones stay. -/
def Sys2Proof.Claim.RegisterWrites : Prop :=
  ∀ (s : State) d, d < 2 → let x := s.die d
    let C : W64 := 0x01FFF20000000000 + BitVec.ofNat 64 (0x1000000 * d)
    let L : W64 := 0x01FFF30000000000 + BitVec.ofNat 64 (0x1000000 * d)
    let T : W64 := 0x01FFF40000000000 + BitVec.ofNat 64 (0x1000000 * d)
    let put := fun (i : Instr) (y : Die) => exec i s = .next (s.setDie d y)
    let keeps := fun (i : Instr) => exec i s = .next s
    ∀ v : W64, let w : W32 := v.truncate 32
      put (.registerWrite C 8 v) { x with fqbase := v &&& ~~~0xFFF } ∧ put (.registerWrite (C + 8) 4 v) { x with fqlog2n := w &&& 0x1F } ∧
      put (.registerWrite C 4 v) { x with fqbase := ((x.fqbase &&& 0xFFFFFFFF00000000) ||| w.zeroExtend 64) &&& ~~~0xFFF } ∧
      put (.registerWrite (C + 0x20) 4 v) { x with fqlost := 0 } ∧ put (.registerWrite (C + 0x24) 4 v) { x with fqerr := 0 } ∧ put (.registerWrite (C + 0x30) 8 v) { x with ctxt := v } ∧
      put (.registerWrite (C + 0x38) 4 v) { x with wdlim := w } ∧ put (.registerWrite (C + 0x3C) 4 v) { x with hbmiss := w &&& 0xFF } ∧ put (.registerWrite (C + 0x40) 4 v) { x with recmax := w } ∧
      (∀ m < 144, put (.registerWrite (C + BitVec.ofNat 64 (0x400 + 4 * m)) 4 v) (x.setAgent m { x.agent m with drops := 0 })) ∧
      keeps (.registerWrite (C + 0x10) 8 v) ∧ keeps (.registerWrite (C + 0x48) 4 v) ∧ keeps (.registerWrite (C + 0x28) 4 v) ∧ keeps (.registerWrite (C + 8) 2 v) ∧ keeps (.registerWrite (C + 2) 4 v) ∧
      exec (.registerWrite (C + 0x18) 8 v) s = exec (.fqheadWrite d v) s ∧
      exec (.registerWrite L 8 v) s = exec (.bootpc d v) s ∧ exec (.registerWrite (L + 8) 8 v) s = exec (.sysroot d v) s ∧ exec (.registerWrite (L + 0x10) 4 v) s = exec (.run d w) s ∧
      (∀ q < 16, exec (.registerWrite (L + BitVec.ofNat 64 (0x80 + 8 * q)) 8 v) s = exec (.sqd d q v) s) ∧
      (((bit (s.die 0).run 0 || bit (s.die 1).run 0) = false → exec (.registerWrite (L + 0x20) 8 v) s = .next { s with kbase := v &&& ~~~0xFFF } ∧
        exec (.registerWrite (L + 0x28) 4 v) s = .next { s with klog2n := w &&& 0x1F })) ∧
      ((bit (s.die 0).run 0 || bit (s.die 1).run 0) = true → keeps (.registerWrite (L + 0x20) 8 v) ∧ keeps (.registerWrite (L + 0x28) 4 v)) ∧
      put (.registerWrite (T + 0x10) 4 v) { x with pcap := w &&& 0xFFFF } ∧ put (.registerWrite (T + 0x14) 4 v) { x with tlim := w &&& 0xFFFF } ∧ keeps (.registerWrite (T + 0x18) 4 v) ∧
      exec (.registerWrite (T + 0x300) 4 v) s = exec (.clrcnt d) s ∧
      (bits w 12 20 = 0 → bit w 7 = false → let cl := bits w 0 4
        exec (.registerWrite (T + 0xC0) 4 v) s = match bits w 4 3 with
          | 1 => exec (.drain d cl) s | 2 => exec (.undrain d cl) s | 3 => exec (.measure d cl) s | 4 => exec (.setv d cl (bits w 8 4)) s | 5 => exec (.retire d cl) s | 6 => exec (.unretire d cl) s
          | _ => .next (if x.agestat = 0x80 then s else s.setDie d { x with agestat := 1 })) ∧
      ∀ st < 12, let S : W64 := 0x01FFF80000000000 + BitVec.ofNat 64 (0x1000000 * st)
        (∀ i < 1024, exec (.registerWrite (S + BitVec.ofNat 64 (0x200000 + 4 * i)) 4 v) s = exec (.failedRowWrite st i w) s) ∧
        ∀ off, off < 0x100000 → off % 4 = 0 → exec (.registerWrite (S + BitVec.ofNat 64 off) 4 v) s = exec (.configFieldWrite st off w) s

/-! ### Checks before the effect, and register errors -/

/-- R18, R72: a varying operand or destination, or the random operand, lies at or above the wave's block; of a pair, its odd half. -/
def OutsideBlock (x : Ctx) (p : Forms.Spec) : Prop :=
  let past := fun (pair : Bool) (n : Nat) => 2 ^ x.w.lregs ≤ (if pair then n + 1 else n)
  (x.f.a.file = .v ∧ past p.aPair x.f.a.num.toNat) ∨ (x.f.b.file = .v ∧ past p.bPair x.f.b.num.toNat) ∨
  (x.f.c.file = .v ∧ past p.cPair x.f.c.num.toNat) ∨ (x.f.d.file = .v ∧ past p.dPair x.f.d.num.toNat) ∨
  (p.rnd = some .v ∧ past false x.f.rnd.toNat)

/-- The checks of ILLOP that some forms add: `tret` outside a handler (R210), a core barrier that the team lacks (R272), and a
matrix fragment that leaves the block (R289). -/
def OwnIllop (i : Instr) (x : Ctx) : Prop :=
  match i with
  | .tret _ => x.w.hnd = none
  | .barArr _ | .barWait _ | .barSync _ => x.noBar = true
  | .mma t _ | .mmaClu t _ => x.fragOut t = true
  | _ => False

/-- R53, R75: the instruction writes a register that is uniform over the wave, or computes from every live lane. -/
def NeedsConv (i : Instr) (x : Ctx) : Prop :=
  x.f.d.file = .s ∨ x.f.d.file = .a ∨
  match i with
  | .wrsys _ => x.f.d.num.toNat = 0x08 ∨ x.f.d.num.toNat = 0x30 ∨ x.f.d.num.toNat = 0x31 ∨ (0x20 ≤ x.f.d.num.toNat ∧ x.f.d.num.toNat ≤ 0x2F)
  | .vcvtMxf4F32 _ _ => True
  | _ => False

/-- A register that an instruction reads: one of its sources, its random operand, or the old word of a varying destination that it writes at fewer than 32 lanes
(R90, R92; with no active lane too: the model's choice, log entry 37). -/
def ReadsReg (x : Ctx) (p : Forms.Spec) (r : Src) : Prop :=
  let names := fun (pair : Bool) (o : Src) => (o.file = .s ∨ o.file = .a ∨ o.file = .t ∨ o.file = .v) ∧ r.file = o.file ∧
    (r.num = o.num ∨ (pair = true ∧ o.file = .v ∧ r.num = o.num + 1))
  (p.a ≠ [] ∧ names p.aPair x.f.a) ∨ (p.b ≠ [] ∧ names p.bPair x.f.b) ∨ (p.c ≠ [] ∧ names p.cPair x.f.c) ∨
  (∃ c, p.rnd = some c ∧ names false ⟨c, x.f.rnd⟩) ∨ (x.f.d.file = .v ∧ x.act ≠ 0xFFFFFFFF ∧ names p.dPair ⟨.v, x.f.d.num⟩)

/-- A form that tests the errors of its registers later: at the completion of its rendezvous, or with the accumulator that it names (R269, R288, R290). -/
def ReadsLater : Instr → Prop
  | .join _ | .shflIdx _ | .shflUp _ | .shflDn _ | .shflXor _ | .voteAll _ | .voteAny _ | .voteUni _ | .ballot _ | .matchLanes _
  | .red _ _ | .scan _ _ | .scanX _ _ | .mma _ _ | .mmaClu _ _ | .accld _ | .accst _ | .acczero _ => True
  | _ => False

/-- R18, R53, R72, R75, R92: the checks that come before the effect of an encoded instruction, in their order: ILLOP for a register beyond the wave's block or a check of the form's own; else UNCONV, with CONV = 0,
for a uniform or affine destination, a U system register or vcvt.mxf4.f32; else ECCU for a register that it reads and whose error cannot be corrected. Each takes its exception at the instruction, whatever the later checks would find, and
the instruction has no effect. -/
def Sys2Proof.Claim.ChecksBeforeEffect : Prop :=
  ∀ i s x p f, Forms.spec i = some (p, f) → s.here f = some x →
    (OutsideBlock x p ∨ OwnIllop i x → exec i s = .next (s.raise x { code := .illop })) ∧
    (¬OutsideBlock x p → ¬OwnIllop i x → x.conv = false → NeedsConv i x → exec i s = .next (s.raise x { code := .unconv })) ∧
    (¬OutsideBlock x p → ¬OwnIllop i x → (x.conv = true ∨ ¬NeedsConv i x) → ¬ReadsLater i →
      (∃ r, ReadsReg x p r ∧ x.errorOf r = some true) → ∃ u, exec i s = .next (u.raise x { code := .eccu }) ∧
        u = { s with waves := u.waves, teams := u.teams, cores := u.cores, dies := u.dies } ∧
        ((∀ r, ReadsReg x p r → x.errorOf r ≠ some false) → u = s))

/-- R66, R407, R408: a fault in a wave that has a handler and runs none enters it, with the lanes and the PC of the issuing split, and changes nothing else; PAGE, WDOG, ECCU and SPLITX go to the service instead. -/
def Sys2Proof.Claim.FaultsEnterHandler : Prop :=
  ∀ (s : State) f x fi, s.here f = some x → fi.code ≠ .page → fi.code ≠ .wdog → fi.code ≠ .eccu → fi.code ≠ .splitx →
    x.w.trapvec ≠ 0 → x.w.hnd = none →
    ∃ w', InHandler x.w w' x.sp.mask x.sp.pc x.sp.pc fi ∧ s.raise x fi = s.withWave x w'

/-- R92, R93, R466, R467: an ECCU counts one uncorrectable error on the core, however many were found (DESIGN CHOICE, log entry 55), and on its die what the core's counter rises by. -/
def Sys2Proof.Claim.EccuIsCounted : Prop :=
  ∀ (s : State) f x, s.here f = some x →
    let t := s.raise x { code := .eccu }
    (∀ g, t.core g = if g = x.core then { s.core g with ue := min ((s.core g).ue + 1) 0xFFFF } else s.core g) ∧
    (t.die x.die).rue.toNat = min ((s.die x.die).rue.toNat + (min ((s.core x.core).ue + 1) 0xFFFF - (s.core x.core).ue)) 0xFFFFFFFF

/-- The state after the reads of an instruction have corrected n registers: the errors of exactly those are gone, each has counted once, and nothing else has changed (R91, R93). -/
def Corrected (s : State) (x : Ctx) (p : Forms.Spec) (u : State) : Prop :=
  ∃ errs : List Src, errs.Nodup ∧ (∀ r, r ∈ errs ↔ ReadsReg x p r ∧ x.errorOf r = some false) ∧
    let clears := fun (file : SFile) (old new : FMap Bool) => ∀ k, FMap.fetch new k =
      if ∃ r ∈ errs, r.file = file ∧ r.num.toNat = k then none else FMap.fetch old k
    u = { s with waves := u.waves, teams := u.teams, cores := u.cores, dies := u.dies } ∧
    (∀ k, k ≠ x.key → u.waves.fetch k = s.waves.fetch k) ∧
    (∃ sp ap vp, u.waves.fetch x.key = some { x.w with spois := sp, apois := ap, vpois := vp } ∧
      clears .s x.w.spois sp ∧ clears .a x.w.apois ap ∧ clears .v x.w.vpois vp) ∧
    (∀ k, k ≠ x.w.team → u.teams.fetch k = s.teams.fetch k) ∧
    (∀ tm, s.teams.fetch x.w.team = some tm → ∃ o n, u.teams.fetch x.w.team = some { tm with tpold := o, tpois := n } ∧
      clears .t (tm.errors s.cc) (({ tm with tpold := o, tpois := n } : Team).errors s.cc) ∧
      ∀ k, FMap.fetch n k = if FMap.fetch tm.tpois k = some false ∧ ∃ r ∈ errs, r.file = .t ∧ r.num.toNat = k then none else FMap.fetch tm.tpois k) ∧
    (∀ g, u.core g = if g = x.core then { s.core g with ce := if errs = [] then (s.core g).ce else min ((s.core g).ce + errs.length) 0xFFFFFFFF } else s.core g) ∧
    (∀ d, d ≠ x.die → u.die d = s.die d) ∧ u.die x.die = { s.die x.die with rce := (u.die x.die).rce } ∧
    (u.die x.die).rce.toNat = min ((s.die x.die).rce.toNat + ((u.core x.core).ce - (s.core x.core).ce)) 0xFFFFFFFF

/-- R91, R93, R466: a typed integer form, or a conversion between formats, whose reads find errors that can be corrected has the effect that it has in the state in which they are corrected and written back, and each is counted once. -/
def Sys2Proof.Claim.CorrectedErrors : Prop :=
  ∀ i, (∃ c t f, (∃ r ∈ arithTable ++ logicTable ++ fieldTable ++ divTable ++ satTable, i = r.1 c t f) ∨ (∃ r ∈ cmpTable, i = r.1 c t f)) ∨
      (∃ c d e r f, i = .cvt c d e r f) →
    ∀ s x p f, Forms.spec i = some (p, f) → s.here f = some x → ¬OutsideBlock x p → (x.conv = true ∨ ¬NeedsConv i x) →
      (∀ r, ReadsReg x p r → x.errorOf r ≠ some true) →
      ∃ u, Corrected s x p u ∧ exec i s = exec i u

/-- The checks before an effect, in their order: ILLOP, UNCONV, ECCU; and what corrected register errors leave (log 37, 55). The statement is the conjunction of its parts, each described at its definition. -/
def Obligations.ChecksBeforeEffect : Prop := Sys2Proof.Claim.ChecksBeforeEffect ∧ Sys2Proof.Claim.FaultsEnterHandler ∧ Sys2Proof.Claim.EccuIsCounted ∧ Sys2Proof.Claim.CorrectedErrors

/-- R89, R437, R466, R467: a soft error from outside: it marks the word that it strikes, and one that cannot be corrected stays so; a parity error drops the line from the L1 and the instruction cache and counts in L1E; a corrected error of DRAM counts in DRAMCE, one that
cannot be corrected poisons its line and counts in DRAMUE; a flit sent again counts in RETRY. Nothing else changes. (The event and its marks are the model's: DESIGN CHOICE, log entry 55.) -/
def Sys2Proof.Claim.SoftErrors : Prop :=
  let hit := fun (old new : FMap Bool) (n : Nat) (hard : Bool) => ∀ k, FMap.fetch new k =
    if k = n then some (hard || FMap.at' false old n) else FMap.fetch old k
  let up := fun (c : W32) => if c.toNat = 0xFFFFFFFF then c else c + 1
  (∀ (s : State) g slot n hard w, s.waves.fetch (wkey g slot) = some w →
    (n < 256 → ∃ m, hit w.vpois m n hard ∧ (s.upset (.wave g slot .v n hard)).waves.fetch (wkey g slot) = some { w with vpois := m }) ∧
    (n < 64 → ∃ m, hit w.spois m n hard ∧ (s.upset (.wave g slot .s n hard)).waves.fetch (wkey g slot) = some { w with spois := m }) ∧
    (n < 32 → ∃ m, hit w.apois m n hard ∧ (s.upset (.wave g slot .a n hard)).waves.fetch (wkey g slot) = some { w with apois := m }) ∧
    ∃ m, hit w.ypois m n hard ∧ (s.upset (.wave g slot .sys n hard)).waves.fetch (wkey g slot) = some { w with ypois := m }) ∧
  (∀ (s : State) g slot file n hard, let t := s.upset (.wave g slot file n hard)
    t = { s with waves := t.waves } ∧ ∀ k, k ≠ wkey g slot → t.waves.fetch k = s.waves.fetch k) ∧
  (∀ (s : State) team n hard tm, n < 16 → s.teams.fetch team = some tm → ∃ m, hit tm.tpois m n hard ∧
    (s.upset (.team team n hard)).teams.fetch team = some { tm with tpois := m } ∧ s.upset (.team team n hard) = { s with teams := (s.upset (.team team n hard)).teams }) ∧
  (∀ (s : State) g n hard, (∃ m, hit (s.core g).ypois m n hard ∧ s.upset (.coreReg g n hard) = s.setCore g { s.core g with ypois := m }) ∧
    ∃ m, hit (s.core g).accpois m n hard ∧ s.upset (.accRow g n hard) = s.setCore g { s.core g with accpois := m }) ∧
  (∀ (s : State) g line, let t := s.upset (.l1 g line)
    let held := (∃ k ∈ (s.core g).l1, lineOf k.1 = line) ∨ ∃ k ∈ (s.core g).icache, lineOf k.1 = line
    (¬held → t = s) ∧
    (held → (t.die (dieOf g)).l1e = up (s.die (dieOf g)).l1e ∧ t = { s with cores := t.cores, dies := t.dies } ∧
      (∀ h, h ≠ g → t.core h = s.core h) ∧ t.core g = { s.core g with l1 := (t.core g).l1, icache := (t.core g).icache } ∧
      (∀ k, (t.core g).l1.fetch k = if lineOf k = line then none else (s.core g).l1.fetch k) ∧
      ∀ k, (t.core g).icache.fetch k = if lineOf k = line then none else (s.core g).icache.fetch k)) ∧
  (∀ (s : State) n, s.upset (.dram n) = s.setStk n { s.stk n with dramce := up (s.stk n).dramce }) ∧
  (∀ (s : State) line, homeOf (128 * line) = .here → let t := s.upset (.dramBad line)
    t.poisoned line = true ∧ (∀ k, k ≠ line → FMap.at' false t.poison k = FMap.at' false s.poison k) ∧
      (t.stk (stackOf (128 * line))).dramue = up (s.stk (stackOf (128 * line))).dramue ∧ t.waves = s.waves ∧ t.cores = s.cores ∧ t.dram = s.dram) ∧
  ∀ (s : State) port, port < 18 → let t := s.upset (.flit port)
    let old := FMap.at' (0 : W64) (s.die (port / 9)).link (port % 9)
    let new := FMap.at' (0 : W64) (t.die (port / 9)).link (port % 9)
    (new.truncate 32 : W32) = up (old.truncate 32) ∧ new >>> 32 = old >>> 32 ∧ t = { s with dies := t.dies } ∧ t.waves = s.waves

/-- Ageing commands, telemetry, counters, the reset of an array, register writes, and soft errors (log 48, 55). The statement is the conjunction of its parts, each described at its definition. -/
def Obligations.FleetAndRegisters : Prop := Sys2Proof.Claim.Ageing ∧ Sys2Proof.Claim.Telemetry ∧ Sys2Proof.Claim.RegisterWrites ∧ Sys2Proof.Claim.SoftErrors
end

