-- ==== Sys2Proof/Laws/Memory.lean ====
section
/-! SUPPORT. Laws of memory: every named operation on DRAM, the poison marks and the line floors keeps their canonical form, reset has it,
a write reads back, and memories in canonical form that read alike are the same list. -/
namespace Sys2Proof.Machine

/-! ### Equal memories are equal data -/

theorem sorted_ext {α : Type} {m n : FMap α} {b : Nat} (hm : FMap.above (some b) m = true) (hn : FMap.above (some b) n = true)
    (h : ∀ i, FMap.fetch m i = FMap.fetch n i) : m = n := by
  induction m generalizing n b with
  | nil =>
    cases n with
    | nil => rfl
    | cons q n => have := h q.1; simp [FMap.fetch] at this
  | cons p m ih =>
    cases n with
    | nil => have := h p.1; simp [FMap.fetch] at this
    | cons q n =>
      simp only [FMap.above, Bool.and_eq_true, decide_eq_true_eq] at hm hn
      have key : p.1 = q.1 := by
        by_contra hne
        rcases Nat.lt_or_gt_of_ne hne with hlt | hlt
        · have := h p.1
          rw [FMap.fetch, if_pos rfl, FMap.fetch, if_neg hne, FMap.fetch_of_above hn.2 (Nat.le_of_lt hlt)] at this
          cases this
        · have := h q.1
          rw [FMap.fetch, if_neg (Ne.symm hne), FMap.fetch_of_above hm.2 (Nat.le_of_lt hlt), FMap.fetch, if_pos rfl] at this
          cases this
      have val : p.2 = q.2 := by
        have := h p.1
        rw [FMap.fetch, if_pos rfl, FMap.fetch, if_pos key] at this
        exact Option.some.inj this
      have hq : q = p := Prod.ext key.symm val.symm
      subst hq
      congr 1
      refine ih hm.2 hn.2 fun i => ?_
      by_cases hi : i = q.1
      · rw [hi, FMap.fetch_of_above hm.2 (Nat.le_refl _), FMap.fetch_of_above hn.2 (Nat.le_refl _)]
      · have := h i
        rwa [FMap.fetch, if_neg hi, FMap.fetch, if_neg hi] at this

/-- Two memories in canonical form that hold the same value at every address are the same list. -/
theorem canon_ext {α : Type} [DecidableEq α] {d : α} {m n : FMap α} (hm : FMap.canon d m = true) (hn : FMap.canon d n = true)
    (h : ∀ i, FMap.at' d m i = FMap.at' d n i) : m = n := by
  have hf : ∀ i, FMap.fetch m i = FMap.fetch n i := by
    intro i
    by_cases hi : FMap.at' d m i = d
    · rw [(FMap.fetch_eq_none_iff hm i).mpr hi, (FMap.fetch_eq_none_iff hn i).mpr (h i ▸ hi)]
    · have h1 : FMap.fetch m i ≠ none := fun e => hi ((FMap.fetch_eq_none_iff hm i).mp e)
      have h2 : FMap.fetch n i ≠ none := fun e => hi (h i ▸ (FMap.fetch_eq_none_iff hn i).mp e)
      obtain ⟨a, ha⟩ := Option.ne_none_iff_exists'.mp h1
      obtain ⟨b, hb⟩ := Option.ne_none_iff_exists'.mp h2
      have := h i
      simp only [FMap.at', ha, hb, Option.getD_some] at this
      rw [ha, hb, this]
  simp only [FMap.canon, Bool.and_eq_true] at hm hn
  cases m with
  | nil =>
    cases n with
    | nil => rfl
    | cons q n => have := hf q.1; simp [FMap.fetch] at this
  | cons p m =>
    cases n with
    | nil => have := hf p.1; simp [FMap.fetch] at this
    | cons q n =>
      have a1 : FMap.above (some p.1) m = true := hm.1
      have a2 : FMap.above (some q.1) n = true := hn.1
      have key : p.1 = q.1 := by
        by_contra hne
        rcases Nat.lt_or_gt_of_ne hne with hlt | hlt
        · have := hf p.1
          rw [FMap.fetch, if_pos rfl, FMap.fetch, if_neg hne, FMap.fetch_of_above a2 (Nat.le_of_lt hlt)] at this
          cases this
        · have := hf q.1
          rw [FMap.fetch, if_neg (Ne.symm hne), FMap.fetch_of_above a1 (Nat.le_of_lt hlt), FMap.fetch, if_pos rfl] at this
          cases this
      have val : p.2 = q.2 := by
        have := hf p.1
        rw [FMap.fetch, if_pos rfl, FMap.fetch, if_pos key] at this
        exact Option.some.inj this
      have hq : q = p := Prod.ext key.symm val.symm
      subst hq
      congr 1
      refine sorted_ext a1 a2 fun i => ?_
      by_cases hi : i = q.1
      · rw [hi, FMap.fetch_of_above a1 (Nat.le_refl _), FMap.fetch_of_above a2 (Nat.le_refl _)]
      · have := hf i
        rwa [FMap.fetch, if_neg hi, FMap.fetch, if_neg hi] at this

/-! ### Operations that keep the canonical form -/

/-- An operation that leaves DRAM, the poison marks and the line floors alone keeps their form. -/
theorem form_of_eq {s t : State} (h : MemoryForm s) (hd : t.dram = s.dram) (hp : t.poison = s.poison) (hl : t.lfl = s.lfl) :
    MemoryForm t := by
  unfold MemoryForm
  rw [hd, hp, hl]
  exact h

/-- A chain of operations that each keep the form keeps it. -/
theorem form_foldl {α : Type} {op : State → α → State} (hop : ∀ s a, MemoryForm s → MemoryForm (op s a)) (ls : List α) {s : State}
    (h : MemoryForm s) : MemoryForm (ls.foldl op s) := by
  induction ls generalizing s with
  | nil => exact h
  | cons a ls ih => exact ih (hop s a h)

theorem form_reset : MemoryForm State.reset := ⟨rfl, rfl, rfl⟩

theorem form_putDram {s : State} (pa : Nat) (b : W8) (h : MemoryForm s) : MemoryForm (s.putDram pa b) :=
  ⟨FMap.canon_put pa b h.1, h.2.1, h.2.2⟩

theorem form_setPoison {s : State} (line : Nat) (b : Bool) (h : MemoryForm s) : MemoryForm (s.setPoison line b) :=
  ⟨h.1, FMap.canon_put line b h.2.1, h.2.2⟩

theorem form_scopeFlush {s : State} (scope m g : Nat) (h : MemoryForm s) : MemoryForm (s.scopeFlush scope m g) := by
  unfold State.scopeFlush
  split
  · exact form_of_eq h rfl rfl rfl
  · exact h

theorem form_evictSlot {s : State} (sl : SigSlot) (h : MemoryForm s) : MemoryForm (s.evictSlot sl) := by
  have h1 := form_scopeFlush sl.scope sl.member sl.core h
  exact ⟨h1.1, h1.2.1, FMap.canon_put _ _ h1.2.2⟩

theorem form_updDie {s : State} (d : Nat) (f : Die → Die) (h : MemoryForm s) : MemoryForm (s.updDie d f) := form_of_eq h rfl rfl rfl
theorem form_updCore {s : State} (g : Nat) (f : Core → Core) (h : MemoryForm s) : MemoryForm (s.updCore g f) := form_of_eq h rfl rfl rfl
theorem form_updStk {s : State} (n : Nat) (f : Stack → Stack) (h : MemoryForm s) : MemoryForm (s.updStk n f) := form_of_eq h rfl rfl rfl
theorem form_updWave {s : State} (k : Nat) (f : Wave → Wave) (h : MemoryForm s) : MemoryForm (s.updWave k f) := form_of_eq h rfl rfl rfl
theorem form_updTeam {s : State} (k : Nat) (f : Team → Team) (h : MemoryForm s) : MemoryForm (s.updTeam k f) := form_of_eq h rfl rfl rfl
theorem form_tick {s : State} (h : MemoryForm s) : MemoryForm s.tick := form_of_eq h rfl rfl rfl

theorem form_putSlot {s : State} (sl : SigSlot) (h : MemoryForm s) : MemoryForm (s.putSlot sl) := by
  unfold State.putSlot
  extract_lets k ways s1 ways1
  by_cases h1 : (ways.any fun x => x.line == sl.line) = true
  · rw [if_pos h1]
    exact form_updDie _ _ h
  · rw [if_neg h1]
    refine form_updDie _ _ ?_
    show MemoryForm (if ways.length < 16 then s else _)
    by_cases h2 : ways.length < 16
    · rw [if_pos h2]
      exact h
    · rw [if_neg h2]
      clear_value ways
      cases ways with
      | nil => exact h
      | cons v _ => exact form_evictSlot v h

theorem form_slotRelease {s : State} (line : Nat) (rmw : Bool) (sig : Sig) (floor scope m g : Nat) (h : MemoryForm s) :
    MemoryForm (s.slotRelease line rmw sig floor scope m g) := by
  unfold State.slotRelease
  extract_lets old sl
  split
  · exact form_putSlot _ (form_scopeFlush _ _ _ h)
  · exact form_putSlot _ h

theorem form_foundBad {s : State} (line : Nat) (h : MemoryForm s) : MemoryForm (s.foundBad line) :=
  form_of_eq (form_setPoison line true h) rfl rfl rfl

theorem form_cleanLine {s : State} (line : Nat) (h : MemoryForm s) : MemoryForm (s.cleanLine line) := by
  refine form_foldl (fun s k h => ?_) _ h
  split
  · exact h
  · exact form_of_eq (form_putDram k _ h) rfl rfl rfl

theorem form_leaveL2 {s : State} (d line : Nat) (h : MemoryForm s) : MemoryForm (s.leaveL2 d line) := by
  unfold State.leaveL2
  split
  · exact form_cleanLine _ h
  · exact form_of_eq h rfl rfl rfl

theorem form_fitL2 {s : State} (d line : Nat) (h : MemoryForm s) : MemoryForm (s.fitL2 d line) := by
  unfold State.fitL2
  split
  · exact h
  · simp only
    split
    · exact h
    · exact form_leaveL2 _ _ (form_tick h)

theorem form_writeHere {s : State} (k : Nat) (bs : List W8) (h : MemoryForm s) : MemoryForm (s.writeHere k bs) :=
  form_of_eq (form_fitL2 (nearDie (stackOf k)) (lineOf k) h) rfl rfl rfl

theorem form_dropPeerCopies {s : State} (line : Nat) (h : MemoryForm s) : MemoryForm (s.dropPeerCopies line) := form_of_eq h rfl rfl rfl

theorem form_writeHome {s : State} (k : Nat) (bs : List W8) (h : MemoryForm s) : MemoryForm (s.writeHome k bs) := by
  unfold State.writeHome
  split
  · exact form_writeHere _ _ h
  · exact form_of_eq (form_foldl (fun s i h => form_dropPeerCopies _ h) _ h) rfl rfl rfl
  · exact form_of_eq h rfl rfl rfl

theorem form_dropDirty {s : State} (line : Nat) (h : MemoryForm s) : MemoryForm (s.dropDirty line) := form_of_eq h rfl rfl rfl
theorem form_dropCopies {s : State} (line : Nat) (h : MemoryForm s) : MemoryForm (s.dropCopies line) := form_of_eq h rfl rfl rfl

theorem form_settleLine {s : State} (line : Nat) (h : MemoryForm s) : MemoryForm (s.settleLine line) := by
  unfold State.settleLine
  split
  · simp only
    split
    · exact form_cleanLine _ (form_tick h)
    · exact form_tick h
  · exact h

theorem form_readDram {s : State} (pa n : Nat) (h : MemoryForm s) : MemoryForm (s.readDram pa n).1 :=
  form_foldl (fun _ l h => form_settleLine l h) _ h

theorem form_writeDram {s : State} (pa : Nat) (bs : List W8) (h : MemoryForm s) : MemoryForm (s.writeDram pa bs) :=
  form_foldl (fun _ l h => form_dropCopies l h) _ (form_of_eq (form_foldl (fun _ (p : Nat × W8) h => form_putDram p.1 p.2 h) _ h) rfl rfl rfl)

theorem form_performStore {s : State} (wk k : Nat) (bs : List W8) (h : MemoryForm s) : MemoryForm (s.performStore wk k bs) := by
  unfold State.performStore
  simp only
  split
  · exact form_writeHere _ _ h
  · split
    · exact form_writeHome _ _ h
    · exact form_updWave _ _ h
  · split
    · exact form_writeHome _ _ h
    · exact form_updWave _ _ h
    · exact form_updWave _ _ h

theorem form_drainWcb {s : State} (g : Nat) (p : WcbEnt → Bool) (h : MemoryForm s) : MemoryForm (s.drainWcb g p) := by
  unfold State.drainWcb
  simp only
  split
  · exact h
  · exact form_updCore _ _ (form_foldl (fun s e h => form_foldl (fun s q h => form_performStore _ _ _ h) _ h) _ h)

theorem form_settleDirty {s : State} (line : Nat) (h : MemoryForm s) : MemoryForm (s.settleDirty line) := by
  unfold State.settleDirty
  split
  · exact form_setPoison _ _ (form_dropDirty _ h)
  · exact form_cleanLine _ h

/-- A cold reset leaves the form of reset; a warm one keeps DRAM, its marks and floors in form. -/
theorem form_cold (s : State) : MemoryForm s.cold := form_of_eq form_reset rfl rfl rfl

theorem form_warm {s : State} (h : MemoryForm s) : MemoryForm s.warm :=
  form_of_eq (form_foldl (fun _ l h => form_settleDirty l h) s.dirtyLines h) rfl rfl rfl

/-! ### Read after write -/

theorem dramByte_putDram (s : State) (pa i : Nat) (b : W8) : (s.putDram pa b).dramByte i = if i = pa then b else s.dramByte i :=
  FMap.at'_put ..

theorem poison_setPoison (s : State) (line l : Nat) (b : Bool) :
    FMap.at' false (s.setPoison line b).poison l = if l = line then b else FMap.at' false s.poison l := FMap.at'_put ..

theorem lineFloor_evictSlot (s : State) (sl : SigSlot) (l : Nat) :
    (s.evictSlot sl).lineFloor l = if l = sl.line then min sl.floor sl.scope else s.lineFloor l := by
  unfold State.evictSlot State.lineFloor
  rw [FMap.at'_put]
  split
  · rfl
  · unfold State.scopeFlush
    split <;> rfl

end Sys2Proof.Machine
end

