-- ==== Sys2Proof/Laws/Translate.lean ====
section
/-! SUPPORT. Laws of cores, dies and stacks read after a change, of translation and of the reads that translate: they change the
TLBs and nothing else. -/
namespace Sys2Proof.Machine

/-! ### Parts of the state -/

theorem core_setCore (s : State) (g h : Nat) (c : Core) : (s.setCore g c).core h = if h = g then c else s.core h := by
  unfold State.core State.setCore
  rw [FMap.fetch_ins]
  by_cases hh : h = g <;> simp [hh]

theorem core_updCore (s : State) (g h : Nat) (f : Core → Core) : (s.updCore g f).core h = if h = g then f (s.core g) else s.core h :=
  core_setCore s g h _

theorem die_setDie (s : State) (d e : Nat) (x : Die) : (s.setDie d x).die e = if e = d then x else s.die e := by
  unfold State.die State.setDie
  rw [FMap.fetch_ins]
  by_cases hh : e = d <;> simp [hh]

theorem die_updDie (s : State) (d e : Nat) (f : Die → Die) : (s.updDie d f).die e = if e = d then f (s.die d) else s.die e :=
  die_setDie s d e _

theorem stk_setStk (s : State) (n m : Nat) (x : Stack) : (s.setStk n x).stk m = if m = n then x else s.stk m := by
  unfold State.stk State.setStk
  rw [FMap.fetch_ins]
  by_cases hh : m = n <;> simp [hh]

theorem stk_updStk (s : State) (n m : Nat) (f : Stack → Stack) : (s.updStk n f).stk m = if m = n then f (s.stk n) else s.stk m :=
  stk_setStk s n m _

/-! ### Translation -/

/-- Two states that differ in what the TLBs hold, and in nothing else. -/
def SameButTlbs (s t : State) : Prop :=
  t = { s with cores := t.cores, dies := t.dies } ∧ (∀ g, t.core g = { s.core g with tlb := (t.core g).tlb }) ∧
  ∀ d, t.die d = { s.die d with stlb := (t.die d).stlb }

theorem SameButTlbs.refl (s : State) : SameButTlbs s s := ⟨rfl, fun _ => rfl, fun _ => rfl⟩

theorem SameButTlbs.trans {s t u : State} (h : SameButTlbs s t) (k : SameButTlbs t u) : SameButTlbs s u := by
  refine ⟨?_, fun g => ?_, fun d => ?_⟩
  · rw [k.1, h.1]
  · rw [k.2.1 g, h.2.1 g]
  · rw [k.2.2 d, h.2.2 d]

theorem same_updDie (s : State) (d : Nat) (l : List TlbEnt) : SameButTlbs s (s.updDie d fun x => { x with stlb := l }) := by
  refine ⟨rfl, fun _ => rfl, fun e => ?_⟩
  rw [die_updDie]
  by_cases h : e = d
  · subst h; simp
  · simp [h]

theorem same_updCore (s : State) (g : Nat) (l : List TlbEnt) : SameButTlbs s (s.updCore g fun c => { c with tlb := l }) := by
  refine ⟨rfl, fun h => ?_, fun _ => rfl⟩
  rw [core_updCore]
  by_cases hh : h = g
  · subst hh; simp
  · simp [hh]

/-- A translation changes the TLBs alone, whatever it answers. -/
theorem translate_same (s : State) (d : Nat) (unit : Option Nat) (tag : Nat) (sup : Bool) (kind : Kind) (va : W64) :
    SameButTlbs s (s.translate d unit tag sup kind va).1 := by
  have keep : ∀ e : TlbEnt, SameButTlbs s (
      let s := if (s.die d).stlb.contains e then s else s.updDie d fun x => { x with stlb := e :: x.stlb }
      match unit with
      | some g => if (s.core g).tlb.contains e then s else s.updCore g fun c => { c with tlb := e :: c.tlb }
      | none => s) := by
    intro e
    have h1 : SameButTlbs s (if (s.die d).stlb.contains e then s else s.updDie d fun x => { x with stlb := e :: x.stlb }) := by
      split
      · exact .refl s
      · exact same_updDie s d (e :: (s.die d).stlb)
    revert h1
    generalize (if (s.die d).stlb.contains e then s else s.updDie d fun x => { x with stlb := e :: x.stlb }) = u
    intro h1
    cases unit with
    | none => exact h1
    | some g =>
      simp only
      split
      · exact h1
      · exact h1.trans (same_updCore u g (e :: (u.core g).tlb))
  unfold State.translate
  extract_lets a c0 c1 kp
  by_cases ha : 0x0100000000000000 ≤ a
  · rw [if_pos ha]; exact .refl s
  · rw [if_neg ha]
    have hk : ∀ e, SameButTlbs s (kp s e) := keep
    clear_value c1 kp
    cases c1 with
    | some e =>
      show SameButTlbs s (if e.allows sup kind = true then (kp s e, TRes.ok (e.key a)) else (s, TRes.prot)).1
      split
      · exact hk e
      · exact .refl s
    | none =>
      simp only
      split
      · exact .refl s
      · exact .refl s
      · exact .refl s
      · split
        · exact hk _
        · exact .refl s

theorem translateBytes_same (s : State) (d : Nat) (unit : Option Nat) (tag : Nat) (sup : Bool) (kind : Kind) (va : W64) (n : Nat) :
    SameButTlbs s (s.translateBytes d unit tag sup kind va n).1 := by
  unfold State.translateBytes
  suffices h : ∀ (ps : List (Nat × Nat)) (q : State × (List Nat ⊕ (TRes × W64))), SameButTlbs s q.1 → SameButTlbs s
      (ps.foldl (fun (q : State × (List Nat ⊕ (TRes × W64))) p =>
        let r := q.1.translate d unit tag sup kind (BitVec.ofNat 64 p.1)
        match q.2, r.2 with
        | .inl ks, .ok k => (r.1, .inl (ks ++ keysFrom k p.2))
        | .inl _, e => (r.1, .inr (e, BitVec.ofNat 64 p.1))
        | .inr e, .ok _ => (r.1, .inr e)
        | .inr e, f => (r.1, .inr (if f.before e.1 then (f, BitVec.ofNat 64 p.1) else e))) q).1 from h _ _ (.refl s)
  intro ps
  induction ps with
  | nil => exact fun _ h => h
  | cons p ps ih =>
    intro q hq
    rw [List.foldl_cons]
    refine ih _ ?_
    have h1 := hq.trans (translate_same q.1 d unit tag sup kind (BitVec.ofNat 64 p.1))
    simp only
    split <;> exact h1

theorem waveKeys_same (s : State) (x : Ctx) (kind : Kind) (va : W64) (n : Nat) : SameButTlbs s (s.waveKeys x kind va n).1 := by
  have h1 := translateBytes_same s x.die (some x.core) x.w.tag x.w.supervisor kind va n
  unfold State.waveKeys
  simp only
  split <;> exact h1

/-- A unit's read changes the TLBs alone. -/
theorem unitRead_same (s : State) (d tag : Nat) (va : W64) (n : Nat) : SameButTlbs s (s.unitRead d tag va n).1 := by
  have h1 := translateBytes_same s d none tag false .load va n
  unfold State.unitRead
  simp only
  split
  · exact h1
  · exact h1
  · split <;> exact h1

/-- A read of a descriptor changes the TLBs alone, after the wave's stores. -/
theorem readDesc_same (s : State) (x : Ctx) (kind : Kind) (va : W64) (n : Nat) :
    SameButTlbs s (s.readDesc x kind va n).1 ∨ SameButTlbs (s.drainWave x.key) (s.readDesc x kind va n).1 := by
  unfold State.readDesc
  split
  · exact .inl (.refl s)
  · right
    have h1 := waveKeys_same (s.drainWave x.key) x kind va n
    simp only
    split
    · exact .refl _
    · split
      · exact h1
      · exact h1
      · split <;> exact h1

/-- With nothing of the wave in its core's buffer a drain does nothing. -/
theorem drainWave_none {s : State} {wk : Nat} (h : (s.core (wk / 64)).wcb = []) : s.drainWave wk = s := by
  unfold State.drainWave State.drainWcb
  simp only [h, List.filter_nil, List.isEmpty_nil, if_true]

theorem rangeKeys_same (s : State) (x : Ctx) (kind : Kind) (va : W64) (q n : Nat) : SameButTlbs s (s.rangeKeys x kind va q n).1 := by
  induction q generalizing s va n with
  | zero => exact .refl s
  | succ q ih =>
    unfold State.rangeKeys
    split
    · exact .refl s
    · have h1 := waveKeys_same s x kind va 1
      have h2 := h1.trans (ih (s.waveKeys x kind va 1).1 (va + BitVec.ofNat 64 (min n (65536 - va.toNat % 65536))) (n - min n (65536 - va.toNat % 65536)))
      simp only
      split <;> exact h2

theorem recordKeys_same (s : State) (x : Ctx) (kind : Kind) (va : W64) (n : Nat) : SameButTlbs s (s.recordKeys x kind va n).1 := by
  unfold State.recordKeys
  split
  · exact .refl s
  · exact rangeKeys_same s x kind va _ n

end Sys2Proof.Machine
end

