-- ==== Sys2Proof/Tests/Slice0.lean ====
section
/-! SUPPORT. Tests. Words written out from the encoding tables decode to the instructions that they stand for; a term or a word that breaks
a decoding check is refused by that check; one step on a small state gives the spec's own worked results; and for each statement that has
hypotheses a state and operands that meet them. -/
set_option Elab.async false

namespace Sys2Proof.Tests

open Sys2Proof Sys2Proof.Machine Sys2Proof.Claim

/-! ### Decoding -/

/-- The fields of a word without extension, guard or reuse. -/
def plain (d : Dst) (a b : Src) (imm8 : W8) : F := { noF with d := d, a := a, b := b, imm8 := imm8 }
def guarded (d : Dst) (a b : Src) (imm8 : W8) (g : BitVec 3) (gn ru : Bool) : F := { plain d a b imm8 with g := g, gn := gn, ru := ru }
/-- The same with an extension word. -/
def ext (f : F) (imm32 : W32) (c : Src) (sc : BitVec 3) (rnd : W8) : F := { f with x := true, imm32 := imm32, c := c, sc := sc, rnd := rnd }

/-- Words of control, from the encoding tables of R177. -/
def controlWords : List (Nat × Instr) :=
  [-- nop
   (0x0000000000000000, .nop (plain ⟨.none, 0⟩ ⟨.s, 0⟩ ⟨.s, 0⟩ 0)),
   -- br to PC - 64 words
   (0x010FF000000000C0, .br (plain ⟨.none, 255⟩ ⟨.s, 0⟩ ⟨.s, 0⟩ 192)),
   -- br.nz s7, -8 words
   (0x010FF00E000008F8, .brNz (plain ⟨.none, 255⟩ ⟨.s, 7⟩ ⟨.s, 0⟩ 248)),
   -- (k3) br.z v9, PC + 0x400
   (0x400000000000180041200181000, .brZ (ext (guarded ⟨.none, 0⟩ ⟨.v, 9⟩ ⟨.s, 0⟩ 0 3 false false) 1024 ⟨.s, 0⟩ 0 0)),
   -- brx v8.d
   (0x0200041000000000, .brx (plain ⟨.none, 0⟩ ⟨.v, 8⟩ ⟨.s, 0⟩ 0)),
   -- call s10, PC - 16
   (0xFFFFFFF0000000000390A00000000000, .call (ext (plain ⟨.s, 10⟩ ⟨.s, 0⟩ ⟨.s, 0⟩ 0) 4294967280 ⟨.s, 0⟩ 0 0)),
   -- call v4.d, s3
   (0x0330400600000800, .callIndirect (plain ⟨.v, 4⟩ ⟨.s, 3⟩ ⟨.s, 0⟩ 0)),
   -- ret s10
   (0x0400001400000000, .ret (plain ⟨.none, 0⟩ ⟨.s, 10⟩ ⟨.s, 0⟩ 0)),
   -- join k0
   (0x0500060000000000, .join (plain ⟨.none, 0⟩ ⟨.k, 0⟩ ⟨.s, 0⟩ 0)),
   -- yield
   (0x0600000000000000, .yield (plain ⟨.none, 0⟩ ⟨.s, 0⟩ ⟨.s, 0⟩ 0)),
   -- (k1) exit
   (0x0700000000080000, .exit (guarded ⟨.none, 0⟩ ⟨.s, 0⟩ ⟨.s, 0⟩ 0 1 false false)),
   -- kill k2
   (0x0800060400000000, .kill (plain ⟨.none, 0⟩ ⟨.k, 2⟩ ⟨.s, 0⟩ 0)),
   -- wait 100
   (0x09000CC800000000, .wait (plain ⟨.none, 0⟩ ⟨.imm, 100⟩ ⟨.s, 0⟩ 0)),
   -- trap 5
   (0x0A00000000000005, .trap (plain ⟨.none, 0⟩ ⟨.s, 0⟩ ⟨.s, 0⟩ 5)),
   -- tret
   (0x0B00000000000000, .tret (plain ⟨.none, 0⟩ ⟨.s, 0⟩ ⟨.s, 0⟩ 0)),
   -- bkpt 255
   (0x0C000000000000FF, .bkpt (plain ⟨.none, 0⟩ ⟨.s, 0⟩ ⟨.s, 0⟩ 255)),
   -- rdsys v4, laneid
   (0x0D304E0000000000, .rdsys (plain ⟨.v, 4⟩ ⟨.sys, 0⟩ ⟨.s, 0⟩ 0)),
   -- wrsys fpctl, 1
   (0x0E70AC0200000000, .wrsys (plain ⟨.sys, 10⟩ ⟨.imm, 1⟩ ⟨.s, 0⟩ 0))]

theorem test_decode_control : ∀ q ∈ controlWords, decodeTableWord 128 q.1 = some q.2 := by decide +kernel

/-- Words of masks, from the encoding tables of R178, R179. -/
def masksWords : List (Nat × Instr) :=
  [-- kmov k1, s9
   (0x1040101200000000, .kmov (plain ⟨.k, 1⟩ ⟨.s, 9⟩ ⟨.s, 0⟩ 0)),
   -- kand k2, k3, k4
   (0x10402606C1000800, .kand (plain ⟨.k, 2⟩ ⟨.k, 3⟩ ⟨.k, 4⟩ 0)),
   -- kor k2, k3, -1
   (0x10402607BFC01000, .kor (plain ⟨.k, 2⟩ ⟨.k, 3⟩ ⟨.imm, 255⟩ 0)),
   -- kxor k5, k6, s7
   (0x1040560C01C01800, .kxor (plain ⟨.k, 5⟩ ⟨.k, 6⟩ ⟨.s, 7⟩ 0)),
   -- (!k1) kandn k7, k1, k2
   (0x10407602C08C2000, .kandn (guarded ⟨.k, 7⟩ ⟨.k, 1⟩ ⟨.k, 2⟩ 0 1 true false)),
   -- knot k3, k3
   (0x1040360600002800, .knot (plain ⟨.k, 3⟩ ⟨.k, 3⟩ ⟨.s, 0⟩ 0)),
   -- ctxsave s0
   (0x1800000000000000, .ctxsave (plain ⟨.none, 0⟩ ⟨.s, 0⟩ ⟨.s, 0⟩ 0)),
   -- ctxload s0
   (0x1800000000000800, .ctxload (plain ⟨.none, 0⟩ ⟨.s, 0⟩ ⟨.s, 0⟩ 0)),
   -- tlbinv s2, 1
   (0x1800000580401000, .tlbinv (plain ⟨.none, 0⟩ ⟨.s, 2⟩ ⟨.imm, 1⟩ 0)),
   -- l1inv
   (0x1800000000001800, .l1inv (plain ⟨.none, 0⟩ ⟨.s, 0⟩ ⟨.s, 0⟩ 0))]

theorem test_decode_masks : ∀ q ∈ masksWords, decodeTableWord 128 q.1 = some q.2 := by decide +kernel

/-- Words of integers, from the encoding tables of R180. -/
def integersWords1 : List (Nat × Instr) :=
  [-- vadd.i32 v5, v3, a2
   (0x6030540640800000, .intAdd .v .i32 (plain ⟨.v, 5⟩ ⟨.v, 3⟩ ⟨.a, 2⟩ 0)),
   -- ssub.u64 s1, s2, 7
   (0x2010100581C00B00, .intSub .s .u64 (plain ⟨.s, 1⟩ ⟨.s, 2⟩ ⟨.imm, 7⟩ 0)),
   -- vmul.i8 v1, v2, s3
   (0x6030140400C01600, .intMul .v .i8 (plain ⟨.v, 1⟩ ⟨.v, 2⟩ ⟨.s, 3⟩ 0)),
   -- vmulhi.u32 v1, v2, v3
   (0x6030140480C01900, .intMulhi .v .u32 (plain ⟨.v, 1⟩ ⟨.v, 2⟩ ⟨.v, 3⟩ 0)),
   -- vmad.i32 v1, v2, v3, v4
   (0x4080000060B0140480C02000, .intMad .v .i32 (ext (plain ⟨.v, 1⟩ ⟨.v, 2⟩ ⟨.v, 3⟩ 0) 0 ⟨.v, 4⟩ 0 0)),
   -- smin.i64 s4, s5, t6
   (0x2010400B01802A00, .intMin .s .i64 (plain ⟨.s, 4⟩ ⟨.s, 5⟩ ⟨.t, 6⟩ 0)),
   -- smax.u16 t3, s5, s6
   (0x2060300A01803500, .intMax .s .u16 (plain ⟨.t, 3⟩ ⟨.s, 5⟩ ⟨.s, 6⟩ 0)),
   -- vabs.i16 v9, v10
   (0x6030941400003C00, .intAbs .v .i16 (plain ⟨.v, 9⟩ ⟨.v, 10⟩ ⟨.s, 0⟩ 0)),
   -- (k4) vneg.i64 v10.d, v12.d
   (0x6030A41800204200, .intNeg .v .i64 (guarded ⟨.v, 10⟩ ⟨.v, 12⟩ ⟨.s, 0⟩ 0 4 false false)),
   -- vand.u32 v1, v2, 0x7FFFFFFF
   (0x7FFFFFFF0000000060B0140580004900, .intAnd .v .u32 (ext (plain ⟨.v, 1⟩ ⟨.v, 2⟩ ⟨.imm, 0⟩ 0) 2147483647 ⟨.s, 0⟩ 0 0)),
   -- sor.u64 s1, s2, s3
   (0x2010100400C05300, .intOr .s .u64 (plain ⟨.s, 1⟩ ⟨.s, 2⟩ ⟨.s, 3⟩ 0)),
   -- sxor.u8 s1, s2, s3
   (0x2010100400C05F00, .intXor .s .u8 (plain ⟨.s, 1⟩ ⟨.s, 2⟩ ⟨.s, 3⟩ 0)),
   -- vandn.u32.ru v1, v2, v3
   (0x6030140480C26100, .intAndn .v .u32 (guarded ⟨.v, 1⟩ ⟨.v, 2⟩ ⟨.v, 3⟩ 0 0 false true)),
   -- vnot.i32 v1, v2
   (0x6030140400006800, .intNot .v .i32 (plain ⟨.v, 1⟩ ⟨.v, 2⟩ ⟨.s, 0⟩ 0)),
   -- vshl.u32 v1, v2, 5
   (0x6030140581407100, .intShl .v .u32 (plain ⟨.v, 1⟩ ⟨.v, 2⟩ ⟨.imm, 5⟩ 0)),
   -- sshr.i64 s1, s2, 63
   (0x201010058FC07A00, .intShr .s .i64 (plain ⟨.s, 1⟩ ⟨.s, 2⟩ ⟨.imm, 63⟩ 0)),
   -- vrot.u32 v1, v2, v3
   (0x6030140480C08100, .intRot .v .u32 (plain ⟨.v, 1⟩ ⟨.v, 2⟩ ⟨.v, 3⟩ 0)),
   -- vfshl.u32 v1, v2, v3, 9
   (0x9C000000060B0140480C08900, .intFshl .v .u32 (ext (plain ⟨.v, 1⟩ ⟨.v, 2⟩ ⟨.v, 3⟩ 0) 9 ⟨.imm, 0⟩ 0 0)),
   -- vfshr.u32 v1, v2, v3, s9
   (0x120000060B0140480C09100, .intFshr .v .u32 (ext (plain ⟨.v, 1⟩ ⟨.v, 2⟩ ⟨.v, 3⟩ 0) 0 ⟨.s, 9⟩ 0 0)),
   -- vbfe.i32 v1, v2, 4, 8
   (0x6030140581009808, .intBfe .v .i32 (plain ⟨.v, 1⟩ ⟨.v, 2⟩ ⟨.imm, 4⟩ 8)),
   -- vbfi.u32 v1, v2, 4, v3, 32
   (0x4060000060B014040100A120, .intBfi .v .u32 (ext (plain ⟨.v, 1⟩ ⟨.v, 2⟩ ⟨.s, 4⟩ 32) 0 ⟨.v, 3⟩ 0 0)),
   -- spopc.u64 s1, s2
   (0x201010040000AB00, .intPopc .s .u64 (plain ⟨.s, 1⟩ ⟨.s, 2⟩ ⟨.s, 0⟩ 0)),
   -- vclz.u32 v1, v2
   (0x603014040000B100, .intClz .v .u32 (plain ⟨.v, 1⟩ ⟨.v, 2⟩ ⟨.s, 0⟩ 0)),
   -- vctz.u32 v1, v2
   (0x603014040000B900, .intCtz .v .u32 (plain ⟨.v, 1⟩ ⟨.v, 2⟩ ⟨.s, 0⟩ 0))]

theorem test_decode_integers_1 : ∀ q ∈ integersWords1, decodeTableWord 128 q.1 = some q.2 := by decide +kernel

/-- Words of integers, from the encoding tables of R180. -/
def integersWords2 : List (Nat × Instr) :=
  [-- sbrev.u32 s1, s2
   (0x201010040000C100, .intBrev .s .u32 (plain ⟨.s, 1⟩ ⟨.s, 2⟩ ⟨.s, 0⟩ 0)),
   -- vdiv.i32 v1, v2, v3
   (0x6030140480C0C800, .intDiv .v .i32 (plain ⟨.v, 1⟩ ⟨.v, 2⟩ ⟨.v, 3⟩ 0)),
   -- srem.i64 s1, s2, s3
   (0x2010100400C0D200, .intRem .s .i64 (plain ⟨.s, 1⟩ ⟨.s, 2⟩ ⟨.s, 3⟩ 0)),
   -- ssel.i64 s1, s2, s3, s4
   (0x8000002090100400C0DA00, .intSel .s .i64 (ext (plain ⟨.s, 1⟩ ⟨.s, 2⟩ ⟨.s, 3⟩ 0) 0 ⟨.s, 4⟩ 0 0)),
   -- smov.i64 s1, a5
   (0x2010180A0000E200, .intMov .s .i64 (plain ⟨.s, 1⟩ ⟨.t, 5⟩ ⟨.s, 0⟩ 0)),
   -- smovh.i64 s2, 0x1234
   (0x12340000000020902C000000EA00, .smovh .i64 (ext (plain ⟨.s, 2⟩ ⟨.imm, 0⟩ ⟨.s, 0⟩ 0) 4660 ⟨.s, 0⟩ 0 0)),
   -- vlea.i64 v2.d, a1, v4, 63
   (0x603022028100F23F, .intLea .v .i64 (plain ⟨.v, 2⟩ ⟨.a, 1⟩ ⟨.v, 4⟩ 63)),
   -- vadd.i32.sat v1, v2, v3
   (0x6030140480C10000, .intAddSat .v .i32 (plain ⟨.v, 1⟩ ⟨.v, 2⟩ ⟨.v, 3⟩ 0)),
   -- vsub.u8.sat v1, v2, v3
   (0x6030140480C10F00, .intSubSat .v .u8 (plain ⟨.v, 1⟩ ⟨.v, 2⟩ ⟨.v, 3⟩ 0)),
   -- smul.i64.sat s1, s2, s3
   (0x2010100400C11200, .intMulSat .s .i64 (plain ⟨.s, 1⟩ ⟨.s, 2⟩ ⟨.s, 3⟩ 0)),
   -- vmad.i32.sat v1, v2, v3, 7
   (0x7C000000060B0140480C11800, .intMadSat .v .i32 (ext (plain ⟨.v, 1⟩ ⟨.v, 2⟩ ⟨.v, 3⟩ 0) 7 ⟨.imm, 0⟩ 0 0)),
   -- vabs.i8.sat v1, v2
   (0x6030140400012600, .intAbsSat .v .i8 (plain ⟨.v, 1⟩ ⟨.v, 2⟩ ⟨.s, 0⟩ 0)),
   -- sneg.i32.sat s1, s2
   (0x2010100400012800, .intNegSat .s .i32 (plain ⟨.s, 1⟩ ⟨.s, 2⟩ ⟨.s, 0⟩ 0)),
   -- vcmp.eq.i32 k1, v2, v3
   (0x6040140480C14000, .intCmpEq .v .i32 (plain ⟨.k, 1⟩ ⟨.v, 2⟩ ⟨.v, 3⟩ 0)),
   -- scmp.ne.u64 t1, s2, s3
   (0x2060100400C14B00, .intCmpNe .s .u64 (plain ⟨.t, 1⟩ ⟨.s, 2⟩ ⟨.s, 3⟩ 0)),
   -- vcmp.lt.u32 k3, v1, 100
   (0x6040340399015100, .intCmpLt .v .u32 (plain ⟨.k, 3⟩ ⟨.v, 1⟩ ⟨.imm, 100⟩ 0)),
   -- scmp.le.i64 s1, s2, -3
   (0x20101005BF415A00, .intCmpLe .s .i64 (plain ⟨.s, 1⟩ ⟨.s, 2⟩ ⟨.imm, 253⟩ 0)),
   -- vcmp.gt.i16 k7, v2, v3
   (0x6040740480C16400, .intCmpGt .v .i16 (plain ⟨.k, 7⟩ ⟨.v, 2⟩ ⟨.v, 3⟩ 0)),
   -- vcmp.ge.i64 k7, v2.d, v4.d
   (0x6040740481016A00, .intCmpGe .v .i64 (plain ⟨.k, 7⟩ ⟨.v, 2⟩ ⟨.v, 4⟩ 0))]

theorem test_decode_integers_2 : ∀ q ∈ integersWords2, decodeTableWord 128 q.1 = some q.2 := by decide +kernel

/-- Words of affine, from the encoding tables of R181. -/
def affineWords : List (Nat × Instr) :=
  [-- aadd a1, a2, s3
   (0x4020120400C00000, .aadd (plain ⟨.a, 1⟩ ⟨.a, 2⟩ ⟨.s, 3⟩ 0)),
   -- asub a1, 5, a3
   (0x40201C0A40C00800, .asub (plain ⟨.a, 1⟩ ⟨.imm, 5⟩ ⟨.a, 3⟩ 0)),
   -- aneg a1, a2
   (0x4020120400001000, .aneg (plain ⟨.a, 1⟩ ⟨.a, 2⟩ ⟨.s, 0⟩ 0)),
   -- amul a1, a2, -4
   (0x40201205BF001800, .amul (plain ⟨.a, 1⟩ ⟨.a, 2⟩ ⟨.imm, 252⟩ 0)),
   -- ashl a1, a2, 63
   (0x402012058FC02000, .ashl (plain ⟨.a, 1⟩ ⟨.a, 2⟩ ⟨.imm, 63⟩ 0)),
   -- amov a31, s2
   (0x4021F00400002800, .amov (plain ⟨.a, 31⟩ ⟨.s, 2⟩ ⟨.s, 0⟩ 0)),
   -- aset a1, s2, 4
   (0x4020100581003000, .aset (plain ⟨.a, 1⟩ ⟨.s, 2⟩ ⟨.imm, 4⟩ 0)),
   -- atos s1, a2
   (0x5F10120400000000, .atos (plain ⟨.s, 1⟩ ⟨.a, 2⟩ ⟨.s, 0⟩ 0)),
   -- atos s1, a2, 31
   (0x5F1012040000081F, .atosLane (plain ⟨.s, 1⟩ ⟨.a, 2⟩ ⟨.s, 0⟩ 31)),
   -- vtos.u32 s1, v2
   (0xBF10140400000100, .vtos .u32 (plain ⟨.s, 1⟩ ⟨.v, 2⟩ ⟨.s, 0⟩ 0)),
   -- vtoa.i64 a1, v2.d
   (0xBF20140400000A00, .vtoa .i64 (plain ⟨.a, 1⟩ ⟨.v, 2⟩ ⟨.s, 0⟩ 0))]

theorem test_decode_affine : ∀ q ∈ affineWords, decodeTableWord 128 q.1 = some q.2 := by decide +kernel

/-- Words of floats, from the encoding tables of R182, R183. -/
def floatsWords1 : List (Nat × Instr) :=
  [-- vadd.f32 v1, v2, v3
   (0x6830140480C00000, .fpAdd .vF32 .fpctl (plain ⟨.v, 1⟩ ⟨.v, 2⟩ ⟨.v, 3⟩ 0)),
   -- ssub.f64.rtz s1, s2, s3
   (0x2510100400C00A00, .fpSub .sF64 .rtz (plain ⟨.s, 1⟩ ⟨.s, 2⟩ ⟨.s, 3⟩ 0)),
   -- vmul.bf16x2.sr v1, v2, v3 (v4)
   (0x10006BB0140480C01500, .fpMul .vBf16x2 .sr (ext (plain ⟨.v, 1⟩ ⟨.v, 2⟩ ⟨.v, 3⟩ 0) 0 ⟨.s, 0⟩ 0 4)),
   -- vfma.f16x2.rup v1, v2, v3, v4
   (0x408000006AB0140480C01C00, .fpFma .vF16x2 .rup (ext (plain ⟨.v, 1⟩ ⟨.v, 2⟩ ⟨.v, 3⟩ 0) 0 ⟨.v, 4⟩ 0 0)),
   -- smin.f32 s1, s2, s3
   (0x2410100400C02000, .fpMin .sF32 (plain ⟨.s, 1⟩ ⟨.s, 2⟩ ⟨.s, 3⟩ 0)),
   -- vmax.f64 v2.d, v4.d, v6.d
   (0x6930240881802800, .fpMax .vF64 (plain ⟨.v, 2⟩ ⟨.v, 4⟩ ⟨.v, 6⟩ 0)),
   -- vabs.bf16x2 v1, v2
   (0x6B30140400003000, .fpAbs .vBf16x2 (plain ⟨.v, 1⟩ ⟨.v, 2⟩ ⟨.s, 0⟩ 0)),
   -- vneg.f32 v1, v2
   (0x6830140400003800, .fpNeg .vF32 (plain ⟨.v, 1⟩ ⟨.v, 2⟩ ⟨.s, 0⟩ 0)),
   -- vrcp.f32 v1, v2
   (0x6830140400004000, .fpRcp .vF32 (plain ⟨.v, 1⟩ ⟨.v, 2⟩ ⟨.s, 0⟩ 0)),
   -- srsqrt.f64 s1, s2
   (0x2510100400004800, .fpRsqrt .sF64 (plain ⟨.s, 1⟩ ⟨.s, 2⟩ ⟨.s, 0⟩ 0)),
   -- vsqrt.f32.rne v1, v2
   (0x6830140400005100, .fpSqrt .vF32 .rne (plain ⟨.v, 1⟩ ⟨.v, 2⟩ ⟨.s, 0⟩ 0)),
   -- vexp2.f16x2 v1, v2
   (0x6A30140400005800, .fpExp2 .vF16x2 (plain ⟨.v, 1⟩ ⟨.v, 2⟩ ⟨.s, 0⟩ 0)),
   -- slog2.f32 s1, s2
   (0x2410100400006000, .fpLog2 .sF32 (plain ⟨.s, 1⟩ ⟨.s, 2⟩ ⟨.s, 0⟩ 0)),
   -- vsin.f32 v1, v2
   (0x6830140400006800, .fpSin .vF32 (plain ⟨.v, 1⟩ ⟨.v, 2⟩ ⟨.s, 0⟩ 0)),
   -- vcos.bf16x2 v1, v2
   (0x6B30140400007000, .fpCos .vBf16x2 (plain ⟨.v, 1⟩ ⟨.v, 2⟩ ⟨.s, 0⟩ 0)),
   -- vclass.f64 v1, v2.d
   (0x6930140400007800, .fpClass .vF64 (plain ⟨.v, 1⟩ ⟨.v, 2⟩ ⟨.s, 0⟩ 0)),
   -- vcmp.eq.f32 k1, v2, v3
   (0x6840140480C08000, .fpCmpEq .vF32 (plain ⟨.k, 1⟩ ⟨.v, 2⟩ ⟨.v, 3⟩ 0)),
   -- scmp.ne.f32 s1, s2, s3
   (0x2410100400C08800, .fpCmpNe .sF32 (plain ⟨.s, 1⟩ ⟨.s, 2⟩ ⟨.s, 3⟩ 0)),
   -- vcmp.lt.f64 k1, v2.d, v4.d
   (0x6940140481009000, .fpCmpLt .vF64 (plain ⟨.k, 1⟩ ⟨.v, 2⟩ ⟨.v, 4⟩ 0)),
   -- scmp.le.f64 t1, s2, s3
   (0x2560100400C09800, .fpCmpLe .sF64 (plain ⟨.t, 1⟩ ⟨.s, 2⟩ ⟨.s, 3⟩ 0)),
   -- vcmp.gt.f32 k1, v2, v3
   (0x6840140480C0A000, .fpCmpGt .vF32 (plain ⟨.k, 1⟩ ⟨.v, 2⟩ ⟨.v, 3⟩ 0)),
   -- vcmp.ge.f32 k1, v2, v3
   (0x6840140480C0A800, .fpCmpGe .vF32 (plain ⟨.k, 1⟩ ⟨.v, 2⟩ ⟨.v, 3⟩ 0)),
   -- vcmp.un.f32 k1, v2, v3
   (0x6840140480C0B000, .fpCmpUn .vF32 (plain ⟨.k, 1⟩ ⟨.v, 2⟩ ⟨.v, 3⟩ 0)),
   -- vcvt.bf16.f32.rdn v1, v2
   (0x703014040001EB00, .cvt .v .bf16 .f32 .rdn (plain ⟨.v, 1⟩ ⟨.v, 2⟩ ⟨.s, 0⟩ 0))]

theorem test_decode_floats_1 : ∀ q ∈ floatsWords1, decodeTableWord 128 q.1 = some q.2 := by decide +kernel

/-- Words of floats, from the encoding tables of R182, R183. -/
def floatsWords2 : List (Nat × Instr) :=
  [-- scvt.f64.u64 s1, s2
   (0x2610100400011800, .cvt .s .f64 .u64 .fpctl (plain ⟨.s, 1⟩ ⟨.s, 2⟩ ⟨.s, 0⟩ 0)),
   -- vcvt.e4m3x2.f32 v1, v2, v3
   (0x7130140480C00000, .vcvtE4m3x2F32 .fpctl (plain ⟨.v, 1⟩ ⟨.v, 2⟩ ⟨.v, 3⟩ 0)),
   -- vcvt.e5m2x2.f32.rne v1, v2, v3
   (0x7130140480C00900, .vcvtE5m2x2F32 .rne (plain ⟨.v, 1⟩ ⟨.v, 2⟩ ⟨.v, 3⟩ 0)),
   -- vcvt.f32.e4m3 v1, v2, 3
   (0x7130140400001003, .vcvtF32E4m3 (plain ⟨.v, 1⟩ ⟨.v, 2⟩ ⟨.s, 0⟩ 3)),
   -- vcvt.f32.e5m2 v1, v2, 0
   (0x7130140400001800, .vcvtF32E5m2 (plain ⟨.v, 1⟩ ⟨.v, 2⟩ ⟨.s, 0⟩ 0)),
   -- vcvt.mxf4.f32 v1, v2
   (0x7130140400002000, .vcvtMxf4F32 .fpctl (plain ⟨.v, 1⟩ ⟨.v, 2⟩ ⟨.s, 0⟩ 0)),
   -- vcvt.f32.mxf4 v1, v2, v3, 31
   (0x7130140480C0281F, .vcvtF32Mxf4 .fpctl (plain ⟨.v, 1⟩ ⟨.v, 2⟩ ⟨.v, 3⟩ 31))]

theorem test_decode_floats_2 : ∀ q ∈ floatsWords2, decodeTableWord 128 q.1 = some q.2 := by decide +kernel

/-- Words of memory, from the encoding tables of R184, R185. -/
def memoryWords1 : List (Nat × Instr) :=
  [-- ld.b32 v4, [a1 + 16]
   (0xC030420200002010, .ld .b32 .plain (plain ⟨.v, 4⟩ ⟨.a, 1⟩ ⟨.s, 0⟩ 16)),
   -- ld.b64.acq.np.dev s4, [s1 - 8]
   (0xFFFFFFF800100000C090400200002D00, .ld .b64 .acqNp (ext (plain ⟨.s, 4⟩ ⟨.s, 1⟩ ⟨.s, 0⟩ 0) 4294967288 ⟨.s, 0⟩ 4 0)),
   -- ld.u8 v4, [v2.d]
   (0xC030440400000000, .ld .u8 .plain (plain ⟨.v, 4⟩ ⟨.v, 2⟩ ⟨.s, 0⟩ 0)),
   -- (!k2) st.b32.rel.dev [s4 + 0x40], v9
   (0x4000100000C180000882542200, .st .b32 .rel (ext (guarded ⟨.none, 0⟩ ⟨.s, 4⟩ ⟨.v, 9⟩ 0 2 true false) 64 ⟨.s, 0⟩ 4 0)),
   -- ld.sync v1, [s2]
   (0xC230100400000000, .ldSync (plain ⟨.v, 1⟩ ⟨.s, 2⟩ ⟨.s, 0⟩ 0)),
   -- ld.take v1, [v2.d - 4]
   (0xC2301404000008FC, .ldTake (plain ⟨.v, 1⟩ ⟨.v, 2⟩ ⟨.s, 0⟩ 252)),
   -- st.fill [a3], v4
   (0xC200020681001000, .stFill (plain ⟨.none, 0⟩ ⟨.a, 3⟩ ⟨.v, 4⟩ 0)),
   -- fence.sc.dev
   (0x100000C480000000000000, .fenceSc (ext (plain ⟨.none, 0⟩ ⟨.s, 0⟩ ⟨.s, 0⟩ 0) 0 ⟨.s, 0⟩ 4 0)),
   -- fence.xp s4, s5
   (0xC400000801400800, .fenceXp (plain ⟨.none, 0⟩ ⟨.s, 4⟩ ⟨.s, 5⟩ 0)),
   -- pf [a1]
   (0xC500020200000000, .pf (plain ⟨.none, 0⟩ ⟨.a, 1⟩ ⟨.s, 0⟩ 0)),
   -- pf.l2 [v2.d + 64]
   (0xC500040400000840, .pfL2 (plain ⟨.none, 0⟩ ⟨.v, 2⟩ ⟨.s, 0⟩ 64)),
   -- cinv s1, 127
   (0xC60000039FC00000, .cinv (plain ⟨.none, 0⟩ ⟨.s, 1⟩ ⟨.imm, 127⟩ 0)),
   -- lineclr [s3]
   (0xC600000600000800, .lineclr (plain ⟨.none, 0⟩ ⟨.s, 3⟩ ⟨.s, 0⟩ 0)),
   -- wopen s5, s2, 4, 1
   (0xC710500581000001, .wopen (plain ⟨.s, 5⟩ ⟨.s, 2⟩ ⟨.imm, 4⟩ 1)),
   -- wsub v5, s2, s3
   (0xC730500400C00800, .wsub (plain ⟨.v, 5⟩ ⟨.s, 2⟩ ⟨.s, 3⟩ 0)),
   -- wclose 0
   (0xC7000C0000001000, .wclose (plain ⟨.none, 0⟩ ⟨.imm, 0⟩ ⟨.s, 0⟩ 0)),
   -- wunsub s2, 3
   (0xC700000580C01800, .wunsub (plain ⟨.none, 0⟩ ⟨.s, 2⟩ ⟨.imm, 3⟩ 0)),
   -- atom.add.u64 s1, [s2], s3
   (0xC310100400C10000, .atomAdd .u64 .plain (plain ⟨.s, 1⟩ ⟨.s, 2⟩ ⟨.s, 3⟩ 0)),
   -- atom.min.i32 v1, [a2], v3
   (0xC330120480C08800, .atomMin .i32 .plain (plain ⟨.v, 1⟩ ⟨.a, 2⟩ ⟨.v, 3⟩ 0)),
   -- atom.max.i64.rel.sys [s2], s3
   (0x180000C380000400C19200, .atomMax .i64 .rel (ext (plain ⟨.none, 0⟩ ⟨.s, 2⟩ ⟨.s, 3⟩ 0) 0 ⟨.s, 0⟩ 6 0)),
   -- atom.and.u32 v1, [v2.d], 15
   (0xC330140583C01800, .atomAnd .u32 .plain (plain ⟨.v, 1⟩ ⟨.v, 2⟩ ⟨.imm, 15⟩ 0)),
   -- atom.or.u32 v1, [v2.d], v3
   (0xC330140480C02000, .atomOr .u32 .plain (plain ⟨.v, 1⟩ ⟨.v, 2⟩ ⟨.v, 3⟩ 0)),
   -- atom.xor.u32 [v2.d + 4], v3
   (0xC300040480C02804, .atomXor .u32 .plain (plain ⟨.none, 0⟩ ⟨.v, 2⟩ ⟨.v, 3⟩ 4)),
   -- atom.xchg.u32.ar.team s1, [s2], s3
   (0x40000C390100400C03300, .atomXchg .u32 .ar (ext (plain ⟨.s, 1⟩ ⟨.s, 2⟩ ⟨.s, 3⟩ 0) 0 ⟨.s, 0⟩ 1 0))]

theorem test_decode_memory_1 : ∀ q ∈ memoryWords1, decodeTableWord 128 q.1 = some q.2 := by decide +kernel

/-- Words of memory, from the encoding tables of R184, R185. -/
def memoryWords2 : List (Nat × Instr) :=
  [-- atom.cas.u32.acq.clu v5, [v2.d], s3, v7
   (0x40E80000C3B0540400C03900, .atomCas .u32 .acq (ext (plain ⟨.v, 5⟩ ⟨.v, 2⟩ ⟨.s, 3⟩ 0) 0 ⟨.v, 7⟩ 2 0)),
   -- atom.fadd.bf16x2 [v2.d], v3
   (0xC300040480C14000, .atomFadd .bf16x2 .plain (plain ⟨.none, 0⟩ ⟨.v, 2⟩ ⟨.v, 3⟩ 0))]

theorem test_decode_memory_2 : ∀ q ∈ memoryWords2, decodeTableWord 128 q.1 = some q.2 := by decide +kernel

/-- Words of lanes, from the encoding tables of R186. -/
def lanesWords1 : List (Nat × Instr) :=
  [-- shfl.idx v1, v2, v3, k1
   (0xE030140480C00001, .shflIdx (plain ⟨.v, 1⟩ ⟨.v, 2⟩ ⟨.v, 3⟩ 1)),
   -- shfl.up v1, v2, 1, k0
   (0xE030140580400800, .shflUp (plain ⟨.v, 1⟩ ⟨.v, 2⟩ ⟨.imm, 1⟩ 0)),
   -- shfl.dn v1, s2, s3, k0
   (0xE030100400C01000, .shflDn (plain ⟨.v, 1⟩ ⟨.s, 2⟩ ⟨.s, 3⟩ 0)),
   -- shfl.xor v2, v1, 16, k0
   (0xE030240384001800, .shflXor (plain ⟨.v, 2⟩ ⟨.v, 1⟩ ⟨.imm, 16⟩ 0)),
   -- vote.all k1, v2, k7
   (0xE140140400000007, .voteAll (plain ⟨.k, 1⟩ ⟨.v, 2⟩ ⟨.s, 0⟩ 7)),
   -- vote.any k1, s2, k0
   (0xE140100400000800, .voteAny (plain ⟨.k, 1⟩ ⟨.s, 2⟩ ⟨.s, 0⟩ 0)),
   -- vote.uni k1, v2, k0
   (0xE140140400001000, .voteUni (plain ⟨.k, 1⟩ ⟨.v, 2⟩ ⟨.s, 0⟩ 0)),
   -- ballot s1, k2, k0
   (0xE110160400001800, .ballot (plain ⟨.s, 1⟩ ⟨.k, 2⟩ ⟨.s, 0⟩ 0)),
   -- match k1, v2, k0
   (0xE140140400002000, .matchLanes (plain ⟨.k, 1⟩ ⟨.v, 2⟩ ⟨.s, 0⟩ 0)),
   -- red.add.i32 s4, v7, k2
   (0xE210440E00000002, .red .addI32 (plain ⟨.s, 4⟩ ⟨.v, 7⟩ ⟨.s, 0⟩ 2)),
   -- scan.max.f32 v1, v2, k0
   (0xE330140400004000, .scan .maxF32 (plain ⟨.v, 1⟩ ⟨.v, 2⟩ ⟨.s, 0⟩ 0)),
   -- scan.x.add.f32 v9, v8, k1
   (0xE330941000009001, .scanX .addF32 (plain ⟨.v, 9⟩ ⟨.v, 8⟩ ⟨.s, 0⟩ 1)),
   -- bar.arr 0, 63
   (0xE4000C000000003F, .barArr (plain ⟨.none, 0⟩ ⟨.imm, 0⟩ ⟨.s, 0⟩ 63)),
   -- bar.wait 3
   (0xE400000000000803, .barWait (plain ⟨.none, 0⟩ ⟨.s, 0⟩ ⟨.s, 0⟩ 3)),
   -- bar.sync s6, 3
   (0xE400000C00001003, .barSync (plain ⟨.none, 0⟩ ⟨.s, 6⟩ ⟨.s, 0⟩ 3)),
   -- jarr.dev s2, 0
   (0x100000E580000580000000, .jarr (ext (plain ⟨.none, 0⟩ ⟨.s, 2⟩ ⟨.imm, 0⟩ 0) 0 ⟨.s, 0⟩ 4 0)),
   -- jwait.sys v2.d, s2
   (0x180000E5B0200400000800, .jwait (ext (plain ⟨.v, 2⟩ ⟨.s, 2⟩ ⟨.s, 0⟩ 0) 0 ⟨.s, 0⟩ 6 0)),
   -- tadd s1, s2, t15
   (0xE61010040000000F, .tadd (plain ⟨.s, 1⟩ ⟨.s, 2⟩ ⟨.s, 0⟩ 15)),
   -- tmin v2, t0
   (0xE600040400000800, .tmin (plain ⟨.none, 0⟩ ⟨.v, 2⟩ ⟨.s, 0⟩ 0)),
   -- tmax s1, 5, t2
   (0xE6101C0A00001002, .tmax (plain ⟨.s, 1⟩ ⟨.imm, 5⟩ ⟨.s, 0⟩ 2)),
   -- tand s2, t1
   (0xE600000400001801, .tand (plain ⟨.none, 0⟩ ⟨.s, 2⟩ ⟨.s, 0⟩ 1)),
   -- tor s2, t1
   (0xE600000400002001, .tor (plain ⟨.none, 0⟩ ⟨.s, 2⟩ ⟨.s, 0⟩ 1)),
   -- txchg v1, v2, t3
   (0xE630140400002803, .txchg (plain ⟨.v, 1⟩ ⟨.v, 2⟩ ⟨.s, 0⟩ 3)),
   -- tcas s1, s2, s3, t4
   (0x600000E690100400003004, .tcas (ext (plain ⟨.s, 1⟩ ⟨.s, 2⟩ ⟨.s, 0⟩ 4) 0 ⟨.s, 3⟩ 0 0))]

theorem test_decode_lanes_1 : ∀ q ∈ lanesWords1, decodeTableWord 128 q.1 = some q.2 := by decide +kernel

/-- Words of lanes, from the encoding tables of R186. -/
def lanesWords2 : List (Nat × Instr) :=
  [-- await.eq [s2 + 8], 1
   (0xE700000580400008, .awaitEq .plain (plain ⟨.none, 0⟩ ⟨.s, 2⟩ ⟨.imm, 1⟩ 8)),
   -- await.ne.acq.clu [s2], s3
   (0x80000E780000400C00900, .awaitNe .acq (ext (plain ⟨.none, 0⟩ ⟨.s, 2⟩ ⟨.s, 3⟩ 0) 0 ⟨.s, 0⟩ 2 0)),
   -- qres s1, s2
   (0xE810100400000000, .qres (plain ⟨.s, 1⟩ ⟨.s, 2⟩ ⟨.s, 0⟩ 0)),
   -- qpub s2, s1
   (0xE800000400400800, .qpub (plain ⟨.none, 0⟩ ⟨.s, 2⟩ ⟨.s, 1⟩ 0)),
   -- qtake v4.d, s2
   (0xE830400400001000, .qtake (plain ⟨.v, 4⟩ ⟨.s, 2⟩ ⟨.s, 0⟩ 0))]

theorem test_decode_lanes_2 : ∀ q ∈ lanesWords2, decodeTableWord 128 q.1 = some q.2 := by decide +kernel

/-- Words of engines, from the encoding tables of R187. -/
def enginesWords : List (Nat × Instr) :=
  [-- mma.bf16 acc2, v16, s4
   (0xF050242001000000, .mma .bf16 (plain ⟨.acc, 2⟩ ⟨.v, 16⟩ ⟨.s, 4⟩ 0)),
   -- mma.clu.mxf4.ru acc0, v32, s6
   (0xF05004400182A000, .mmaClu .mxf4 (guarded ⟨.acc, 0⟩ ⟨.v, 32⟩ ⟨.s, 6⟩ 0 0 false true)),
   -- accld acc7, [s1]
   (0xF150700200000000, .accld (plain ⟨.acc, 7⟩ ⟨.s, 1⟩ ⟨.s, 0⟩ 0)),
   -- accst acc5, [s7]
   (0xF1000A0A01C00800, .accst (plain ⟨.none, 0⟩ ⟨.acc, 5⟩ ⟨.s, 7⟩ 0)),
   -- acczero acc0
   (0xF150000000001000, .acczero (plain ⟨.acc, 0⟩ ⟨.s, 0⟩ ⟨.s, 0⟩ 0)),
   -- cparm s1, 3
   (0xF200000380C00000, .cparm (plain ⟨.none, 0⟩ ⟨.s, 1⟩ ⟨.imm, 3⟩ 0)),
   -- cpfire s9, 12
   (0xF200001383000800, .cpfire (plain ⟨.none, 0⟩ ⟨.s, 9⟩ ⟨.imm, 12⟩ 0)),
   -- cpbook s1, s2
   (0xF200000200801000, .cpbook (plain ⟨.none, 0⟩ ⟨.s, 1⟩ ⟨.s, 2⟩ 0)),
   -- cpbind s1, 63
   (0xF20000038FC01800, .cpbind (plain ⟨.none, 0⟩ ⟨.s, 1⟩ ⟨.imm, 63⟩ 0)),
   -- cpdisarm s1, 1
   (0xF200000380402000, .cpdisarm (plain ⟨.none, 0⟩ ⟨.s, 1⟩ ⟨.imm, 1⟩ 0)),
   -- spawn s3
   (0xF300000600000000, .spawn (plain ⟨.none, 0⟩ ⟨.s, 3⟩ ⟨.s, 0⟩ 0)),
   -- alaunch s2, s5
   (0xF400000401400000, .alaunch (plain ⟨.none, 0⟩ ⟨.s, 2⟩ ⟨.s, 5⟩ 0)),
   -- asplice s2, 0
   (0xF400000580000800, .asplice (plain ⟨.none, 0⟩ ⟨.s, 2⟩ ⟨.imm, 0⟩ 0)),
   -- xred s2, 1
   (0xF400000580401000, .xred (plain ⟨.none, 0⟩ ⟨.s, 2⟩ ⟨.imm, 1⟩ 0)),
   -- bnkop s8
   (0xF500001000000000, .bnkop (plain ⟨.none, 0⟩ ⟨.s, 8⟩ ⟨.s, 0⟩ 0))]

theorem test_decode_engines : ∀ q ∈ enginesWords, decodeTableWord 128 q.1 = some q.2 := by decide +kernel
/-! ### Ill-formed terms and words -/

theorem test_illformed_destination : wfErr (.intAdd .v .i32 (plain ⟨.s, 5⟩ ⟨.v, 3⟩ ⟨.a, 2⟩ 0)) = some .destination := by decide +kernel
theorem test_illformed_destination_k0 : wfErr (.kmov (plain ⟨.k, 0⟩ ⟨.k, 1⟩ ⟨.s, 0⟩ 0)) = some .destination := by decide +kernel
theorem test_illformed_destination_odd_pair : wfErr (.intAdd .v .i64 (plain ⟨.v, 3⟩ ⟨.v, 4⟩ ⟨.v, 6⟩ 0)) = some .destination := by decide +kernel
theorem test_illformed_sourceA : wfErr (.brNz (plain ⟨.none, 0⟩ ⟨.a, 7⟩ ⟨.s, 0⟩ 0)) = some .sourceA := by decide +kernel
theorem test_illformed_sourceB : wfErr (.amul (plain ⟨.a, 2⟩ ⟨.a, 2⟩ ⟨.a, 3⟩ 0)) = some .sourceB := by decide +kernel
theorem test_illformed_sourceC : wfErr (.intSel .v .i32 (ext (plain ⟨.v, 1⟩ ⟨.v, 2⟩ ⟨.v, 3⟩ 0) 0 ⟨.v, 4⟩ 0 0)) = some .sourceC := by decide +kernel
theorem test_illformed_immediates : wfErr (.intAdd .v .i32 (plain ⟨.v, 1⟩ ⟨.imm, 1⟩ ⟨.imm, 2⟩ 0)) = some .immediates := by decide +kernel
theorem test_illformed_shift_64 : wfErr (.ashl (plain ⟨.a, 2⟩ ⟨.a, 2⟩ ⟨.imm, 64⟩ 0)) = some .immediates := by decide +kernel
theorem test_illformed_needsExtension : wfErr (.intMad .v .i32 (plain ⟨.v, 1⟩ ⟨.v, 2⟩ ⟨.v, 3⟩ 0)) = some .needsExtension := by decide +kernel
theorem test_illformed_extension : wfErr (.intAdd .v .i32 (ext (plain ⟨.v, 1⟩ ⟨.v, 2⟩ ⟨.v, 3⟩ 0) 1 ⟨.s, 0⟩ 0 0)) = some .extension := by decide +kernel
theorem test_illformed_scope : wfErr (.fenceSc (ext (plain ⟨.none, 0⟩ ⟨.s, 0⟩ ⟨.s, 0⟩ 0) 0 ⟨.s, 0⟩ 7 0)) = some .scope := by decide +kernel
theorem test_illformed_guard : wfErr (.intMul .s .i64 (guarded ⟨.s, 1⟩ ⟨.s, 2⟩ ⟨.imm, 5⟩ 0 1 false false)) = some .guard := by decide +kernel
theorem test_illformed_guard_none_active : wfErr (.nop (guarded ⟨.none, 0⟩ ⟨.s, 0⟩ ⟨.s, 0⟩ 0 0 true false)) = some .guard := by decide +kernel
theorem test_illformed_reuse : wfErr (.brx (guarded ⟨.none, 0⟩ ⟨.s, 1⟩ ⟨.s, 0⟩ 0 0 false true)) = some .reuse := by decide +kernel
theorem test_illformed_imm8 : wfErr (.intBfe .v .u8 (plain ⟨.v, 1⟩ ⟨.v, 2⟩ ⟨.imm, 4⟩ 9)) = some .imm8 := by decide +kernel

/-- R174, R163: words that no form takes, and bytes that end too soon. -/
theorem test_decode_refuses :
    decodeWords 0x3000000000000000 0 = .error .opcode ∧
    decodeWords 0x603054064080F800 0 = .error .function ∧ decodeWords 0x4020320380000700 0 = .error .modifier ∧
    decodeWords 0xC100000882542200 0 = .error .needsExtension ∧ decodeWords 0xC180000882542200 0x00000040001C0000 = .error .scope ∧
    decodeWords 0xC180000882542200 0x0000004000100001 = .error .extension ∧
    decode [0, 0, 0] = .error .length ∧ decode [0x00, 0x22, 0x54, 0x82, 0x08, 0x00, 0x80, 0xC1] = .error .length := by decide +kernel

/-! ### Small states -/

/-- The issuing context of an encoded instruction. -/
def ctxOf (i : Instr) (s : State) : Option Ctx :=
  match Forms.spec i with
  | some (_, f) => s.here f
  | none => none

/-- `Issues` and `Arrives` as tests. -/
def arrivesB (i : Instr) (x : Ctx) : Bool :=
  match Forms.spec i with
  | some (p, f) => (Forms.check p (Forms.isBr i) f).isNone && !x.outOfBlock p && (x.conv || (x.f.d.file != .s && x.f.d.file != .a))
  | none => false

def issuesB (i : Instr) (x : Ctx) : Bool :=
  match Forms.spec i with
  | some (p, _) => arrivesB i x && !x.eccBad p && x.clean p
  | none => false

theorem arrives_of {i : Instr} {s : State} {x : Ctx} (hx : ctxOf i s = some x) (h : arrivesB i x = true) : Arrives i s x := by
  unfold ctxOf at hx
  unfold arrivesB at h
  split at hx
  · rename_i p f hp
    simp only [hp, Bool.and_eq_true, Option.isNone_iff_eq_none, Bool.not_eq_true', Bool.or_eq_true, bne_iff_ne] at h
    exact ⟨p, f, hp, h.1.1, hx, h.1.2, h.2⟩
  · cases hx

theorem issues_of {i : Instr} {s : State} {x : Ctx} (hx : ctxOf i s = some x) (h : issuesB i x = true) : Issues i s x := by
  unfold issuesB at h
  split at h
  · rename_i p g hp
    simp only [Bool.and_eq_true, Bool.not_eq_true'] at h
    obtain ⟨q, f, hq, h1, h2, h3, h4⟩ := arrives_of hx h.1.1
    rw [hq] at hp
    cases hp
    exact ⟨_, _, hq, h1, h2, h3, h.1.2, h.2, h4⟩
  · cases h

/-- A split that issues an instruction and meets a further condition. -/
theorem witness {i : Instr} {s : State} {P : Ctx → Prop} [∀ x, Decidable (P x)]
    (h : ((ctxOf i s).any fun x => issuesB i x && decide (P x)) = true) : ∃ x, Issues i s x ∧ P x := by
  cases hx : ctxOf i s with
  | none => rw [hx] at h; cases h
  | some x =>
    rw [hx, Option.any_some, Bool.and_eq_true, decide_eq_true_eq] at h
    exact ⟨x, issues_of hx h.1, h.2⟩

theorem witness_arrives {i : Instr} {s : State} {P : Ctx → Prop} [∀ x, Decidable (P x)]
    (h : ((ctxOf i s).any fun x => arrivesB i x && decide (P x)) = true) : ∃ x, Arrives i s x ∧ P x := by
  cases hx : ctxOf i s with
  | none => rw [hx] at h; cases h
  | some x =>
    rw [hx, Option.any_some, Bool.and_eq_true, decide_eq_true_eq] at h
    exact ⟨x, arrives_of hx h.1, h.2⟩

/-- A pair from its second part. -/
theorem pair_eq {α β : Type} {p : α × β} {b : β} (h : p.2 = b) : p = (p.1, b) := Prod.ext rfl h

/-- The state of a converged wave at address 0, and of a diverged one whose lanes 0 to 15 stand there. -/
def together : ExecSt := ExecSt.start 0
def apart : ExecSt := { together with splits := [(0, { pc := 0, mask := 0xFFFF }), (1, { pc := 64, mask := 0xFFFF0000 })], conv := false }

def tWave : Wave := { loneWave with team := 1 }
def tTeam : Team :=
  { core := 0, grid := 1, teamId := 0, rank := 0, group := 0, groupSize := 1, coop := false, depth := 0, tag := 1, join := 0x1000, jscope := 4
    lrec := 0x100, teammem := 8192, nbar := 4, alive := 1
    bars := [(0, ⟨0, 0, 1, 0⟩), (1, ⟨0, 0, 1, 0⟩), (2, ⟨0, 0, 1, 0⟩), (3, ⟨0, 0, 1, 0⟩)] }

/-- Translation of the first GiB of the space of context 1 to the first GiB of DRAM. -/
def page0 : TlbEnt := ⟨1, 0, 0, 30, 0, true, true, true, true⟩

/-- One wave of context 1 on user core 0, slot 0, with its team. -/
def one (w : Wave) (t : Team) : State :=
  { State.reset with
    waves := [(0, w)], teams := [(1, t)], nextId := 2
    cores := [(0, { tlb := [page0] })], dies := [(0, { stlb := [page0] })] }
def lone : State := one tWave tTeam
def super : State := one { tWave with supervisor := true } tTeam

/-- Bytes from an address on, as DRAM lists them. -/
def listed : Nat → List W8 → FMap W8
  | _, [] => []
  | pa, b :: bs => if b = 0 then listed (pa + 1) bs else (pa, b) :: listed (pa + 1) bs

def withBytes (s : State) (pa : Nat) (bs : List W8) : State := { s with dram := listed pa bs }

theorem fetch_listed_below (bs : List W8) (pa j : Nat) (h : j < pa) : FMap.fetch (listed pa bs) j = none := by
  induction bs generalizing pa with
  | nil => rfl
  | cons b bs ih =>
    simp only [listed]
    split
    · exact ih _ (by omega)
    · rw [FMap.fetch, if_neg (by omega)]
      exact ih _ (by omega)

theorem at'_listed (bs : List W8) (pa i : Nat) (h : i < bs.length) : FMap.at' 0 (listed pa bs) (pa + i) = bs.getD i 0 := by
  induction bs generalizing pa i with
  | nil => exact absurd h (by simp)
  | cons b bs ih =>
    cases i with
    | zero =>
      simp only [listed, Nat.add_zero, List.getD_cons_zero]
      split
      · rename_i hb
        rw [FMap.at', fetch_listed_below _ _ _ (by omega), hb]
        rfl
      · simp [FMap.at', FMap.fetch]
    | succ i =>
      have := ih (pa + 1) i (by simpa using h)
      rw [show pa + 1 + i = pa + (i + 1) by omega] at this
      simp only [listed, List.getD_cons_succ]
      split
      · exact this
      · rw [FMap.at', FMap.fetch, if_neg (by omega)]
        exact this

/-- What the homes hold where DRAM lists some bytes and the L2 holds none of them. -/
theorem homeBytes_listed {s : State} {bs : List W8} (hl : s.l2d = []) (hd : s.dram = listed 0 bs) (hb : bs.length ≤ 2 ^ 52) :
    s.homeBytes (keysFrom 0 bs.length) = bs := by
  refine List.ext_getElem (by simp [State.homeBytes, keysFrom]) fun i h1 h2 => ?_
  have h3 : i / 2 ^ 52 = 0 := Nat.div_eq_of_lt (by omega)
  simp only [State.homeBytes, keysFrom, List.getElem_map, List.getElem_range, State.homeByte, homeOf, Nat.zero_add, h3, hl]
  have h4 := at'_listed bs 0 i h2
  rw [Nat.zero_add] at h4
  simp only [FMap.fetch, Option.getD_none, State.dramByte, hd, h4]
  simp [List.getD_eq_getElem?_getD, h2]

/-- Bytes of this device answer where no line is reserved, poisoned or in a row that is marked. -/
theorem reach_clean {s : State} (h1 : s.reserved = []) (h2 : s.poison = []) (h3 : s.stks = []) (d k : Nat) (hk : k < 2 ^ 52) :
    s.reach d (lineOf k) = .ok := by
  have hh : homeOf (128 * lineOf k) = .here := by
    unfold homeOf lineOf
    rw [Nat.div_eq_of_lt (by omega)]
  unfold State.reach State.shut State.isReserved State.poisoned State.failedLine State.stk
  simp only [h1, h2, h3, hh, FMap.fetch, FMap.at', Option.getD_none]
  rfl

theorem reachAll_clean {s : State} (h1 : s.reserved = []) (h2 : s.poison = []) (h3 : s.stks = []) (d : Nat) (ks : List Nat) (hk : ∀ k ∈ ks, k < 2 ^ 52) :
    (s.reachAll d ks).1 = .ok := by
  have hr : ∀ r ∈ ((ks.map lineOf).dedup).map (fun l => (s.reach d l, 128 * l)), r.1 = .ok := by
    intro r hr
    obtain ⟨l, hl, rfl⟩ := List.mem_map.mp hr
    obtain ⟨k, hk', rfl⟩ := List.mem_map.mp (List.mem_dedup.mp hl)
    exact reach_clean h1 h2 h3 d k (hk k hk')
  have hn : ∀ p : Reach × Nat → Bool, (∀ n, p (.ok, n) = false) → (((ks.map lineOf).dedup).map (fun l => (s.reach d l, 128 * l))).find? p = none := by
    intro p hp
    rw [List.find?_eq_none]
    intro r hr'
    have := hr r hr'
    obtain ⟨a, n⟩ := r
    simp only at this
    subst this
    simp [hp]
  unfold State.reachAll
  simp only
  rw [hn _ (fun _ => rfl), hn _ (fun _ => rfl), hn _ (fun _ => rfl)]

theorem keysFrom_lt {k n b : Nat} (h : k + n ≤ b) : ∀ i ∈ keysFrom k n, i < b := by
  intro i hi
  obtain ⟨j, hj, rfl⟩ := List.mem_map.mp hi
  have := List.mem_range.mp hj
  omega

/-- The words of a list all issue in a state. -/
def allIssue (ws : List (Nat × Instr)) (s : State) : Bool := ws.all fun q => (ctxOf q.2 s).any (issuesB q.2)

theorem issue_of_all {ws : List (Nat × Instr)} {s : State} (h : allIssue ws s = true) : ∀ q ∈ ws, ∃ x, Issues q.2 s x := by
  intro q hq
  have h1 := List.all_eq_true.mp h q hq
  cases hx : ctxOf q.2 s with
  | none => rw [hx] at h1; cases h1
  | some x => rw [hx] at h1; exact ⟨x, issues_of hx h1⟩

/-! ### Witnesses: every form issues -/

theorem test_witness_control : ∀ q ∈ controlWords, ∃ x, Issues q.2 super x := issue_of_all (by decide +kernel)
theorem test_witness_masks : ∀ q ∈ masksWords, ∃ x, Issues q.2 super x := issue_of_all (by decide +kernel)
theorem test_witness_IntegerForms : ∀ q ∈ integersWords1 ++ integersWords2, ∃ x, Issues q.2 lone x := issue_of_all (by decide +kernel)
theorem test_witness_affine : ∀ q ∈ affineWords, ∃ x, Issues q.2 lone x := issue_of_all (by decide +kernel)
theorem test_witness_floats : ∀ q ∈ floatsWords1 ++ floatsWords2, ∃ x, Issues q.2 lone x := issue_of_all (by decide +kernel)
theorem test_witness_memory : ∀ q ∈ memoryWords1 ++ memoryWords2, ∃ x, Issues q.2 lone x := issue_of_all (by decide +kernel)
theorem test_witness_lanes : ∀ q ∈ lanesWords1 ++ lanesWords2, ∃ x, Issues q.2 lone x := issue_of_all (by decide +kernel)
theorem test_witness_engines : ∀ q ∈ enginesWords, ∃ x, Issues q.2 lone x := issue_of_all (by decide +kernel)

/-! ### Witnesses: encoding, steps, memory -/

theorem test_witness_DecodeOfEncode : WellFormed (.spawn (plain ⟨.none, 0⟩ ⟨.s, 3⟩ ⟨.s, 0⟩ 0)) = true ∧
    ∃ bs, encodeBytes (.spawn (plain ⟨.none, 0⟩ ⟨.s, 3⟩ ⟨.s, 0⟩ 0)) = some bs := ⟨by decide +kernel, _, rfl⟩

theorem test_witness_EncodeOfDecode : ∃ i, decodeWords 0xC180000882542200 0x0000004000100000 = .ok i := ⟨_, rfl⟩

/-- The state in which `withFetchWord` has placed a word, at the turn of its wave. -/
def placed (w : Nat) : State := State.reset.withFetchWord 128 w

/-- The premises of a step that issues, for the bytes of a word at address 0. -/
def stepPremises (s : State) (bs : List W8) : Bool :=
  match s.agenda, s.waves.fetch 0 with
  | [.issue 0 0 0], some w =>
    match w.ex.splits.fetch 0 with
    | some sp =>
      let s0 : State := { s with agenda := [] }
      let r : State := { s0.bookIssue 0 0 0 w with cur := ⟨0, 0, 0⟩ }
      let t1 := r.translate 0 (some 0) w.tag w.supervisor .fetch sp.pc
      let u1 := t1.1.updCore 0 fun c => { c with icache := c.icache.ins 0 (wordOf (bs.take 8)) }
      let t2 := u1.translate 0 (some 0) w.tag w.supervisor .fetch (sp.pc + 8)
      s0.waveReady 0 w && s0.splitReady 0 w sp && w.sound && sp.pc.toNat % 8 == 0 && (match decode bs with | .ok (_, []) => true | _ => false) &&
        decide (t1.2 = .ok 0) && !t1.1.poisoned 0 && !t1.1.isReserved 0 && decide ((t1.1.core 0).icache.fetch 0 = none) && (keysFrom 0 8).map t1.1.homeByte == bs.take 8 &&
        (bs.length == 8 || (decide (t2.2 = .ok 8) && !t2.1.poisoned 0 && !t2.1.isReserved 0 && decide ((t2.1.core 0).icache.fetch 8 = none) &&
          (keysFrom 8 8).map t2.1.homeByte == bs.drop 8))
    | none => false
  | _, _ => false

theorem test_witness_StepRunsDecodedInstruction :
    stepPremises (placed 0x6030540640800000) (toBytes 8 0x6030540640800000) = true ∧
    stepPremises (placed 0x0000004000100000C180000882542200) (toBytes 16 0x0000004000100000C180000882542200) = true := by decide +kernel

theorem test_witness_StepRunsTheAgenda :
    (State.reset.agenda = [] ∧ State.reset.phase = 0) ∧ (({ lone with phase := 1 } : State).agenda = [] ∧ ({ lone with phase := 1 } : State).phase ≠ 0) ∧
    ({ lone with agenda := [.event (.faultRecord 0)] } : State).agenda = .event (.faultRecord 0) :: [] ∧
    ({ lone with agenda := [.upset (.flit 0)] } : State).agenda = .upset (.flit 0) :: [] := by decide +kernel

theorem test_witness_StepKeepsMemoryForm : MemoryForm State.reset ∧ ∃ t, step State.reset = .next t := ⟨⟨rfl, rfl, rfl⟩, _, rfl⟩

/-- The last byte of a home's address space. -/
theorem test_witness_MemoryWrites : (2 ^ 52 - 1) % 2 ^ 52 + [(7 : W8)].length ≤ 2 ^ 52 ∧ (5 * 2 ^ 52 + 2 ^ 52 - 1) % 2 ^ 52 + [(7 : W8)].length ≤ 2 ^ 52 := by
  decide +kernel

/-! ### Witnesses: registers and arithmetic -/

theorem test_witness_SaturatingForms :
    (∃ x, Issues (.intAddSat .v .i32 (plain ⟨.v, 1⟩ ⟨.v, 2⟩ ⟨.v, 3⟩ 0)) lone x ∧ x.act ≠ 0) ∧
    ∃ x, Issues (.intNegSat .s .u64 (plain ⟨.s, 1⟩ ⟨.s, 2⟩ ⟨.s, 0⟩ 0)) lone x ∧ x.f.d.file = .s := ⟨witness (by decide +kernel), witness (by decide +kernel)⟩

theorem test_witness_ComparesAndSelects :
    (∃ x, Issues (.smovh .i64 (plain ⟨.s, 1⟩ ⟨.imm, 5⟩ ⟨.s, 0⟩ 0)) lone x ∧ x.errorOf x.oldDst = none) ∧
    ∃ x, Issues (.smovh .u64 (plain ⟨.t, 1⟩ ⟨.s, 5⟩ ⟨.s, 0⟩ 0)) lone x ∧ x.f.d.file = .t ∧ x.errorOf x.oldDst = none :=
  ⟨witness (by decide +kernel), witness (by decide +kernel)⟩

/-- A wave whose a1 has a base of 16 and a stride, and whose v1 holds a column. -/
def withAffine (st : Int) : State := one { tWave with a := [(1, ⟨16, BitVec.ofInt 32 st⟩)] } tTeam
def column (f : Nat → Nat) : State := one { tWave with v := (List.range 32).map fun l => (32 + l, BitVec.ofNat 32 (f l)) } tTeam

/-- Strides at both ends of their range, and just beyond. -/
theorem test_witness_AffineForms :
    (∃ x, Issues (.aneg (plain ⟨.a, 2⟩ ⟨.a, 1⟩ ⟨.s, 0⟩ 0)) (withAffine (2 ^ 31 - 1)) x ∧ -(x.affSrc false x.f.a).stride.toInt = -(2 ^ 31) + 1) ∧
    (∃ x, Issues (.aneg (plain ⟨.a, 2⟩ ⟨.a, 1⟩ ⟨.s, 0⟩ 0)) (withAffine (-(2 ^ 31))) x ∧ 2 ^ 31 - 1 < -(x.affSrc false x.f.a).stride.toInt) ∧
    (∃ x, Issues (.aadd (plain ⟨.a, 2⟩ ⟨.a, 1⟩ ⟨.s, 0⟩ 0)) (withAffine (-(2 ^ 31))) x ∧
      -(2 ^ 31) = (x.affSrc false x.f.a).stride.toInt + (x.affSrc false x.f.b).stride.toInt) ∧
    ∃ x, Issues (.aadd (plain ⟨.a, 2⟩ ⟨.a, 1⟩ ⟨.a, 1⟩ 0)) (withAffine (-1)) x ∧ x.act ≠ 0 :=
  ⟨witness (by decide +kernel), witness (by decide +kernel), witness (by decide +kernel), witness (by decide +kernel)⟩

/-- R228's column 0x100 - 16 l fits as i32 and not as u32. -/
theorem test_witness_AffineAndDemotion :
    (∃ x, Issues (.vtoa .i32 (plain ⟨.a, 5⟩ ⟨.v, 1⟩ ⟨.s, 0⟩ 0)) (column fun l => 2 ^ 32 + 0x100 - 16 * l) x ∧ x.sp.mask ≠ 0 ∧
      ∀ l < 32, numB .i32 (opB x .i32 32 x.f.a l) = 256 + (-16) * l) ∧
    ∃ x, Issues (.vtoa .u32 (plain ⟨.a, 5⟩ ⟨.v, 1⟩ ⟨.s, 0⟩ 0)) (column fun l => 2 ^ 32 + 0x100 - 16 * l) x ∧ x.sp.mask ≠ 0 ∧
      numB .u32 (opB x .u32 32 x.f.a 0) = 256 ∧ numB .u32 (opB x .u32 32 x.f.a 1) = 240 ∧ numB .u32 (opB x .u32 32 x.f.a 17) = 4294967280 :=
  ⟨witness (by decide +kernel), witness (by decide +kernel)⟩

theorem test_witness_SourceValues : ∃ x : Ctx,
    (∃ t, x.tm = some t ∧ t.tcc = x.cc + 1) ∧ (∃ t, ({ x with cc := 7 } : Ctx).tm = some t ∧ t.tcc ≠ ({ x with cc := 7 } : Ctx).cc + 1) ∧
    (x.f.x = false ∨ true = true) ∧ (({ x with f := ext x.f 5 ⟨.s, 0⟩ 0 0 } : Ctx).f.x = true) :=
  ⟨⟨0, 0, 0, tWave, ⟨0, 0xFFFFFFFF, 0, .none, none, 0, none⟩, noF, some { tTeam with tcc := 1 }, 0⟩, ⟨_, rfl, rfl⟩, ⟨_, rfl, by decide⟩, .inl rfl, rfl⟩

/-- A discarded part below, at and above one half, and a value that is a multiple already. -/
theorem test_witness_RoundingModes :
    (0 : Int) ≤ 3 ∧ (-2 : Int) < 0 ∧ 5 % 2 ^ 2 ≠ 0 ∧ 2 * (5 - 1 * 2 ^ 2) < 2 ^ 2 ∧ 2 ^ 2 < 2 * (7 - 1 * 2 ^ 2) ∧ 2 * (6 - 1 * 2 ^ 2) = 2 ^ 2 ∧ 4 % 2 ^ 2 = 0 ∧
    0xFFFF < 2 ^ 16 := by decide

theorem test_witness_RoundingIsExact : 0x7BFF < 2 ^ Fmt.f16.width ∧ (valueOf .f16 0x7BFF).isNan = false ∧ (valueOf .f16 0x7BFF).isInf = false := by decide +kernel

theorem test_witness_SpecialFunctionsAndTests :
    (∃ e, valueOf .f32 0xBF800000 = .fin true 8388608 e ∧ (flushIn .f32 true (valueOf .f32 0xBF800000)).isZero = false) ∧ (Fmt.f32 = .f32 ∨ Fmt.f32 = .f64) :=
  ⟨⟨_, rfl, by decide +kernel⟩, .inl rfl⟩

theorem test_witness_FpArithmeticForms : ∃ x, Issues (.fpFma .vF32 .sr (ext (plain ⟨.v, 1⟩ ⟨.v, 2⟩ ⟨.v, 3⟩ 0) 0 ⟨.v, 4⟩ 0 5)) lone x ∧ x.act ≠ 0 := witness (by decide +kernel)

theorem test_witness_Conversions :
    (∃ x, Issues (.vcvtMxf4F32 .rne (plain ⟨.v, 1⟩ ⟨.v, 2⟩ ⟨.s, 0⟩ 0)) lone x ∧ x.conv = true) ∧
    ∃ x, Issues (.vcvtF32Mxf4 .rne (plain ⟨.v, 1⟩ ⟨.v, 2⟩ ⟨.v, 3⟩ 31)) (one { tWave with v := [(32 * 3 + 4, 0xFF)] } tTeam) x ∧
      (x.src false false x.f.b 4).toNat % 256 = 0xFF := ⟨witness (by decide +kernel), witness (by decide +kernel)⟩

/-- R147: magnitudes beyond max finite of FP16 and of E2M1. -/
theorem test_witness_OverflowOutcomes :
    (let q := max ((Nat.log2 65536 : Int) + 0) (1 - Fmt.f16.bias) - Fmt.f16.mant
     let r := roundTo 65536 0 q true .rtz 0
     65536 ≠ 0 ∧ (Fmt.f16.maxFin.1 : ℚ) * 2 ^ Fmt.f16.maxFin.2 < (r.1 : ℚ) * 2 ^ q) ∧
    (let q := max ((Nat.log2 8 : Int) + 0) (1 - Fmt.e2m1.bias) - Fmt.e2m1.mant
     let r := roundTo 8 0 q false .rne 0
     8 ≠ 0 ∧ (Fmt.e2m1.maxFin.1 : ℚ) * 2 ^ Fmt.e2m1.maxFin.2 < (r.1 : ℚ) * 2 ^ q) := by decide +kernel

/-! ### Witnesses: control, exceptions, system registers -/

def sregs (l : List (Nat × Nat)) : State := one { tWave with s := l.map fun p => (p.1, BitVec.ofNat 64 p.2) } tTeam
def apartState : State := one { tWave with ex := apart } tTeam

theorem test_witness_RelativeBranches :
    (∃ x, Issues (.br (plain ⟨.none, 0xFF⟩ ⟨.s, 0⟩ ⟨.s, 0⟩ 0xC0)) apartState x ∧ x.sp.mask ≠ 0) ∧
    (∃ x, Issues (.call (ext (plain ⟨.s, 10⟩ ⟨.s, 0⟩ ⟨.s, 0⟩ 0) 64 ⟨.s, 0⟩ 0 0)) lone x ∧ x.sp.mask ≠ 0 ∧ x.f.d.file = .s) ∧
    ∃ x, Issues (.call (ext (plain ⟨.v, 254⟩ ⟨.s, 0⟩ ⟨.s, 0⟩ 0) 64 ⟨.s, 0⟩ 0 0)) apartState x ∧ x.sp.mask ≠ 0 ∧ x.f.d.file = .v :=
  ⟨witness (by decide +kernel), witness (by decide +kernel), witness (by decide +kernel)⟩

/-- A target that is a multiple of 8 and one that is not. -/
theorem test_witness_Branches :
    let bad := fun (x : Ctx) => maskWhere fun l => bit x.act l && (x.src false true x.f.a l).toNat % 8 != 0
    (∃ x, Issues (.brx (plain ⟨.none, 0⟩ ⟨.s, 1⟩ ⟨.s, 0⟩ 0)) (sregs [(1, 0x40)]) x ∧ x.sp.mask ≠ 0 ∧ bad x = 0) ∧
    (∃ x, Issues (.ret (plain ⟨.none, 0⟩ ⟨.s, 1⟩ ⟨.s, 0⟩ 0)) (sregs [(1, 0x44)]) x ∧ bad x ≠ 0) ∧
    (∃ x, Issues (.callIndirect (plain ⟨.s, 10⟩ ⟨.s, 1⟩ ⟨.s, 0⟩ 0)) (sregs [(1, 0x40)]) x ∧ x.sp.mask ≠ 0 ∧ bad x = 0 ∧ x.f.d.file = .s) ∧
    (∃ x, Issues (.callIndirect (plain ⟨.v, 4⟩ ⟨.v, 8⟩ ⟨.s, 0⟩ 0)) apartState x ∧ x.sp.mask ≠ 0 ∧ bad x = 0 ∧ x.f.d.file = .v) ∧
    ∃ x, Issues (.callIndirect (plain ⟨.v, 4⟩ ⟨.v, 2⟩ ⟨.s, 0⟩ 0)) (one { tWave with v := [(64, 4)] } tTeam) x ∧ bad x ≠ 0 :=
  ⟨witness (by decide +kernel), witness (by decide +kernel), witness (by decide +kernel), witness (by decide +kernel), witness (by decide +kernel)⟩

/-- No lane ends, some lanes end, all lanes end. -/
theorem test_witness_YieldWaitAndLaneEnds :
    let m := fun (x : Ctx) => (x.k x.f.a.num.toNat) &&& x.w.live
    let w := fun (x : Ctx) (m : W32) => (x.w.withEx (x.exAt x.next)).strip m
    (∃ x, Issues (.kill (plain ⟨.none, 0⟩ ⟨.k, 1⟩ ⟨.s, 0⟩ 0)) lone x ∧ m x = 0) ∧
    (∃ x, Issues (.kill (plain ⟨.none, 0⟩ ⟨.k, 1⟩ ⟨.s, 0⟩ 0)) (one { tWave with k := [(0, 0xFFFFFFFF), (1, 0xFFFE)], ex := apart } tTeam) x ∧
      m x ≠ 0 ∧ (w x (m x)).live ≠ 0 ∧ ((w x (m x)).hnd.isSome = false ∨ (w x (m x)).liveHere ≠ 0) ∧ (w x (m x)).ex.fullRecord = none) ∧
    (∃ x, Issues (.exit (guarded ⟨.none, 0⟩ ⟨.s, 0⟩ ⟨.s, 0⟩ 0 1 false false)) (one { tWave with k := [(0, 0xFFFFFFFF), (1, 1)] } tTeam) x ∧
      x.act &&& x.w.live ≠ 0 ∧ (w x (x.act &&& x.w.live)).live ≠ 0 ∧ (w x (x.act &&& x.w.live)).ex.fullRecord = none) ∧
    ∃ x, Issues (.exit (plain ⟨.none, 0⟩ ⟨.s, 0⟩ ⟨.s, 0⟩ 0)) lone x ∧ x.act &&& x.w.live ≠ 0 ∧ (w x (x.act &&& x.w.live)).live = 0 ∧ (lone.core 0).wcb = [] :=
  ⟨witness (by decide +kernel), witness (by decide +kernel), witness (by decide +kernel), witness (by decide +kernel)⟩

/-- A wave with a handler, and the same wave in it. -/
def trapWave : Wave := { tWave with trapvec := 0x2000 }
def inHandler : Wave := trapWave.enterHandler 0xFFFFFFFF 0 8 { code := .trap }

theorem test_witness_TakingExceptions :
    (∃ x, Issues (.trap (plain ⟨.none, 0⟩ ⟨.s, 0⟩ ⟨.s, 0⟩ 255)) (one trapWave tTeam) x ∧ x.w.trapvec ≠ 0 ∧ x.w.hnd = none) ∧
    (∃ x, Issues (.bkpt (plain ⟨.none, 0⟩ ⟨.s, 0⟩ ⟨.s, 0⟩ 0)) (one trapWave tTeam) x ∧ x.w.trapvec ≠ 0 ∧ x.w.hnd = none) ∧
    (lone.waves.fetch 0 = some tWave ∧ tWave.trapvec = 0 ∧ ({ code := .illop } : Fi).pages = []) ∧
    ((one inHandler tTeam).waves.fetch 0 = some inHandler ∧ inHandler.hnd.isSome = true) ∧
    ((one trapWave tTeam).waves.fetch 0 = some trapWave ∧ Code.wdog.toService = true ∧ trapWave.trapvec ≠ 0) :=
  ⟨witness (by decide +kernel), witness (by decide +kernel), by decide +kernel⟩

theorem test_witness_TrapReturn :
    (∃ x, Issues (.tret (plain ⟨.none, 0⟩ ⟨.s, 0⟩ ⟨.s, 0⟩ 0)) (one inHandler tTeam) x ∧ x.w.hnd.isSome = true ∧ x.w.leaveHandler.ex.fullRecord = none ∧ x.w.halted = false) ∧
    ∃ x, Issues (.tret (plain ⟨.none, 0⟩ ⟨.s, 0⟩ ⟨.s, 0⟩ 0)) lone x ∧ x.w.hnd = none := ⟨witness (by decide +kernel), witness (by decide +kernel)⟩

theorem test_witness_SystemRegisters :
    (∃ x, Issues (.rdsys (plain ⟨.s, 1⟩ ⟨.sys, 0x30⟩ ⟨.s, 0⟩ 0)) lone x ∧ x.f.a.num = 0x30 ∧ lone.sysError x 0x30 = none ∧ x.w.supervisor = false ∧ x.act ≠ 0) ∧
    (∃ x, Issues (.rdsys (plain ⟨.a, 1⟩ ⟨.sys, 0x38⟩ ⟨.s, 0⟩ 0)) super x ∧ (∃ q ∈ sysTable super x, x.f.a.num.toNat = q.1) ∧ super.sysError x 0x38 = none ∧ x.w.supervisor = true ∧ x.f.d.file = .a) ∧
    (∃ x, Issues (.rdsys (plain ⟨.v, 4⟩ ⟨.sys, 0x2F⟩ ⟨.s, 0⟩ 0)) apartState x ∧ (∃ q ∈ sysTable apartState x, x.f.a.num.toNat = q.1) ∧ x.f.d.file = .v) ∧
    (∃ x, Issues (.rdsys (plain ⟨.a, 1⟩ ⟨.sys, 0⟩ ⟨.s, 0⟩ 0)) lone x ∧ x.f.a.num = 0 ∧ x.f.d.file = .a) ∧
    (∃ x, Issues (.rdsys (plain ⟨.v, 4⟩ ⟨.sys, 0⟩ ⟨.s, 0⟩ 0)) lone x ∧ x.f.a.num = 0 ∧ x.f.d.file = .v) ∧
    (∃ x, Issues (.wrsys (plain ⟨.sys, 0x31⟩ ⟨.s, 1⟩ ⟨.s, 0⟩ 0)) lone x ∧ x.conv = true ∧ x.f.d.num ≠ 0x09 ∧ x.f.d.num ≠ 0x0A ∧ x.w.supervisor = false) ∧
    (∃ x, Issues (.wrsys (plain ⟨.sys, 0x09⟩ ⟨.s, 1⟩ ⟨.s, 0⟩ 0)) apartState x ∧ x.f.d.num = 0x09) ∧
    (∃ x, Issues (.wrsys (plain ⟨.sys, 0x2F⟩ ⟨.s, 1⟩ ⟨.s, 0⟩ 0)) super x ∧ x.w.supervisor = true ∧ x.conv = true ∧ x.f.d.num.toNat = 0x20 + 15) ∧
    ∃ x, Issues (.wrsys (plain ⟨.sys, 0x10⟩ ⟨.s, 1⟩ ⟨.s, 0⟩ 0)) super x ∧ x.w.supervisor = true ∧ x.f.d.num = 0x10 :=
  ⟨witness (by decide +kernel), witness (by decide +kernel), witness (by decide +kernel), witness (by decide +kernel), witness (by decide +kernel), witness (by decide +kernel),
   witness (by decide +kernel), witness (by decide +kernel), witness (by decide +kernel)⟩

theorem test_witness_SupervisorForms :
    (∃ x, Issues (.ctxsave (plain ⟨.none, 0⟩ ⟨.s, 0⟩ ⟨.s, 0⟩ 0)) lone x ∧ x.w.supervisor = false) ∧
    (∃ x, Issues (.tlbinv (plain ⟨.none, 0⟩ ⟨.s, 2⟩ ⟨.imm, 3⟩ 0)) super x ∧ x.w.supervisor = true) ∧
    ∃ x, Issues (.l1inv (plain ⟨.none, 0⟩ ⟨.s, 0⟩ ⟨.s, 0⟩ 0)) super x ∧ x.w.supervisor = true :=
  ⟨witness (by decide +kernel), witness (by decide +kernel), witness (by decide +kernel)⟩

/-! ### Witnesses: context save and load -/

/-- The header of a record (R426): its core and tag, how many teams and waves, its length and the room that it may take. -/
def recHeader (core tag nteam nwave len limit : Nat) : List W8 :=
  pad 4 ++ toBytes 4 tag ++ toBytes 4 core ++ toBytes 4 nteam ++ toBytes 4 nwave ++ pad 4 ++ toBytes 8 len ++ toBytes 8 limit ++ pad 0xD8

/-- A wave and a team of context 2 on core 5, with a task of that team on the core's hand. -/
def otherTeam : Team := { tTeam with core := 5, tag := 2, teammem := 0, nbar := 1, bars := [(0, ⟨0, 0, 1, 0⟩)], children := 1 }
def otherWave : Wave := { tWave with team := 2, tag := 2, lregs := 3, s := [(1, 7)] }
def otherTask : Task := ⟨0x100, 0x1000, 4, [], 1, 0, 6, 2, 2⟩
def withOther (s : State) : State :=
  { s with waves := s.waves ++ [(wkey 5 0, otherWave)], teams := s.teams ++ [(2, otherTeam)], cores := s.cores ++ [(5, { hand := [otherTask] })] }
def kittyAt (s : State) : State := { s with kbase := 0x100000, klog2n := 10 }

/-- The record of the other team: a header, its section and its wave's section. -/
def recBody : List W8 := super.teamBytes otherTeam (256 + otherTeam.sectionSize) ++ otherWave.bytes 0
def fullRecord : List W8 := recHeader 5 2 1 1 7424 0 ++ recBody

def noOps : F := plain ⟨.none, 0⟩ ⟨.s, 0⟩ ⟨.s, 0⟩ 0
def superCtx : Ctx := ⟨0, 0, 0, { tWave with supervisor := true }, ⟨0, 0xFFFFFFFF, 0, .none, none, 0, none⟩, noOps, some tTeam, 0⟩

/-- The states after the header is read, and after the record's pages are translated. -/
def headed (s : State) : State := (s.readDesc superCtx .load 0 256).1
def paged (s : State) (kind : Kind) (n : Nat) : State := ((headed s).recordKeys superCtx kind 0 n).1

theorem paged_memory {s : State} (h : (s.core 0).wcb = []) (kind : Kind) (n : Nat) :
    (paged s kind n).dram = s.dram ∧ (paged s kind n).l2d = s.l2d := by
  have h1 : SameButTlbs s (headed s) := by
    have := readDesc_same s superCtx .load 0 256
    rw [show s.drainWave superCtx.key = s from drainWave_none h] at this
    exact this.elim id id
  have h2 := h1.trans (recordKeys_same (headed s) superCtx kind 0 n)
  have h3 : (paged s kind n).dram = _ := congrArg State.dram h2.1
  have h4 : (paged s kind n).l2d = _ := congrArg State.l2d h2.1
  exact ⟨h3, h4⟩

/-- A header without a tag out of range or a reserved byte that is not zero. -/
def headerGood (h : List W8) : Bool := field h 4 4 != 0 && decide (field h 4 4 ≤ 255) &&
  (List.range 256).all fun i => !(decide (0x14 ≤ i ∧ i < 0x18 ∨ 0x28 ≤ i ∧ i < 0x100)) || h.getD i 0 == 0

theorem not_bad {h : List W8} (hg : headerGood h = true) : ¬BadHeader h := by
  simp only [headerGood, Bool.and_eq_true, bne_iff_ne, decide_eq_true_eq, List.all_eq_true, List.mem_range, Bool.or_eq_true, Bool.not_eq_true',
    decide_eq_false_iff_not, beq_iff_eq] at hg
  rintro (h1 | h1 | ⟨i, hi, h1⟩)
  · exact hg.1.1 h1
  · omega
  · rcases hg.2 i (by omega) with h2 | h2
    · exact h2 hi
    · exact h1 h2

/-- A record at address 0 is found when the TLB maps the page and no line there is held or marked. -/
theorem finds {s : State} {kind : Kind} {lenAt n : Nat} {h : List W8} (hr : (s.readDesc superCtx .load 0 256).2 = .bytes h)
    (hn : field h lenAt 8 = n) (hb : headerGood h = true ∧ field h 8 4 < 320 ∧ 256 ≤ n ∧ n ≤ 2 ^ 52)
    (hk : ((headed s).recordKeys superCtx kind 0 n).2 = ([(0, n)], .bytes []))
    (hc : (paged s kind n).reserved = [] ∧ (paged s kind n).poison = [] ∧ (paged s kind n).stks = [])
    (hl : lenAt = 0x20 → (headed s).recordLen ((headed s).contextTeams (field h 8 4) (field h 4 4)) ≤ n) :
    FindsRecord s superCtx kind lenAt h (paged s kind n) [(0, n)] := by
  subst hn
  refine ⟨headed s, ⟨rfl, rfl, pair_eq hr⟩, not_bad hb.1, hb.2.1, hb.2.2.1, pair_eq hk, ?_, hl⟩
  refine reachAll_clean hc.1 hc.2.1 hc.2.2 _ _ fun k hk => ?_
  simp only [pieceKeys, List.flatMap_cons, List.flatMap_nil, List.append_nil] at hk
  exact keysFrom_lt (by simpa using hb.2.2.2) k hk

def saves (s : State) (h : List W8) : State := withBytes s 0 h

/-- A header that names a core out of range, one whose LIMIT does not hold the record, and a malformed one. -/
theorem test_witness_ContextHeaders :
    let S := fun s => Issues (.ctxsave noOps) s superCtx
    let L := fun s => Issues (.ctxload noOps) s superCtx
    let far := recHeader 320 2 1 1 65536 65536
    let tight := recHeader 5 2 0 0 0 512
    let bad := recHeader 5 0 1 1 65536 65536
    (S (saves super bad) ∧ L (saves super bad) ∧ ReadsHeader (saves super bad) superCtx bad (headed (saves super bad)) ∧ BadHeader bad) ∧
    (S (saves super far) ∧ L (saves super far) ∧ ReadsHeader (saves super far) superCtx far (headed (saves super far)) ∧ ¬BadHeader far ∧
      256 ≤ field far 0x20 8 ∧ 256 ≤ field far 0x18 8 ∧ 320 ≤ field far 8 4) ∧
    (let s := saves (withOther super) tight
     S s ∧ ReadsHeader s superCtx tight (headed s) ∧ ¬BadHeader tight ∧ 256 ≤ field tight 0x20 8 ∧ field tight 8 4 < 320 ∧
      field tight 0x20 8 < (headed s).recordLen ((headed s).contextTeams (field tight 8 4) (field tight 4 4))) := by
  refine ⟨⟨issues_of rfl (by decide +kernel), issues_of rfl (by decide +kernel), ⟨rfl, rfl, pair_eq (by decide +kernel)⟩, .inl (by decide +kernel)⟩,
    ⟨issues_of rfl (by decide +kernel), issues_of rfl (by decide +kernel), ⟨rfl, rfl, pair_eq (by decide +kernel)⟩, not_bad (by decide +kernel),
      by decide +kernel, by decide +kernel, by decide +kernel⟩,
    ⟨issues_of rfl (by decide +kernel), ⟨rfl, rfl, pair_eq (by decide +kernel)⟩, not_bad (by decide +kernel), by decide +kernel, by decide +kernel,
      by decide +kernel⟩⟩

/-- The state in which the save of a record is decided. -/
def asked (s : State) (n : Nat) : State := (paged s .store n).endGone

/-- Status 5, 2 and 6, and a save that goes through. -/
theorem test_witness_ContextSave :
    let S := fun s => Issues (.ctxsave noOps) s superCtx
    let own := recHeader 0 1 0 0 0 65536
    let other := recHeader 5 2 0 0 0 7424
    let none' := recHeader 319 2 0 0 0 256
    (let u := asked (saves super own) 65536
     S (saves super own) ∧ FindsRecord (saves super own) superCtx .store 0x20 own (paged (saves super own) .store 65536) [(0, 65536)] ∧
      u.recordLen (u.contextTeams 0 1) ≤ field own 0x20 8 ∧ superCtx.core = field own 8 4 ∧ superCtx.w.tag = field own 4 4) ∧
    (let u := asked (saves super none') 256
     S (saves super none') ∧ FindsRecord (saves super none') superCtx .store 0x20 none' (paged (saves super none') .store 256) [(0, 256)] ∧
      u.recordLen (u.contextTeams 319 2) ≤ field none' 0x20 8 ∧
      ¬(superCtx.core = field none' 8 4 ∧ superCtx.w.tag = field none' 4 4) ∧ ∀ p ∈ u.contextTeams 319 2, u.wavesOf p.1 = []) ∧
    (let s := saves (withOther super) other
     let u := asked s 7424
     S s ∧ FindsRecord s superCtx .store 0x20 other (paged s .store 7424) [(0, 7424)] ∧ u.recordLen (u.contextTeams 5 2) ≤ field other 0x20 8 ∧
      (∃ p ∈ u.contextTeams 5 2, u.wavesOf p.1 ≠ []) ∧ u.kittyOn = false) ∧
    (let s := saves (kittyAt (withOther super)) other
     let u := asked s 7424
     S s ∧ FindsRecord s superCtx .store 0x20 other (paged s .store 7424) [(0, 7424)] ∧ u.recordLen (u.contextTeams 5 2) ≤ field other 0x20 8 ∧
      (∃ p ∈ u.contextTeams 5 2, u.wavesOf p.1 ≠ []) ∧
      ((u.core 5).hand.countP (fun t => (u.contextTeams 5 2).any fun p => p.1 == t.parent) ≤ u.kittyRoom ∧ u.kittyOn = true) ∧
      (∀ p ∈ u.coreWaves 5, p.2.tag = 2 → p.2.hnd.isSome = true → p.2.frozen = true) ∧
      (∀ p ∈ u.waves, p.1 ≠ superCtx.key → ∀ e ∈ p.2.ex.splits, e.2.ask = none) ∧
      (let ws := (u.contextTeams 5 2).flatMap fun p => u.wavesOf p.1
       let v := ws.foldl (fun (s : State) p => s.drainWave p.1) u
       ∀ p ∈ (v.contextTeams 5 2).flatMap fun p => v.wavesOf p.1, v.waitsFor p.1 = none)) := by
  refine ⟨?_, ?_, ?_, ?_⟩
  · exact ⟨issues_of rfl (by decide +kernel), finds (by decide +kernel) (by decide +kernel) (by decide +kernel) (by decide +kernel) (by decide +kernel) (by decide +kernel),
      by decide +kernel, by decide +kernel, by decide +kernel⟩
  · exact ⟨issues_of rfl (by decide +kernel), finds (by decide +kernel) (by decide +kernel) (by decide +kernel) (by decide +kernel) (by decide +kernel) (by decide +kernel),
      by decide +kernel, by decide +kernel, by decide +kernel⟩
  · exact ⟨issues_of rfl (by decide +kernel), finds (by decide +kernel) (by decide +kernel) (by decide +kernel) (by decide +kernel) (by decide +kernel) (by decide +kernel),
      by decide +kernel, by decide +kernel, by decide +kernel⟩
  · exact ⟨issues_of rfl (by decide +kernel), finds (by decide +kernel) (by decide +kernel) (by decide +kernel) (by decide +kernel) (by decide +kernel) (by decide +kernel),
      by decide +kernel, by decide +kernel, by decide +kernel, by decide +kernel, by decide +kernel, by decide +kernel⟩

theorem fullRecord_length : fullRecord.length = 7424 := by decide +kernel

/-- What the home holds of a record that DRAM lists. -/
theorem record_bytes {s : State} (hl : s.l2d = []) (hd : s.dram = listed 0 fullRecord) : s.homeBytes (pieceKeys [(0, 7424)]) = fullRecord := by
  have h := homeBytes_listed hl hd (by rw [fullRecord_length]; decide)
  rw [fullRecord_length] at h
  simpa [pieceKeys] using h

theorem saves_dram (s : State) (h : List W8) : (saves s h).dram = listed 0 h := rfl
theorem saves_l2d (s : State) (h : List W8) : (saves s h).l2d = s.l2d := rfl

theorem record_read {s : State} (hw : ((saves s fullRecord).core 0).wcb = []) (hl : s.l2d = []) (kind : Kind) (n : Nat) :
    (paged (saves s fullRecord) kind n).homeBytes (pieceKeys [(0, 7424)]) = fullRecord :=
  record_bytes ((paged_memory hw kind n).2.trans ((saves_l2d s fullRecord).trans hl)) ((paged_memory hw kind n).1.trans (saves_dram s fullRecord))

/-- A device whose core 5 is full. -/
def crowded : State := { super with waves := super.waves ++ (List.range 32).map fun i => (wkey 5 i, { otherWave with lregs := 8 }) }

/-- A record that does not parse, one for a core that is full, and one of one team with one wave that is restored. -/
theorem test_witness_ContextSaveAndLoad :
    let L := fun s => Issues (.ctxload noOps) s superCtx
    let h := recHeader 5 2 1 1 7424 0
    let bad := recHeader 5 2 1 1 512 0
    (L (saves super bad) ∧ FindsRecord (saves super bad) superCtx .load 0x18 bad (paged (saves super bad) .load 512) [(0, 512)] ∧
      parseRecord ((paged (saves super bad) .load 512).homeBytes (pieceKeys [(0, 512)])) 0 = none) ∧
    (let u := paged (saves crowded fullRecord) .load 7424
     L (saves crowded fullRecord) ∧ FindsRecord (saves crowded fullRecord) superCtx .load 0x18 h u [(0, 7424)] ∧
      ∃ rs, parseRecord (u.homeBytes (pieceKeys [(0, 7424)])) u.cc = some rs ∧ (u.freeOf 5).holds (recordNeed rs) = false) ∧
    (let u := paged (saves super fullRecord) .load 7424
     L (saves super fullRecord) ∧ FindsRecord (saves super fullRecord) superCtx .load 0x18 h u [(0, 7424)] ∧
      ∃ r w, parseRecord (u.homeBytes (pieceKeys [(0, 7424)])) u.cc = some [r] ∧ (u.freeOf 5).holds (recordNeed [r]) = true ∧ r.waves = [w] ∧ superCtx.key / 64 ≠ 5) := by
  have hp : ∃ r w, parseRecord fullRecord 0 = some [r] ∧ r.waves = [w] ∧ recordNeed [r] = ⟨1, 8, 0, 1⟩ := by
    have : (match parseRecord fullRecord 0 with | some [r] => r.waves.length == 1 && recordNeed [r] == ⟨1, 8, 0, 1⟩ | _ => false) = true := by decide +kernel
    split at this
    · rename_i r hr
      rw [Bool.and_eq_true, beq_iff_eq, beq_iff_eq] at this
      obtain ⟨w, hw⟩ := List.length_eq_one_iff.mp this.1
      exact ⟨r, w, hr, hw, this.2⟩
    · cases this
  obtain ⟨r, w, hr, hw, hn⟩ := hp
  refine ⟨?_, ?_, ?_⟩
  · exact ⟨issues_of rfl (by decide +kernel), finds (by decide +kernel) (by decide +kernel) (by decide +kernel) (by decide +kernel) (by decide +kernel) (by decide +kernel),
      by decide +kernel⟩
  · refine ⟨issues_of rfl (by decide +kernel), finds (by decide +kernel) (by decide +kernel) (by decide +kernel) (by decide +kernel) (by decide +kernel) (by decide +kernel),
      [r], ?_, ?_⟩
    · rw [record_read (by decide +kernel) rfl, show (paged (saves crowded fullRecord) .load 7424).cc = 0 by decide +kernel]; exact hr
    · rw [hn]; decide +kernel
  · refine ⟨issues_of rfl (by decide +kernel), finds (by decide +kernel) (by decide +kernel) (by decide +kernel) (by decide +kernel) (by decide +kernel) (by decide +kernel),
      r, w, ?_, ?_, hw, by decide⟩
    · rw [record_read (by decide +kernel) rfl, show (paged (saves super fullRecord) .load 7424).cc = 0 by decide +kernel]; exact hr
    · rw [hn]; decide +kernel

/-! ### Witnesses: rendezvous, matrix and accumulator forms -/

/-- `MeetsAlone` as a test. -/
def meetsB (i : Instr) (x : Ctx) (m : W32) : Bool :=
  arrivesB i x && decide (m = metMask x i ∧ m ≠ 0 ∧ m &&& ~~~x.sp.mask = 0 ∧ (∀ r ∈ x.w.ex.rdv, r.pc ≠ x.sp.pc) ∧ x.w.ex.rdv.length < 8) &&
    (match Forms.spec i with | some (p, _) => !(grp x m).eccBad p && (grp x m).clean p | none => false)

theorem meets_of {i : Instr} {s : State} {x : Ctx} {m : W32} (hx : ctxOf i s = some x) (h : meetsB i x m = true) : MeetsAlone i s x m := by
  unfold meetsB at h
  rw [Bool.and_eq_true, Bool.and_eq_true, decide_eq_true_eq] at h
  obtain ⟨⟨h1, h2, h3, h4, h5, h6⟩, h7⟩ := h
  split at h7
  · rename_i p f hp
    rw [Bool.and_eq_true, Bool.not_eq_true'] at h7
    exact ⟨arrives_of hx h1, h2, h3, h4, h5, h6, p, f, hp, h7.1, h7.2⟩
  · cases h7

theorem witness_meets {i : Instr} {s : State} {m : W32} {P : Ctx → Prop} [∀ x, Decidable (P x)]
    (h : ((ctxOf i s).any fun x => meetsB i x m && decide (P x)) = true) : ∃ x, MeetsAlone i s x m ∧ P x := by
  cases hx : ctxOf i s with
  | none => rw [hx] at h; cases h
  | some x =>
    rw [hx, Option.any_some, Bool.and_eq_true, decide_eq_true_eq] at h
    exact ⟨x, meets_of hx h.1, h.2⟩

def joinForm : Instr := .join (plain ⟨.none, 0⟩ ⟨.k, 1⟩ ⟨.s, 0⟩ 0)
/-- A diverged wave, lanes 0 to 15 at 0, with a mask k1 and some records. -/
def meeting (k1 : W32) (rs : List Rdv) : State := one { tWave with k := [(0, 0xFFFFFFFF), (1, k1)], ex := { apart with rdv := rs } } tTeam

/-- An empty mask; a mask that overlaps a record; a ninth record; an arrival that begins a record, and one that joins it. -/
theorem test_witness_RendezvousArrival :
    meets joinForm ∧
    (∃ x, Arrives joinForm (meeting 0 []) x ∧ metMask x joinForm = 0 ∧ fragFits x joinForm) ∧
    (∃ x, Arrives joinForm (meeting 3 [⟨0, 6, 4⟩]) x ∧ metMask x joinForm ≠ 0 ∧ (∀ r ∈ x.w.ex.rdv.filter (fun r => r.pc == x.sp.pc), r.mask ≠ metMask x joinForm) ∧
      ∃ r ∈ x.w.ex.rdv.filter (fun r => r.pc == x.sp.pc), r.mask &&& metMask x joinForm ≠ 0) ∧
    (∃ x, Arrives joinForm (meeting 1 ((List.range 8).map fun i => ⟨BitVec.ofNat 64 (8 * i), 0x10000, 0x10000⟩)) x ∧ metMask x joinForm ≠ 0 ∧
      (∀ r ∈ x.w.ex.rdv.filter (fun r => r.pc == x.sp.pc), r.mask &&& metMask x joinForm = 0) ∧ 8 ≤ x.w.ex.rdv.length) ∧
    (∃ x, Arrives joinForm (meeting 0x10001 []) x ∧ metMask x joinForm ≠ 0 ∧ x.w.ex.rdv.length < 8 ∧ 0 ||| (x.sp.mask &&& metMask x joinForm) ≠ metMask x joinForm) ∧
    ∃ x, Arrives joinForm (meeting 0x70001 [⟨0, 0x70001, 0x10000⟩]) x ∧ (∃ r ∈ x.w.ex.rdv.filter (fun r => r.pc == x.sp.pc), r.mask = metMask x joinForm) ∧
      0x10000 ||| (x.sp.mask &&& metMask x joinForm) ≠ metMask x joinForm := by
  refine ⟨⟨_, .bf16, .and, .inl rfl⟩, ?_, ?_, ?_, ?_, ?_⟩
  · obtain ⟨x, h, h1⟩ := witness_arrives (i := joinForm) (s := meeting 0 []) (P := fun x => metMask x joinForm = 0) (by decide +kernel)
    exact ⟨x, h, h1, trivial⟩
  all_goals exact witness_arrives (by decide +kernel)

/-- A wave whose lanes 16 to 31 all wait at a form at 0 while lanes 0 to 15 run on, the state that holds the form's word in the instruction cache, and the split that stands for the lanes. -/
def waitingWave : Wave := { tWave with k := [(0, 0xFFFFFFFF), (1, 0xFFFF0000)]
                                       ex := { apart with splits := [(0, { pc := 64, mask := 0xFFFF })], rdv := [⟨0, 0xFFFF0000, 0xFFFF0000⟩] } }
def found (w : Wave) (i : Instr) : State :=
  let word := ((encode i).map Prod.fst).getD 0
  { withBytes (one w tTeam) 0 (toBytes 8 word.toNat) with cores := [(0, { tlb := [page0], icache := [(0, word)] })] }
def foundCtx (w : Wave) (f : F) : Ctx := ⟨0, 0, 0, w, ⟨0, 0xFFFF0000, 0, .none, none, 0, none⟩, f, some tTeam, 0⟩

theorem full_of {w : Wave} {i : Instr} {f : F}
    (h : w.halted = false ∧ w.team = 1 ∧ f.g = 0 ∧ f.gn = false ∧
      w.ex.rdv.find? (fun q => q.pc == 0 && q.waiting == q.mask) = some ⟨0, 0xFFFF0000, 0xFFFF0000⟩) : FullRecord (found w i) (foundCtx w f) f := by
  refine ⟨rfl, h.1, by show (0 : Nat) < 64; decide, ?_, rfl, rfl, rfl, ?_, h.2.2.2.2⟩
  · show some tTeam = FMap.fetch [(1, tTeam)] w.team
    rw [h.2.1]
    rfl
  · show f = _
    rw [← h.2.2.1, ← h.2.2.2.1]

theorem fetched_of {w : Wave} {i : Instr} {j : Got} (h1 : ((found w i).fetchInstr 0 w 0).1 = found w i) (h2 : ((found w i).fetchInstr 0 w 0).2 = j) :
    (found w i).fetchInstr 0 w 0 = (found w i, j) := Prod.ext h1 h2

theorem found_of {w : Wave} {i : Instr} {p : Forms.Spec} {f : F} (hp : Forms.spec i = some (p, f))
    (h : w.halted = false ∧ w.team = 1 ∧ f.g = 0 ∧ f.gn = false ∧ w.ex.rdv.find? (fun q => q.pc == 0 && q.waiting == q.mask) = some ⟨0, 0xFFFF0000, 0xFFFF0000⟩)
    (h1 : ((found w i).fetchInstr 0 w 0).1 = found w i) (h2 : ((found w i).fetchInstr 0 w 0).2 = .instr i) (hf : fragFits (foundCtx w f) i)
    (hc : Forms.check p (Forms.isBr i) f = none ∧ (foundCtx w f).outOfBlock p = false ∧ ((foundCtx w f).conv = true ∨ (f.d.file ≠ .s ∧ f.d.file ≠ .a)) ∧
      (foundCtx w f).eccBad p = false ∧ (foundCtx w f).clean p = true) : FindsForm i (found w i) (foundCtx w f) :=
  ⟨fetched_of h1 h2, hf, p, f, full_of h, hp, hc.1, hc.2.1, hc.2.2.1, hc.2.2.2.1, hc.2.2.2.2⟩

theorem test_witness_RendezvousAndJoin :
    (∃ x, MeetsAlone joinForm (meeting 0xFFFF []) x 0xFFFF ∧ x.f.a.num = 1) ∧
    (∃ x, MeetsAlone (.join (plain ⟨.none, 0⟩ ⟨.k, 0⟩ ⟨.s, 0⟩ 0)) lone x 0xFFFFFFFF ∧ x.f.a.num = 0) ∧
    ∃ x, FindsForm joinForm (found waitingWave joinForm) x := by
  refine ⟨witness_meets (by decide +kernel), witness_meets (by decide +kernel), foundCtx waitingWave (plain ⟨.none, 0⟩ ⟨.k, 1⟩ ⟨.s, 0⟩ 0), ?_⟩
  exact found_of (f := plain ⟨.none, 0⟩ ⟨.k, 1⟩ ⟨.s, 0⟩ 0) rfl (by decide +kernel) (by decide +kernel) (by decide +kernel) trivial (by decide +kernel)

/-- A record that finds a form that shuffles, one that multiplies, a word that is no rendezvous form, a fault of the fetch, and a bad source. -/
theorem test_witness_FoundForms :
    let up : F := plain ⟨.v, 2⟩ ⟨.v, 1⟩ ⟨.imm, 1⟩ 1
    let hurt : Wave := { waitingWave with vpois := [(1, true)] }
    (∃ x, FindsForm (.shflUp up) (found waitingWave (.shflUp up)) x) ∧
    (∃ x, FindsForm (.mma .bf16 (plain ⟨.acc, 2⟩ ⟨.v, 0⟩ ⟨.s, 4⟩ 0)) (found waitingWave (.mma .bf16 (plain ⟨.acc, 2⟩ ⟨.v, 0⟩ ⟨.s, 4⟩ 0))) x) ∧
    (∃ x f, FullRecord (found waitingWave (.nop noF)) x f ∧ (found waitingWave (.nop noF)).fetchInstr x.key x.w x.sp.pc = (found waitingWave (.nop noF), .instr (.nop noF)) ∧
      ¬meets (.nop noF)) ∧
    (∃ x f fi, FullRecord (found { waitingWave with tag := 2 } joinForm) x f ∧
      ((found { waitingWave with tag := 2 } joinForm).fetchInstr x.key x.w x.sp.pc).2 = .fault fi) ∧
    ∃ x p, FullRecord (found hurt (.shflUp up)) x up ∧ (found hurt (.shflUp up)).fetchInstr x.key x.w x.sp.pc = (found hurt (.shflUp up), .instr (.shflUp up)) ∧
      meets (.shflUp up) ∧ Forms.spec (.shflUp up) = some (p, up) ∧ x.outOfBlock p = false ∧ (x.conv = true ∨ (up.d.file ≠ .s ∧ up.d.file ≠ .a)) ∧
      x.eccBad p = true ∧ x.clean p = true := by
  refine ⟨⟨_, found_of (f := plain ⟨.v, 2⟩ ⟨.v, 1⟩ ⟨.imm, 1⟩ 1) rfl (by decide +kernel) (by decide +kernel) (by decide +kernel) trivial (by decide +kernel)⟩,
    ⟨_, found_of (f := plain ⟨.acc, 2⟩ ⟨.v, 0⟩ ⟨.s, 4⟩ 0) rfl (by decide +kernel) (by decide +kernel) (by decide +kernel)
      (show (0 : Nat) + 15 < 2 ^ 8 by decide) (by decide +kernel)⟩,
    ⟨foundCtx waitingWave noF, noF, full_of (by decide +kernel), fetched_of (by decide +kernel) (by decide +kernel), ?_⟩,
    ⟨foundCtx { waitingWave with tag := 2 } noF, noF, { code := .prot, kind := .fetch }, full_of (by decide +kernel), by decide +kernel⟩,
    ⟨foundCtx { waitingWave with vpois := [(1, true)] } (plain ⟨.v, 2⟩ ⟨.v, 1⟩ ⟨.imm, 1⟩ 1), _, full_of (by decide +kernel),
      fetched_of (by decide +kernel) (by decide +kernel), ⟨plain ⟨.v, 2⟩ ⟨.v, 1⟩ ⟨.imm, 1⟩ 1, .bf16, .and, by simp⟩, rfl, by decide +kernel, by decide +kernel, by decide +kernel, by decide +kernel⟩⟩
  rintro ⟨f, t, op, h⟩
  simp at h

theorem test_witness_CrossLaneForms :
    (∃ x, MeetsAlone (.shflUp (plain ⟨.v, 2⟩ ⟨.v, 1⟩ ⟨.imm, 1⟩ 1)) (meeting 0xFF []) x 0xFF ∧ x.f.d.file = .v) ∧
    (∃ x, MeetsAlone (.voteAny (plain ⟨.k, 2⟩ ⟨.s, 1⟩ ⟨.s, 0⟩ 0)) lone x 0xFFFFFFFF ∧ x.f.d.file = .k) ∧
    (∃ x, MeetsAlone (.ballot (plain ⟨.s, 2⟩ ⟨.k, 1⟩ ⟨.s, 0⟩ 0)) lone x 0xFFFFFFFF ∧ x.f.d.file = .s) ∧
    (∃ x, MeetsAlone (.ballot (plain ⟨.v, 2⟩ ⟨.v, 1⟩ ⟨.s, 0⟩ 1)) (meeting 1 []) x 1 ∧ x.f.d.file = .v) ∧
    (∃ x, MeetsAlone (.red .addI64 (plain ⟨.v, 2⟩ ⟨.v, 4⟩ ⟨.s, 0⟩ 0)) lone x 0xFFFFFFFF ∧ x.f.d.file = .v) ∧
    (∃ x, MeetsAlone (.red .minF32 (plain ⟨.s, 2⟩ ⟨.v, 4⟩ ⟨.s, 0⟩ 0)) lone x 0xFFFFFFFF ∧ x.f.d.file = .s) ∧
    (∃ x, MeetsAlone (.scan .xor (plain ⟨.v, 2⟩ ⟨.v, 4⟩ ⟨.s, 0⟩ 0)) lone x 0xFFFFFFFF ∧ x.f.d.file = .v) ∧
    ∃ x, MeetsAlone (.scanX .addF32 (plain ⟨.v, 2⟩ ⟨.v, 4⟩ ⟨.s, 0⟩ 1)) (meeting 0xF0 []) x 0xF0 ∧ x.f.d.file = .v := by
  refine ⟨?_, ?_, ?_, ?_, ?_, ?_, ?_, ?_⟩ <;> exact witness_meets (by decide +kernel)

def mmaForm (t : MmaFmt) (n : Nat) : Instr := .mma t (plain ⟨.acc, 2⟩ ⟨.v, BitVec.ofNat 8 n⟩ ⟨.s, 4⟩ 0)
def tileWave : Wave := { tWave with s := [(4, 0x0100000000000080)] }

def ownedBy : State := { one tileWave tTeam with cores := [(0, { tlb := [page0], accown := 0x090000 })] }
def tiled : State := one tileWave { tTeam with teammem := 2304 }

/-- A slot of another context, and a fragment at the last place of the block with a tile that fills the team's memory. -/
theorem test_witness_MatrixMultiply :
    (∃ x, MeetsAlone (mmaForm .bf16 0) ownedBy x 0xFFFFFFFF ∧ fragFits x (mmaForm .bf16 0) ∧ x.tm = some tTeam ∧ x.conv = true ∧ ¬mayUse ownedBy x x.f.d.num.toNat) ∧
    ∃ x, MeetsAlone (mmaForm .mxf4 239) tiled x 0xFFFFFFFF ∧ fragFits x (mmaForm .mxf4 239) ∧ x.tm = some { tTeam with teammem := 2304 } ∧ mayUse tiled x x.f.d.num.toNat ∧
      (∀ q ≤ mmaLast .mxf4, x.w.vpois.fetch (x.f.a.num.toNat + q) = none) ∧ x.w.spois.fetch x.f.b.num.toNat = none ∧
      (∀ i < 32, (tiled.core x.core).accpois.fetch (32 * 2 + i) = none) ∧ (x.w.sreg x.f.b.num.toNat).toNat % 128 = 0 ∧
      (x.w.sreg x.f.b.num.toNat).toNat = 0x0100000000000000 + 128 ∧ 128 + 2176 ≤ 2304 := by
  refine ⟨?_, ?_⟩
  · obtain ⟨x, h, h1⟩ := witness_meets (i := mmaForm .bf16 0) (s := ownedBy) (m := 0xFFFFFFFF)
      (P := fun x => x.f.a.num.toNat + 15 < 2 ^ x.w.lregs ∧ x.tm = some tTeam ∧ x.conv = true ∧
        ¬(x.w.supervisor = true ∨ ownerOf (ownedBy.core x.core) x.f.d.num.toNat = 0 ∨ ownerOf (ownedBy.core x.core) x.f.d.num.toNat = x.w.tag)) (by decide +kernel)
    exact ⟨x, h, h1⟩
  · obtain ⟨x, h, h1⟩ := witness_meets (i := mmaForm .mxf4 239) (s := tiled) (m := 0xFFFFFFFF)
      (P := fun x => x.f.a.num.toNat + 16 < 2 ^ x.w.lregs ∧ x.tm = some { tTeam with teammem := 2304 } ∧
        (x.w.supervisor = true ∨ ownerOf (tiled.core x.core) x.f.d.num.toNat = 0 ∨ ownerOf (tiled.core x.core) x.f.d.num.toNat = x.w.tag) ∧
        (∀ q ≤ mmaLast .mxf4, x.w.vpois.fetch (x.f.a.num.toNat + q) = none) ∧ x.w.spois.fetch x.f.b.num.toNat = none ∧
        (∀ i < 32, (tiled.core x.core).accpois.fetch (32 * 2 + i) = none) ∧ (x.w.sreg x.f.b.num.toNat).toNat % 128 = 0 ∧
        (x.w.sreg x.f.b.num.toNat).toNat = 0x0100000000000000 + 128 ∧ 128 + 2176 ≤ 2304) (by decide +kernel)
    exact ⟨x, h, h1⟩

/-- A cooperative group of 16 ranks on cores 0 to 15, of which some wait. -/
def cluForm : Instr := .mmaClu .bf16 (plain ⟨.acc, 0⟩ ⟨.v, 0⟩ ⟨.s, 4⟩ 0)
def cluCtx : Ctx := ⟨0, 0, 0, tileWave, ⟨0, 0xFFFFFFFF, 0, .none, none, 0, none⟩, plain ⟨.acc, 0⟩ ⟨.v, 0⟩ ⟨.s, 4⟩ 0, none, 0⟩
def rankTeam (r : Nat) (c : Option CluPart) : Team := { tTeam with core := r, rank := r, teamId := r, coop := true, groupSize := 16, clu := c }
def waitPart (t : MmaFmt) : CluPart := ⟨0, 0, t, [], []⟩
def cluster (waiting : Nat → Option MmaFmt) : State :=
  { one tileWave tTeam with teams := (List.range 16).map fun r => (r + 1, rankTeam r ((waiting r).map waitPart)) }
def minePart (s : State) : CluPart :=
  match ctxOf cluForm s with
  | some x => ⟨x.slot, x.sp.pc, .bf16, (List.range 32).map (rowA x .bf16), (List.range 32).map (colB (rankTeam 0 none) .bf16 128)⟩
  | none => ⟨0, 0, .bf16, [], []⟩

/-- The premises that every clause shares. -/
def CluReady (s : State) (x : Ctx) (tm : Team) : Prop :=
  MeetsAlone cluForm s x 0xFFFFFFFF ∧ fragFits x cluForm ∧ x.tm = some tm ∧ x.sp.mask = 0xFFFFFFFF ∧ x.conv = true ∧ (∀ n < 8, mayUse s x n) ∧
  (∀ q ≤ mmaLast .bf16, x.w.vpois.fetch (x.f.a.num.toNat + q) = none) ∧ x.w.spois.fetch x.f.b.num.toNat = none ∧
  (∀ n < 8, ∀ i < 32, (s.core x.core).accpois.fetch (32 * n + i) = none) ∧ (x.w.sreg x.f.b.num.toNat).toNat % 128 = 0 ∧
  0x0100000000000000 ≤ (x.w.sreg x.f.b.num.toNat).toNat ∧ (x.w.sreg x.f.b.num.toNat).toNat - 0x0100000000000000 + 2048 ≤ tm.teammem ∧ tm.teammem ≤ 2 ^ 19 ∧ x.slot < 64

def cluB (s : State) (tm : Team) (x : Ctx) : Bool := meetsB cluForm x 0xFFFFFFFF && decide (x.f.a.num.toNat + 15 < 2 ^ x.w.lregs) && decide (x.tm = some tm) &&
  x.sp.mask == 0xFFFFFFFF && x.conv && (List.range 8).all (fun n => x.w.supervisor || ownerOf (s.core x.core) n == 0 || ownerOf (s.core x.core) n == x.w.tag) &&
  decide (∀ q ≤ mmaLast .bf16, x.w.vpois.fetch (x.f.a.num.toNat + q) = none) && decide (x.w.spois.fetch x.f.b.num.toNat = none) &&
  (List.range 8).all (fun n => (List.range 32).all fun i => (s.core x.core).accpois.fetch (32 * n + i) == none) && decide ((x.w.sreg x.f.b.num.toNat).toNat % 128 = 0) &&
  decide (0x0100000000000000 ≤ (x.w.sreg x.f.b.num.toNat).toNat) &&
  decide ((x.w.sreg x.f.b.num.toNat).toNat - 0x0100000000000000 + 2048 ≤ tm.teammem) && decide (tm.teammem ≤ 2 ^ 19) && decide (x.slot < 64)

theorem clu_ready {s : State} {tm : Team} {P : Ctx → Prop} [∀ x, Decidable (P x)]
    (h : ((ctxOf cluForm s).any fun x => cluB s tm x && decide (P x)) = true) : ∃ x, CluReady s x tm ∧ P x := by
  cases hx : ctxOf cluForm s with
  | none => rw [hx] at h; cases h
  | some x =>
    rw [hx, Option.any_some, Bool.and_eq_true, decide_eq_true_eq] at h
    obtain ⟨h1, h2⟩ := h
    simp only [cluB, Bool.and_eq_true, decide_eq_true_eq, beq_iff_eq, List.all_eq_true, List.mem_range, Bool.or_eq_true, or_assoc] at h1
    obtain ⟨⟨⟨⟨⟨⟨⟨⟨⟨⟨⟨⟨⟨a1, a2⟩, a3⟩, a4⟩, a5⟩, a6⟩, a7⟩, a8⟩, a9⟩, a10⟩, a11⟩, a12⟩, a13⟩, a14⟩ := h1
    exact ⟨x, ⟨meets_of hx a1, a2, a3, a4, a5, a6, a7, a8, a9, a10, a11, a12, a13, a14⟩, h2⟩

/-- A team outside such a group, a rank that is not the last, and the last rank, with parts of one format and of two. -/
theorem test_witness_CooperativeMultiply :
    (∃ x, CluReady (one tileWave tTeam) x tTeam ∧ ¬(tTeam.coop = true ∧ tTeam.groupSize = 16)) ∧
    (∃ x, CluReady (cluster fun _ => none) x (rankTeam 0 none) ∧ (cluster fun _ => none).rankOf (rankTeam 0 none) 0 = some (x.w.team, rankTeam 0 none) ∧
      ∃ r < 16, ∀ q, (cluster fun _ => none).rankOf (rankTeam 0 none) r = some q → q.1 ≠ x.w.team ∧ q.2.clu = none) ∧
    ∀ t : MmaFmt, (t = .bf16 ∨ t = .f16) → let s := cluster fun r => if r = 0 then none else some t
      ∃ x, CluReady s x (rankTeam 0 none) ∧ ∃ (R : Nat → Nat × Team) (P : Nat → CluPart), (∀ r < 16, s.rankOf (rankTeam 0 none) r = some (R r) ∧ s.teams.fetch (R r).1 = some (R r).2) ∧
        R 0 = (x.w.team, rankTeam 0 none) ∧ (∀ r < 16, r ≠ 0 → (R r).2.clu = some (P r) ∧ (R r).2.clucnt = 0) ∧
        (∀ r < 16, ∀ w, s.waves.fetch (wkey (R r).2.core (P r).slot) = some w → slotsFree s (R r).2.core w) ∧
        (∀ r < 16, ∀ q < 16, (R r).2.core = (R q).2.core → r = q) ∧ (∀ r < 16, ∀ q < 16, (R r).1 = (R q).1 → r = q) ∧
        (rankTeam 0 none).core = x.core ∧ P 0 = ⟨x.slot, x.sp.pc, .bf16, (List.range 32).map (rowA x .bf16), (List.range 32).map (colB (rankTeam 0 none) .bf16 128)⟩ ∧
        (∀ r < 16, r ≠ 0 → (P r).fmt = t) := by
  refine ⟨clu_ready (by decide +kernel), ?_, ?_⟩
  · obtain ⟨x, h, h1⟩ := clu_ready (s := cluster fun _ => none) (tm := rankTeam 0 none) (P := fun x => x.w.team = 1) (by decide +kernel)
    refine ⟨x, h, by rw [h1]; decide +kernel, 15, by decide, fun q hq => ?_⟩
    have h15 : (cluster fun _ => none).rankOf (rankTeam 0 none) 15 = some (16, rankTeam 15 none) := by decide +kernel
    rw [h15] at hq
    cases hq
    exact ⟨by rw [h1]; decide, rfl⟩
  · intro t ht
    have hx : ∃ x, CluReady (cluster fun r => if r = 0 then none else some t) x (rankTeam 0 none) ∧ x.w.team = 1 ∧ x.core = 0 := by
      rcases ht with rfl | rfl <;> exact clu_ready (P := fun x => x.w.team = 1 ∧ x.core = 0) (by decide +kernel)
    obtain ⟨x, h, h1, h2⟩ := hx
    refine ⟨x, h, fun r => (r + 1, rankTeam r (if r = 0 then none else some (waitPart t))),
      fun r => if r = 0 then ⟨x.slot, x.sp.pc, .bf16, (List.range 32).map (rowA x .bf16), (List.range 32).map (colB (rankTeam 0 none) .bf16 128)⟩ else waitPart t,
      ?_, ?_, ?_, ?_, fun r _ q _ hc => hc, fun r _ q _ hc => by simpa using hc, ?_, if_pos rfl, ?_⟩
    · intro r hr
      have : ∀ r < 16, (cluster fun r => if r = 0 then none else some t).rankOf (rankTeam 0 none) r = some (r + 1, rankTeam r (if r = 0 then none else some (waitPart t))) ∧
          (cluster fun r => if r = 0 then none else some t).teams.fetch (r + 1) = some (rankTeam r (if r = 0 then none else some (waitPart t))) := by
        rcases ht with rfl | rfl <;> decide +kernel
      exact this r hr
    · rw [h1]; rfl
    · intro r _ h0; simp only [if_neg h0]; exact ⟨rfl, rfl⟩
    · intro r hr w hw
      refine .inr fun n hn => .inl ?_
      have : ∀ r < 16, ((cluster fun r => if r = 0 then none else some t).core r).accown = 0 := by
        rcases ht with rfl | rfl <;> decide +kernel
      have := this r hr
      unfold ownerOf
      show BitVec.toNat (BitVec.extractLsb' (8 * n) 8 ((cluster fun r => if r = 0 then none else some t).core r).accown) = 0
      rw [this]
      simp
    · rw [h2]; rfl
    · intro r _ h0; simp only [if_neg h0]; rfl

/-- A slot of another context, a free slot, the last line of team memory, and the global space. -/
theorem test_witness_AccumulatorForms :
    (∃ x, Arrives (.acczero (plain ⟨.acc, 7⟩ ⟨.s, 0⟩ ⟨.s, 0⟩ 0)) { lone with cores := [(0, { accown := 0x0900000000000000 })] } x ∧ x.w.supervisor = false ∧
      ownerOf ({ accown := 0x0900000000000000 } : Core) x.f.d.num.toNat ≠ 0 ∧ ownerOf ({ accown := 0x0900000000000000 } : Core) x.f.d.num.toNat ≠ x.w.tag) ∧
    (∃ x, Arrives (.accld (plain ⟨.acc, 7⟩ ⟨.s, 4⟩ ⟨.s, 0⟩ 0)) (sregs [(4, 0x0100000000001000)]) x ∧ ownerOf ((sregs [(4, 0x0100000000001000)]).core x.core) x.f.d.num.toNat = 0 ∧
      FMap.at' false x.w.spois x.f.a.num.toNat = false ∧ x.tm = some tTeam ∧ (x.w.sreg x.f.a.num.toNat).toNat = 0x0100000000000000 + 4096 ∧ 4096 % 128 = 0 ∧ 4096 + 4096 ≤ tTeam.teammem) ∧
    (∃ x, Arrives (.accst (plain ⟨.none, 0⟩ ⟨.acc, 0⟩ ⟨.s, 4⟩ 0)) (sregs [(4, 0x0100000000000000)]) x ∧
      (∀ i < 32, FMap.at' false ((sregs [(4, 0x0100000000000000)]).core x.core).accpois (32 * x.f.a.num.toNat + i) = false) ∧ x.tm = some tTeam ∧
      (x.w.sreg x.f.b.num.toNat).toNat = 0x0100000000000000 + 0 ∧ ∀ w ∈ tTeam.windows, w.1 + 128 ≤ 0 ∨ 0 + 4096 ≤ w.1) ∧
    (∃ x, Arrives (.accld (plain ⟨.acc, 7⟩ ⟨.s, 4⟩ ⟨.s, 0⟩ 0)) (sregs [(4, 0x2000)]) x ∧ (x.w.sreg x.f.a.num.toNat).toNat % 128 = 0 ∧
      ∃ r, r = (sregs [(4, 0x2000)]).waveKeys x .load 0x2000 4096 ∧ (match r.2 with | .keys ks => ks.length == 4096 | _ => false) = true) ∧
    ∃ x, Arrives (.accst (plain ⟨.none, 0⟩ ⟨.acc, 0⟩ ⟨.s, 4⟩ 0)) (sregs [(4, 0x2000)]) x ∧ (x.w.sreg x.f.b.num.toNat).toNat + 4096 ≤ 0x0100000000000000 ∧
      ∃ r, r = (sregs [(4, 0x2000)]).waveKeys x .store 0x2000 4096 ∧ (match r.2 with | .keys ks => ks.length == 4096 | _ => false) = true := by
  refine ⟨witness_arrives (by decide +kernel), witness_arrives (by decide +kernel), witness_arrives (by decide +kernel), ?_, ?_⟩
  · obtain ⟨x, h, h1, h2⟩ := witness_arrives (i := .accld (plain ⟨.acc, 7⟩ ⟨.s, 4⟩ ⟨.s, 0⟩ 0)) (s := sregs [(4, 0x2000)])
      (P := fun x => (x.w.sreg x.f.a.num.toNat).toNat % 128 = 0 ∧ (match ((sregs [(4, 0x2000)]).waveKeys x .load 0x2000 4096).2 with | .keys ks => ks.length == 4096 | _ => false) = true) (by decide +kernel)
    exact ⟨x, h, h1, _, rfl, h2⟩
  · obtain ⟨x, h, h1, h2⟩ := witness_arrives (i := .accst (plain ⟨.none, 0⟩ ⟨.acc, 0⟩ ⟨.s, 4⟩ 0)) (s := sregs [(4, 0x2000)])
      (P := fun x => (x.w.sreg x.f.b.num.toNat).toNat + 4096 ≤ 0x0100000000000000 ∧ (match ((sregs [(4, 0x2000)]).waveKeys x .store 0x2000 4096).2 with | .keys ks => ks.length == 4096 | _ => false) = true)
      (by decide +kernel)
    exact ⟨x, h, h1, _, rfl, h2⟩


/-- The same record in an idle cc of a throttled core (R468). -/
theorem test_witness_MatrixMultiply_idle :
    let f := plain ⟨.acc, 2⟩ ⟨.v, 0⟩ ⟨.s, 4⟩ 0
    let s : State := { found waitingWave (.mma .bf16 f) with dies := [(0, { stlb := [page0], thr := 8 })] }
    ∃ x, FindsForm (.mma .bf16 f) s x ∧ s.coreRuns x.core = false := by
  intro f s
  have hf : FullRecord (found waitingWave (.mma .bf16 f)) (foundCtx waitingWave f) f := full_of (by decide +kernel)
  refine ⟨foundCtx waitingWave f, ⟨Prod.ext (by decide +kernel) (by decide +kernel), show (0 : Nat) + 15 < 2 ^ 8 by decide, _, f, hf, rfl, ?_⟩, by decide +kernel⟩
  decide +kernel

/-! ### Witnesses: loads, stores, atomics -/

theorem witness_test {i : Instr} {s : State} {P : Ctx → Prop} (p : Ctx → Bool) (hp : ∀ x, p x = true → P x)
    (h : ((ctxOf i s).any fun x => issuesB i x && p x) = true) : ∃ x, Issues i s x ∧ P x := by
  cases hx : ctxOf i s with
  | none => rw [hx] at h; cases h
  | some x =>
    rw [hx, Option.any_some, Bool.and_eq_true] at h
    exact ⟨x, issues_of hx h.1, hp x h.2⟩

theorem some_issue {i : Instr} {s : State} (h : ((ctxOf i s).any (issuesB i)) = true) : ∃ x, Issues i s x := by
  obtain ⟨x, hx, -⟩ := witness (i := i) (s := s) (P := fun _ => True) (by simpa using h)
  exact ⟨x, hx⟩

/-- `LaneRun` as a computation. -/
def laneGo (x : Ctx) (op : State → Nat → Lane) (put : State → Nat → Nat → State) : List Nat → State → Option State
  | [], s => some s
  | l :: ls, s =>
    match op s l with
    | .done u v => laneGo x op put ls (if x.single then put u l v else (put u l v).updWave x.key fun w => { w with fcm := w.fcm ||| laneBit l })
    | _ => none

theorem laneRun_of {x : Ctx} {op : State → Nat → Lane} {put : State → Nat → Nat → State} {ls : List Nat} {s : State}
    (h : (laneGo x op put ls s).isSome = true) : ∃ t, LaneRun x op put ls s t := by
  induction ls generalizing s with
  | nil => exact ⟨s, rfl⟩
  | cons l ls ih =>
    rw [laneGo] at h
    split at h
    · rename_i u v hop
      obtain ⟨t, ht⟩ := ih h
      exact ⟨t, u, v, hop, ht⟩
    · cases h

def tmBase : Nat := 0x0100000000000000
/-- The wave with s2 at team memory's byte 8188, its last word; v2.d at lane l's word 4 l; s3 = 7. -/
def atTeam : Wave :=
  { tWave with s := [(2, 0x0100000000001FFC), (3, 7)]
               v := ((List.range 32).map fun l => (64 + l, BitVec.ofNat 32 (4 * l))) ++ (List.range 32).map fun l => (96 + l, 0x01000000#32) }
def teamState (w : Wave) : State := one w tTeam

def ldV : F := plain ⟨.v, 4⟩ ⟨.v, 2⟩ ⟨.s, 0⟩ 0
def ldS : F := plain ⟨.s, 4⟩ ⟨.s, 2⟩ ⟨.s, 0⟩ 0
def stV : F := plain ⟨.none, 0⟩ ⟨.v, 2⟩ ⟨.s, 3⟩ 0
def stRelV : F := ext { stV with g := 0 } 0 ⟨.s, 0⟩ 2 0

/-- A load and a store by lane in team memory, a store with release at scope 2 after nothing, misaligned and idle lanes. -/
theorem test_witness_LoadsAndStoresByLane :
    (∃ x, Issues (.ld .b32 .plain ldV) (teamState atTeam) x ∧ x.act ≠ 0 ∧ (teamState atTeam).accessFault x (ldAcc .b32 .plain ldV) = none ∧
      ∃ t, LaneRun x (fun s l => s.loadLane x (ldAcc .b32 .plain ldV) false (x.addr l)) (fun s l v => s.putResult x false l (sizeExt .b32 v)) (toDo x) (teamState atTeam) t) ∧
    (∃ x, Issues (.ld .b32 .acq (ext ldS 1 ⟨.s, 0⟩ 1 0)) (teamState atTeam) x ∧ x.act ≠ 0 ∧ (toDo x).filter (fun l => x.misaligned (ldAcc .b32 .acq (ext ldS 1 ⟨.s, 0⟩ 1 0)) (x.addr l)) ≠ []) ∧
    (∃ x, Issues (.ld .b32 .plain { ldV with g := 1 }) (teamState atTeam) x ∧ x.act = 0) ∧
    (∃ x, Issues (.st .b32 .rel stRelV) (teamState atTeam) x ∧ x.act ≠ 0 ∧ (teamState atTeam).accessFault x (stAcc .b32 .rel stRelV) = none ∧
      (∀ l ∈ toDo x, rowOf (x.addr l) = .window → (teamState atTeam).ownerSaved x (x.addr l) = none) ∧ Released (teamState atTeam) x 2 .store ((teamState atTeam).relDrain 0 2) atTeam ∧
      ∃ t, LaneRun x (fun s l => s.storeLane x (stAcc .b32 .rel stRelV) 0 6 (x.addr l) (toBytes 4 (x.src true false x.f.b l).toNat) l) (fun s _ _ => s) (toDo x)
        (((teamState atTeam).relDrain 0 2).storeWindows x 4 (some (0, 6)) (fun l => toBytes 4 (x.src true false x.f.b l).toNat) (toDo x)) t) := by
  refine ⟨?_, witness (by decide +kernel), witness (by decide +kernel), ?_⟩
  · refine witness_test (fun x => x.act != 0 && decide ((teamState atTeam).accessFault x (ldAcc .b32 .plain ldV) = none) &&
      (laneGo x (fun s l => s.loadLane x (ldAcc .b32 .plain ldV) false (x.addr l)) (fun s l v => s.putResult x false l (sizeExt .b32 v)) (toDo x) (teamState atTeam)).isSome)
      (fun x h => ?_) (by decide +kernel)
    simp only [Bool.and_eq_true, bne_iff_ne, decide_eq_true_eq] at h
    exact ⟨h.1.1, h.1.2, laneRun_of h.2⟩
  · refine witness_test (fun x => x.act != 0 && decide ((teamState atTeam).accessFault x (stAcc .b32 .rel stRelV) = none) && (
      let v := (teamState atTeam).relDrain x.key 2
      x.key == 0 && (v.waves.fetch x.key == some atTeam) && (v.awaits x).isNone && !v.needsFlush x .store (toDo x)) && (toDo x).all (fun l => rowOf (x.addr l) != .window) &&
      (laneGo x (fun s l => s.storeLane x (stAcc .b32 .rel stRelV) 0 6 (x.addr l) (toBytes 4 (x.src true false x.f.b l).toNat) l) (fun s _ _ => s) (toDo x)
        (((teamState atTeam).relDrain 0 2).storeWindows x 4 (some (0, 6)) (fun l => toBytes 4 (x.src true false x.f.b l).toNat) (toDo x))).isSome)
      (fun x h => ?_) (by decide +kernel)
    simp only [Bool.and_eq_true, bne_iff_ne, decide_eq_true_eq, beq_iff_eq, Bool.not_eq_true', Option.isNone_iff_eq_none] at h
    obtain ⟨⟨⟨⟨h1, h2⟩, ⟨⟨h3, h4⟩, h5⟩, h6⟩, h8⟩, h7⟩ := h
    refine ⟨h1, h2, fun l hl hw => absurd hw (by simpa using List.all_eq_true.mp h8 l hl), ?_, laneRun_of h7⟩
    rw [Released, if_neg (by decide)]
    rw [h3] at h4 h5 h6 ⊢
    exact ⟨⟨atTeam, h4, rfl⟩, h5, by simp [h6], by simpa [h6] using h4⟩

def offs (x : Ctx) (l : Nat) : Nat := (x.addr l).toNat - tmBase
def inTeamB (x : Ctx) (tm : Team) (m : W32) (n : Nat) (plain : Bool) : Bool :=
  x.tm == some tm && decide (tm.teammem ≤ 2 ^ 19 ∧ ∀ l < 32, bit m l = true →
    (x.addr l).toNat = tmBase + offs x l ∧ offs x l + n ≤ tm.teammem ∧ (plain = true ∨ offs x l % n = 0))
theorem inTeam_of {x : Ctx} {tm : Team} {m : W32} {n : Nat} {p : Bool} (h : inTeamB x tm m n p = true) : InTeam x tm m n p (offs x) := by
  simp only [inTeamB, Bool.and_eq_true, beq_iff_eq, decide_eq_true_eq] at h
  exact ⟨h.1, h.2.1, h.2.2⟩

/-- The last word of team memory, and a byte load at any address; a store by lane; a release at scope 0. -/
theorem test_witness_TeamMemoryAccess :
    (∃ x, Issues (.ld .b32 .plain ldS) (teamState atTeam) x ∧ doneMask x ≠ 0 ∧ InTeam x tTeam (doneMask x) 4 true (offs x)) ∧
    (∃ x, Issues (.ld .u8 .acq (ext ldV 1 ⟨.s, 0⟩ 1 0)) (teamState atTeam) x ∧ doneMask x ≠ 0 ∧ InTeam x tTeam (doneMask x) 1 false (offs x)) ∧
    (∃ x, Issues (.st .b32 .plain stV) (teamState { atTeam with fcm := 1 }) x ∧ doneMask x = 0xFFFFFFFE ∧ InTeam x tTeam (doneMask x) 4 true (offs x)) ∧
    ∃ x, Issues (.st .b64 .rel (ext stV 0 ⟨.s, 0⟩ 0 0)) (teamState { atTeam with v := atTeam.v.map fun p => if p.1 < 96 then (p.1, p.2 * 2) else p }) x ∧
      doneMask x ≠ 0 ∧ InTeam x tTeam (doneMask x) 8 false (offs x) := by
  refine ⟨witness_test (fun x => doneMask x != 0 && inTeamB x tTeam (doneMask x) 4 true) (fun x h => ?_) (by decide +kernel),
    witness_test (fun x => doneMask x != 0 && inTeamB x tTeam (doneMask x) 1 false) (fun x h => ?_) (by decide +kernel),
    witness_test (fun x => doneMask x == 0xFFFFFFFE && inTeamB x tTeam (doneMask x) 4 true) (fun x h => ?_) (by decide +kernel),
    witness_test (fun x => doneMask x != 0 && inTeamB x tTeam (doneMask x) 8 false) (fun x h => ?_) (by decide +kernel)⟩ <;>
  · simp only [Bool.and_eq_true, bne_iff_ne, beq_iff_eq] at h
    exact ⟨h.1, inTeam_of h.2⟩

/-- A single access at the last word of the page that the TLB maps for one GiB, and at address 0. -/
def atGlobal : Wave := { tWave with s := [(1, 0x3FFFFFFC), (3, 7)] }
theorem test_witness_GlobalMemoryAccess :
    (∃ x, Issues (.ld .b32 .plain { ldS with a := ⟨.s, 1⟩ }) (teamState atGlobal) x ∧ x.single = true ∧ x.conv = true ∧ x.act ≠ 0 ∧
      (teamState atGlobal).translate x.die (some x.core) x.w.tag x.w.supervisor .load (x.addr 0) = ((teamState atGlobal), .ok 0x3FFFFFFC)) ∧
    (∃ x, Issues (.ld .b64 .plain { ldV with a := ⟨.s, 2⟩ }) (teamState atGlobal) x ∧ x.single = true ∧ x.conv = true ∧ x.act ≠ 0 ∧
      ((teamState atGlobal).translate x.die (some x.core) x.w.tag x.w.supervisor .load (x.addr 0)).2 = .ok 0) ∧
    (∃ x, Issues (.st .b32 .plain { stV with a := ⟨.s, 1⟩ }) (teamState atGlobal) x ∧ x.single = true ∧ x.conv = true ∧ x.act ≠ 0 ∧
      ((teamState atGlobal).translate x.die (some x.core) x.w.tag x.w.supervisor .store (x.addr 0)).2 = .ok 0x3FFFFFFC) ∧
    (∀ k ∈ [0, 7, 0x3FFFFFFC, 0x3FFFFFFF], (teamState atGlobal).poisoned (lineOf k) = false ∧ (teamState atGlobal).isReserved (lineOf k) = false) ∧
    ((teamState atGlobal).core 0).l1 = [] ∧ ((teamState atGlobal).core 0).wcb = [] :=
  ⟨witness (by decide +kernel), witness (by decide +kernel), witness (by decide +kernel), by decide +kernel, by decide +kernel, by decide +kernel⟩

/-- Atomics by lane in team memory; one at address 0x1000 of this device; one with no active lane; a release at scope 6. -/
theorem test_witness_AtomicForms :
    let add := plain ⟨.s, 1⟩ ⟨.v, 2⟩ ⟨.s, 3⟩ 0
    let vadd : F := { add with d := ⟨.v, 8⟩ }
    let here := teamState { atTeam with s := [(2, 0x1000), (3, 7)] }
    let rel := ext (plain ⟨.none, 0⟩ ⟨.v, 2⟩ ⟨.s, 3⟩ 0) 0 ⟨.s, 0⟩ 6 0
    (∃ x, Issues (.atomAdd .u32 .plain vadd) (teamState atTeam) x ∧ doneMask x ≠ 0 ∧ InTeam x tTeam (doneMask x) 4 false (offs x)) ∧
    (∃ x, Issues (.atomFadd .f32 .acq (ext { vadd with d := ⟨.none, 0⟩ } 0 ⟨.s, 0⟩ 0 0)) (teamState atTeam) x ∧ doneMask x ≠ 0 ∧ InTeam x tTeam (doneMask x) 4 false (offs x)) ∧
    (∃ x, Issues (.atomCas .u64 .plain (ext { add with a := ⟨.s, 2⟩ } 0 ⟨.s, 3⟩ 0 0)) here x ∧ x.single = true ∧ x.conv = true ∧ x.act ≠ 0 ∧
      (here.translate x.die (some x.core) x.w.tag x.w.supervisor .atomic (x.addr 0)).2 = .ok 0x1000) ∧
    (∃ x, Issues (.atomXor .u32 .plain { vadd with g := 1 }) here x ∧ x.act = 0) ∧
    ∃ x, Issues (.atomMax .i32 .rel rel) (teamState atTeam) x ∧ x.act ≠ 0 ∧ (teamState atTeam).accessFault x { n := 4, use := .atomic, scope := 6 } = none ∧
      ∃ t, LaneRun x (fun s l => s.atomTeam x { n := 4, use := .atomic, scope := 6 } ⟨true, false, 0, 6⟩ (x.addr l) (fun o => some o)) (fun s _ _ => s) (toDo x) (teamState atTeam) t := by
  refine ⟨witness_test (fun x => doneMask x != 0 && inTeamB x tTeam (doneMask x) 4 false) (fun x h => ?_) (by decide +kernel),
    witness_test (fun x => doneMask x != 0 && inTeamB x tTeam (doneMask x) 4 false) (fun x h => ?_) (by decide +kernel), witness (by decide +kernel), witness (by decide +kernel),
    witness_test (fun x => x.act != 0 && decide ((teamState atTeam).accessFault x { n := 4, use := .atomic, scope := 6 } = none) &&
      (laneGo x (fun s l => s.atomTeam x { n := 4, use := .atomic, scope := 6 } ⟨true, false, 0, 6⟩ (x.addr l) (fun o => some o)) (fun s _ _ => s) (toDo x) (teamState atTeam)).isSome)
      (fun x h => ?_) (by decide +kernel)⟩
  · simp only [Bool.and_eq_true, bne_iff_ne] at h
    exact ⟨h.1, inTeam_of h.2⟩
  · simp only [Bool.and_eq_true, bne_iff_ne] at h
    exact ⟨h.1, inTeam_of h.2⟩
  · simp only [Bool.and_eq_true, bne_iff_ne, decide_eq_true_eq] at h
    exact ⟨h.1.1, h.1.2, laneRun_of h.2⟩

/-- Words of lanes 0 to 31, empty or full. -/
def fullTeam : Team := { tTeam with full := (List.range 32).map fun l => (l, true) }
def ownWordsB (x : Ctx) (tm : Team) : Bool :=
  (x.act != 0 && x.act &&& x.w.fcm == 0 && tm.windows == [] &&
    (List.range 32).all fun l => (List.range 32).all fun j => !bit x.act l || !bit x.act j || offs x l != offs x j || l == j) && inTeamB x tm x.act 4 false
theorem ownWords_of {x : Ctx} {tm : Team} {fill : Bool} (h : ownWordsB x tm = true) : OwnWords x tm fill (offs x) := by
  simp only [ownWordsB, Bool.and_eq_true, bne_iff_ne, beq_iff_eq, List.all_eq_true, List.mem_range, Bool.or_eq_true, Bool.not_eq_true'] at h
  obtain ⟨⟨⟨⟨h1, h2⟩, h3⟩, h4⟩, h5⟩ := h
  refine ⟨h1, h2, inTeam_of h5, fun _ w hw => (by rw [h3] at hw; cases hw), .inr fun l hl j hj h6 h7 h8 => ?_⟩
  obtain ((h | h) | h) | h := h4 l hl j hj
  · rw [h6] at h; cases h
  · rw [h7] at h; cases h
  · exact absurd h8 h
  · exact h

theorem test_witness_FullEmptyForms :
    let stalled (i : Instr) : Wave := { atTeam with ex := { together with splits := [(0, { pc := 0, mask := 0xFFFFFFFF, stall := .fullEmpty, form := some i })] } }
    let words := fun (x : Ctx) => (lanesOf x.act).map fun l => offs x l / 4
    (∃ x, Issues (.ldSync ldV) (one atTeam fullTeam) x ∧ OwnWords x fullTeam false (offs x) ∧ ∀ w ∈ words x, FMap.at' false fullTeam.full w = true) ∧
    (∃ x, Issues (.ldTake ldV) (one atTeam fullTeam) x ∧ OwnWords x fullTeam false (offs x) ∧
      ∀ w ∈ words x, FMap.at' false fullTeam.full w = true ∧ FMap.at' 0 fullTeam.feLast w ≠ (one atTeam fullTeam).cc + 1) ∧
    (∃ x, Issues (.stFill stV) (teamState atTeam) x ∧ OwnWords x tTeam true (offs x) ∧ (∀ w ∈ words x, FMap.at' false tTeam.full w = false ∧ FMap.at' 0 tTeam.feLast w ≠ (teamState atTeam).cc + 1) ∧
      (teamState atTeam).relDrain x.key 1 = teamState atTeam ∧ x.w.deadStore = none ∧ (teamState atTeam).awaits x = none) ∧
    (∃ x, Issues (.ldSync ldV) (teamState atTeam) x ∧ OwnWords x tTeam false (offs x) ∧ ∀ w ∈ words x, FMap.at' false tTeam.full w = false) ∧
    (∃ x, Issues (.stFill stV) (one atTeam fullTeam) x ∧ OwnWords x fullTeam true (offs x) ∧ ∀ w ∈ words x, FMap.at' false fullTeam.full w = true) ∧
    ∃ x, Issues (.ldTake ldV) (one (stalled (.ldTake ldV)) fullTeam) x ∧ OwnWords x fullTeam false (offs x) ∧ x.w.halted = false ∧ x.sp.stall = .fullEmpty ∧
      x.sp.form = some (.ldTake ldV) := by
  refine ⟨witness_test (fun x => ownWordsB x fullTeam && ((lanesOf x.act).map fun l => offs x l / 4).all fun w => FMap.at' false fullTeam.full w == true) (fun x h => ?_) (by decide +kernel),
    witness_test (fun x => ownWordsB x fullTeam && ((lanesOf x.act).map fun l => offs x l / 4).all fun w => FMap.at' false fullTeam.full w == true && FMap.at' 0 fullTeam.feLast w != (one atTeam fullTeam).cc + 1)
      (fun x h => ?_) (by decide +kernel),
    witness_test (fun x => ownWordsB x tTeam && (((lanesOf x.act).map fun l => offs x l / 4).all (fun w => FMap.at' false tTeam.full w == false && FMap.at' 0 tTeam.feLast w != (teamState atTeam).cc + 1)) && decide (
      (teamState atTeam).relDrain x.key 1 = teamState atTeam ∧ x.w.deadStore = none ∧ (teamState atTeam).awaits x = none)) (fun x h => ?_) (by decide +kernel),
    witness_test (fun x => ownWordsB x tTeam && ((lanesOf x.act).map fun l => offs x l / 4).all fun w => FMap.at' false tTeam.full w == false) (fun x h => ?_) (by decide +kernel),
    witness_test (fun x => ownWordsB x fullTeam && ((lanesOf x.act).map fun l => offs x l / 4).all fun w => FMap.at' false fullTeam.full w == true) (fun x h => ?_) (by decide +kernel),
    witness_test (fun x => ownWordsB x fullTeam && decide (x.w.halted = false ∧ x.sp.stall = .fullEmpty ∧ x.sp.form = some (.ldTake ldV))) (fun x h => ?_) (by decide +kernel)⟩ <;>
  · simp only [Bool.and_eq_true, decide_eq_true_eq, List.all_eq_true, beq_iff_eq, bne_iff_ne, and_assoc] at h
    exact ⟨ownWords_of h.1, h.2⟩

/-- A context whose root table maps nothing, and a wave whose lanes load words of one page there. -/
def unmapped : State := withBytes { one { tWave with v := (List.range 32).map fun l => (64 + l, BitVec.ofNat 32 (4 * l)) } tTeam with cores := [], dies := [] } 64 [1]

theorem test_witness_PageFaults :
    ∃ x, Issues (.ld .b32 .plain ldV) unmapped x ∧ x.single = false ∧ x.w.hnd = none ∧ toDo x ≠ [] ∧ ∃ e acc : Nat → Nat, ∀ l ∈ toDo x,
      (x.addr l).toNat + 4 ≤ 0x0100000000000000 ∧ (x.addr l).toNat % 65536 + 4 ≤ 65536 ∧
      (unmapped.translate x.die (some x.core) x.w.tag x.w.supervisor .load (x.addr l)).2 = .page (e l) (acc l) := by
  have : ∃ x, Issues (.ld .b32 .plain ldV) unmapped x ∧ (x.single = false ∧ x.w.hnd = none ∧ toDo x ≠ []) ∧
      ((toDo x).all fun l => decide ((x.addr l).toNat + 4 ≤ 0x0100000000000000 ∧ (x.addr l).toNat % 65536 + 4 ≤ 65536) &&
        (match (unmapped.translate x.die (some x.core) x.w.tag x.w.supervisor .load (x.addr l)).2 with | .page _ _ => true | _ => false)) = true :=
    witness (by decide +kernel)
  obtain ⟨x, h1, ⟨h2, h3, h4⟩, h5⟩ := this
  refine ⟨x, h1, h2, h3, h4,
    fun l => (match (unmapped.translate x.die (some x.core) x.w.tag x.w.supervisor .load (x.addr l)).2 with | .page e _ => e | _ => 0),
    fun l => (match (unmapped.translate x.die (some x.core) x.w.tag x.w.supervisor .load (x.addr l)).2 with | .page _ a => a | _ => 0), fun l hl => ?_⟩
  have := List.all_eq_true.mp h5 l hl
  simp only [Bool.and_eq_true, decide_eq_true_eq] at this
  refine ⟨this.1.1, this.1.2, ?_⟩
  have h6 := this.2
  split at h6
  · rename_i e a he; simp only [he]
  · cases h6

/-! ### Witnesses: fences, caches, windows, core barriers -/

/-- The wave holds 5 bytes in its buffer entry for line 1; another entry of it, older than 1024 cc. -/
def bufWave : Wave := { tWave with s := [(1, 0x80), (2, 128), (4, 0x1000), (5, 0x2000)] }
def bufCore : Core := { tlb := [page0], l1 := [(0x85, 3)], wcb := [⟨0, 1, [(0x80, 9), (0xFF, 8)], 0⟩] }
def buffered : State := { one bufWave tTeam with cores := [(0, bufCore)], cc := 1024 }

theorem waited_of {s : State} {x : Ctx} {n : Nat} {w : Wave}
    (h : (s.relDrain x.key n).waves.fetch x.key = some w ∧ w.deadStore = none ∧ (s.relDrain x.key n).awaits x = none) : Waited s x n (s.relDrain x.key n) w := ⟨rfl, h⟩

def fenceF (n : BitVec 3) : F := ext (plain ⟨.none, 0⟩ ⟨.s, 0⟩ ⟨.s, 0⟩ 0) 0 ⟨.s, 0⟩ n 0
def xpF : F := plain ⟨.none, 0⟩ ⟨.s, 4⟩ ⟨.s, 5⟩ 0

/-- Half of the lanes stand at a full/empty access that they began in cc 3, the other half issue. -/
def busy : State :=
  { one { tWave with ex := { together with splits := [(0, { pc := 0, mask := 0xFFFF }), (1, { pc := 64, mask := 0xFFFF0000, stall := .fullEmpty, born := 3 })], conv := false } } tTeam with cc := 1024 }

theorem test_witness_FencesAndDrains :
    let deadWave : Wave := { tWave with deadStore := some 3 }
    (∃ x w, Issues (.fenceSc (fenceF 1)) buffered x ∧ (fenceF 1).sc.toNat < 2 ∧ (buffered.drainWave x.key).waves.fetch x.key = some w ∧ w.older x.since = false) ∧
    (∃ x w, Issues (.fenceSc (fenceF 1)) busy x ∧ (fenceF 1).sc.toNat < 2 ∧ (busy.drainWave x.key).waves.fetch x.key = some w ∧ w.older x.since = true) ∧
    (∃ x w, Issues (.fenceSc (fenceF 2)) buffered x ∧ 2 ≤ (fenceF 2).sc.toNat ∧ Waited buffered x 2 (buffered.relDrain x.key 2) w ∧ x.slot < 64) ∧
    (∃ x, Issues (.fenceXp xpF) (one deadWave tTeam) x ∧ ∃ w, ((one deadWave tTeam).relDrain x.key 1).waves.fetch x.key = some w ∧ w.deadStore = some 3) ∧
    (∃ x w, Issues (.fenceXp xpF) buffered x ∧ Waited buffered x 1 (buffered.relDrain x.key 1) w) ∧
    ∃ e, (buffered.core 0).wcb.filter (fun (e : WcbEnt) => e.slot == 0 && e.line == 1 && e.last + 1024 ≤ buffered.cc) = [e] ∧ buffered.shut 0 1 = none ∧
      FMap.sorted e.bytes = true ∧ ∀ p ∈ e.bytes, homeOf p.1 = .here := by
  refine ⟨?_, ?_, ?_, ?_, ?_, ⟨_, rfl, by decide +kernel⟩⟩
  · obtain ⟨x, h1, h2⟩ := witness (i := .fenceSc (fenceF 1)) (s := buffered) (P := fun x => (((buffered.drainWave x.key).waves.fetch x.key).any fun w => !w.older x.since) = true) (by decide +kernel)
    obtain ⟨w, hw, hd⟩ := Option.any_eq_true _ _ |>.mp h2
    exact ⟨x, w, h1, by decide, hw, by simpa using hd⟩
  · obtain ⟨x, h1, h2⟩ := witness (i := .fenceSc (fenceF 1)) (s := busy) (P := fun x => (((busy.drainWave x.key).waves.fetch x.key).any fun w => w.older x.since) = true) (by decide +kernel)
    obtain ⟨w, hw, hd⟩ := Option.any_eq_true _ _ |>.mp h2
    exact ⟨x, w, h1, by decide, hw, hd⟩
  · have h := witness (i := .fenceSc (fenceF 2)) (s := buffered) (P := fun x => (((buffered.relDrain x.key 2).waves.fetch x.key).any fun w => w.deadStore.isNone) = true ∧
      (buffered.relDrain x.key 2).awaits x = none ∧ x.slot < 64) (by decide +kernel)
    obtain ⟨x, h1, h2, h3, h4⟩ := h
    obtain ⟨w, hw, hd⟩ := Option.any_eq_true _ _ |>.mp h2
    exact ⟨x, w, h1, by decide, waited_of ⟨hw, by simpa using hd, h3⟩, h4⟩
  · have h := witness (i := .fenceXp xpF) (s := one { tWave with deadStore := some 3 } tTeam) (P := fun x => ((((one { tWave with deadStore := some 3 } tTeam).relDrain x.key 1).waves.fetch x.key).any
      fun w => w.deadStore == some 3) = true) (by decide +kernel)
    obtain ⟨x, h1, h2⟩ := h
    obtain ⟨w, hw, hd⟩ := Option.any_eq_true _ _ |>.mp h2
    exact ⟨x, h1, w, hw, by simpa using hd⟩
  · have h := witness (i := .fenceXp xpF) (s := buffered) (P := fun x => (((buffered.relDrain x.key 1).waves.fetch x.key).any fun w => w.deadStore.isNone) = true ∧
      (buffered.relDrain x.key 1).awaits x = none) (by decide +kernel)
    obtain ⟨x, h1, h2, h3⟩ := h
    obtain ⟨w, hw, hd⟩ := Option.any_eq_true _ _ |>.mp h2
    exact ⟨x, w, h1, waited_of ⟨hw, by simpa using hd, h3⟩⟩

theorem test_witness_PrefetchAndCacheControl :
    (∃ x, Issues (.cinv (plain ⟨.none, 0⟩ ⟨.s, 1⟩ ⟨.imm, 127⟩ 0)) buffered x) ∧
    (∃ x, Issues (.pfL2 (plain ⟨.none, 0⟩ ⟨.v, 2⟩ ⟨.s, 0⟩ 64)) buffered x) ∧
    (∃ x, Issues (.pf (plain ⟨.none, 0⟩ ⟨.s, 1⟩ ⟨.s, 0⟩ 0x7F)) buffered x ∧ x.f.a.file = .s ∧ x.act ≠ 0 ∧
      (buffered.translate x.die (some x.core) x.w.tag x.w.supervisor .load (x.addr 0)).2 = .ok 0xFF ∧ buffered.reach x.die (lineOf 0xFF) = .ok) ∧
    ∃ x, Issues (.lineclr (plain ⟨.none, 0⟩ ⟨.s, 4⟩ ⟨.s, 0⟩ 0)) buffered x ∧ x.w.supervisor = false ∧ (x.src false false x.f.a 0).toNat % 128 = 0 ∧ (x.src false false x.f.a 0).toNat < 0x0100000000000000 ∧
      (buffered.translate x.die (some x.core) x.w.tag x.w.supervisor .store (x.src false false x.f.a 0)).2 = .ok 0x1000 ∧
      buffered.isReserved 32 = false ∧ ∀ e ∈ (buffered.core x.core).wcb, e.line ≠ 32 :=
  ⟨some_issue (by decide +kernel), some_issue (by decide +kernel), witness (by decide +kernel), witness (by decide +kernel)⟩

/-- Two teams of one group on cores 0 and 1: rank 0, and rank 1 with the window at 0x100 that rank 0 may write. -/
def ownerTeam (ws : FMap Window) : Team := { tTeam with core := 1, rank := 1, teamId := 1, windows := ws }
def pairState (w : Wave) (t : Team) (o : Team) : State := { one w { t with groupSize := 2 } with teams := [(1, { t with groupSize := 2 }), (2, { o with groupSize := 2 })] }
def winWave : Wave := { tWave with s := [(1, 0x100), (2, 1), (3, 0x1FFF), (4, 0x010100000100017C)] }
def win0 : Window := ⟨true, 0, 5, []⟩
def upd0 : WinUpd := ⟨6, [(0x100, 1)], none, 0, 0⟩

/-- Every status of `wopen` and `wsub`, each by the first test that applies. -/
theorem test_witness_WindowForms :
    let open' (sw : W8) (b : Src) (a : Src) := plain ⟨.s, 9⟩ a b sw
    let s := pairState winWave tTeam (ownerTeam [(0x100, win0)])
    let closing := pairState winWave { tTeam with windows := [(0x100, { win0 with subs := [(2, [])] })] } { ownerTeam [] with replicas := [⟨1, 0x100, true, 5, [], none⟩] }
    let leaving := pairState winWave { tTeam with replicas := [⟨2, 0x100, true, 5, [], none⟩] } (ownerTeam [(0x100, { win0 with subs := [(1, [])] })])
    let team1 := fun (s : State) => s.teams.fetch 1
    (∃ x, Issues (.wopen (open' 1 ⟨.s, 2⟩ ⟨.s, 1⟩)) s x ∧ (∃ l, x.performs = [l]) ∧ (team1 s).isSome ∧ x.w.team = 1 ∧ (x.src false false x.f.a 0).toNat = 0x100 ∧ (x.src false false x.f.b 0).toNat = 1) ∧
    (∃ x, Issues (.wopen (open' 0 ⟨.s, 2⟩ ⟨.s, 3⟩)) s x ∧ (x.src false false x.f.a 0).toNat % 128 ≠ 0) ∧
    (∃ x, Issues (.wopen (open' 0 ⟨.s, 2⟩ ⟨.s, 1⟩)) closing x ∧ (∃ l, x.performs = [l]) ∧ ((team1 closing).any fun t => (t.windows.fetch 0x100).isSome) = true) ∧
    (∃ x, Issues (.wopen (open' 1 ⟨.s, 3⟩ ⟨.s, 1⟩)) s x ∧ (∃ l, x.performs = [l]) ∧ 255 < (x.src false false x.f.b 0).toNat) ∧
    (∃ x, Issues (.wsub (plain ⟨.v, 9⟩ ⟨.s, 2⟩ ⟨.s, 1⟩ 0)) s x ∧ (∃ l, x.performs = [l]) ∧
      ((team1 s).any fun t => (s.rankOf t 1).any fun q => q.1 == 2 && (q.2.windows.fetch 0x100).isSome && t.replicas == []) = true) ∧
    (∃ x, Issues (.wsub (plain ⟨.s, 9⟩ ⟨.s, 3⟩ ⟨.s, 1⟩ 0)) s x ∧ 255 < (x.src false false x.f.a 0).toNat) ∧
    (∃ x, Issues (.wsub (plain ⟨.s, 9⟩ ⟨.s, 2⟩ ⟨.s, 3⟩ 0)) s x ∧ ((team1 s).any fun t => (s.rankOf t 1).any fun q => (q.2.windows.fetch 0x1FFF).isNone) = true) ∧
    (∃ x, Issues (.wsub (plain ⟨.s, 9⟩ ⟨.s, 2⟩ ⟨.s, 1⟩ 0)) leaving x ∧ ((team1 leaving).any fun t => t.replicas.any fun r => r.owner == 2 && r.offset == 0x100) = true) ∧
    (∃ x, Issues (.wclose (plain ⟨.none, 0⟩ ⟨.s, 1⟩ ⟨.s, 0⟩ 0)) closing x ∧ (∃ l, x.performs = [l]) ∧ ((team1 closing).any fun t => (t.windows.fetch 0x100).any fun v => v.subs.length == 1) = true) ∧
    (∃ x, Issues (.wclose (plain ⟨.none, 0⟩ ⟨.s, 1⟩ ⟨.s, 0⟩ 0)) s x ∧ ((team1 s).any fun t => (t.windows.fetch 0x100).isNone) = true) ∧
    ∃ x, Issues (.wunsub (plain ⟨.none, 0⟩ ⟨.s, 1⟩ ⟨.s, 2⟩ 0)) leaving x ∧ (∃ l, x.performs = [l]) ∧
      ((team1 leaving).any fun t => (leaving.rankOf t 1).any fun q => q.1 == 2 && leaving.teams.fetch 2 == some q.2 && (q.2.windows.fetch 0x100).any fun v => (v.subs.fetch 1).isSome) = true := by
  have one' : ∀ {i : Instr} {s : State} {P : Ctx → Prop}, (∃ x, Issues i s x ∧ x.performs.length = 1 ∧ P x) → ∃ x, Issues i s x ∧ (∃ l, x.performs = [l]) ∧ P x := by
    rintro i s P ⟨x, h1, h2, h3⟩
    exact ⟨x, h1, List.length_eq_one_iff.mp h2, h3⟩
  exact ⟨one' (witness (by decide +kernel)), witness (by decide +kernel), one' (witness (by decide +kernel)), one' (witness (by decide +kernel)), one' (witness (by decide +kernel)),
    witness (by decide +kernel), witness (by decide +kernel), witness (by decide +kernel), one' (witness (by decide +kernel)), witness (by decide +kernel), one' (witness (by decide +kernel))⟩

/-- A wave whose store stands at a reserved line must wait with its `wopen`; one without such a store need not. -/
theorem test_witness_WindowsWait :
    let s := { buffered with reserved := [(1, (0, []))] }
    (∃ x why, Issues (.wopen (plain ⟨.s, 9⟩ ⟨.s, 2⟩ ⟨.s, 1⟩ 0)) s x ∧ (∃ l, x.performs = [l]) ∧ (s.drainWave x.key).awaits x = some why) ∧
    ∃ x, Issues (.wopen (plain ⟨.s, 9⟩ ⟨.s, 2⟩ ⟨.s, 1⟩ 0)) buffered x ∧ (buffered.drainWave x.key).awaits x = none := by
  refine ⟨?_, witness (by decide +kernel)⟩
  obtain ⟨x, h1, h3, h2⟩ := witness (i := .wopen (plain ⟨.s, 9⟩ ⟨.s, 2⟩ ⟨.s, 1⟩ 0)) (s := { buffered with reserved := [(1, (0, []))] })
    (P := fun x => x.performs.length = 1 ∧ ((({ buffered with reserved := [(1, (0, []))] } : State).drainWave x.key).awaits x).isSome = true) (by decide +kernel)
  exact ⟨x, _, h1, List.length_eq_one_iff.mp h3, (Option.some_get h2).symm⟩

theorem test_witness_WindowUpdates :
    let s := pairState winWave tTeam (ownerTeam [(0x100, { win0 with subs := [(1, [upd0])] })])
    let sent := pairState winWave { tTeam with replicas := [⟨2, 0x100, true, 5, [], none⟩] } (ownerTeam [(0x100, { win0 with subs := [(1, [upd0])] })])
    let new := pairState winWave { tTeam with replicas := [⟨2, 0x100, false, 0, [], none⟩] } (ownerTeam [(0x100, win0)])
    (∃ x, Issues (.st .b32 .plain (plain ⟨.none, 0⟩ ⟨.s, 4⟩ ⟨.s, 2⟩ 0)) s x ∧ x.single = true ∧ x.conv = true ∧ x.act ≠ 0 ∧ rowOf (x.addr (lowLane x.act)) = .window ∧
      (x.addr (lowLane x.act)).toNat % 4 = 0 ∧ s.windowAt x true (x.addr (lowLane x.act)) = some (2, 0x100) ∧
      ((s.teams.fetch 2).any fun t => (t.windows.fetch 0x100).isSome) = true) ∧
    (((sent.teams.fetch 2).any fun t => (t.windows.fetch 0x100).any fun v => (v.subs.fetch 1).any fun q => q == [upd0]) = true ∧
      ((sent.teams.fetch 1).any fun t => t.replicas.any fun r => r.owner == 2 && r.offset == 0x100 && r.installed) = true) ∧
    ((new.teams.fetch 2).any fun t => (t.windows.fetch 0x100).isSome) = true ∧
      ((new.teams.fetch 1).any fun t => t.replicas.any fun r => r.owner == 2 && r.offset == 0x100 && !r.installed) = true :=
  ⟨witness (by decide +kernel), by decide +kernel, by decide +kernel, by decide +kernel⟩

/-- An entry whose phase ends with the next arrival, and one that a wave waits for. -/
theorem test_witness_CoreBarriers :
    let arr (n : W8) := plain ⟨.none, 0⟩ ⟨.imm, 0⟩ ⟨.s, 0⟩ n
    let f := plain ⟨.none, 0⟩ ⟨.s, 0⟩ ⟨.s, 0⟩ 3
    let waitWave : Wave := { tWave with wt := [(3, 1)], ex := { together with splits := [(0, { pc := 0, mask := 0xFFFFFFFF, stall := .bar 3, form := some (.barWait f) })] } }
    let went : Team := { tTeam with bars := [(3, ⟨1, 0, 1, 0⟩)] }
    (∃ x, Issues (.barArr (arr 4)) lone x ∧ x.tm = some tTeam ∧ tTeam.nbar ≤ x.f.imm8.toNat) ∧
    (∃ x, Issues (.barArr (arr 3)) lone x ∧ x.tm = some tTeam ∧ x.f.imm8.toNat < tTeam.nbar ∧ x.performs.length = 1 ∧ (tTeam.bars.fetch x.f.imm8.toNat).isSome ∧
      lone.relDrain x.key 1 = lone ∧ x.w.deadStore = none ∧ lone.awaits x = none) ∧
    (∃ x, Issues (.barWait f) lone x ∧ x.tm = some tTeam ∧ x.f.imm8.toNat < tTeam.nbar ∧ passed x.w x.f.imm8.toNat ⟨0, 0, 1, 0⟩) ∧
    (∃ x, Issues (.barWait f) (one { tWave with wt := [(3, 1)] } tTeam) x ∧ x.tm = some tTeam ∧ ¬passed x.w x.f.imm8.toNat ⟨0, 0, 1, 0⟩) ∧
    (∃ x, Issues (.barSync (arr 0)) lone x ∧ x.tm = some tTeam ∧ x.performs.length = 1 ∧ lone.relDrain x.key 1 = lone ∧ x.w.deadStore = none ∧ lone.awaits x = none ∧
      x.w.fcm &&& x.sp.mask = 0 ∧ passed { x.w with wt := x.w.wt.ins 0 1 } 0 (arrived ⟨0, 0, 1, 0⟩ 0)) ∧
    (∃ x, Issues (.barSync (arr 0)) (one tWave { tTeam with bars := [(0, ⟨0, 0, 2, 0⟩)] }) x ∧ x.performs.length = 1 ∧
      ¬passed { x.w with wt := x.w.wt.ins 0 1 } 0 (arrived ⟨0, 0, 2, 0⟩ 0)) ∧
    (∃ x, Issues (.barSync (arr 3)) (one { tWave with fcm := 0x10001, synced := [(0, 0xFFFF), (16, 0xFFFF0000)], wt := [(3, 1)] } went) x ∧ x.tm = some went ∧ x.f.imm8.toNat = 3 ∧
      x.w.fcm &&& x.sp.mask ≠ 0 ∧ x.toArrive = [] ∧ passed x.w 3 ⟨1, 0, 1, 0⟩) ∧
    let s := one waitWave went
    s.wavesOf 1 = [(0, waitWave)] ∧ s.waves.fetch 0 = some waitWave ∧ s.teams.fetch 1 = some went ∧ went.bars.fetch 3 = some ⟨1, 0, 1, 0⟩ ∧ waitWave.halted = false ∧
      (∃ p, Forms.spec (.barWait f) = some (p, f)) ∧ passed waitWave 3 ⟨1, 0, 1, 0⟩ := by
  have dec : ∀ w b e, Decidable (passed w b e) := fun w b e => by unfold passed; infer_instance
  refine ⟨witness (by decide +kernel), witness (by decide +kernel), ?_, ?_, ?_, ?_, ?_, by decide +kernel, by decide +kernel, by decide +kernel, by decide +kernel, by decide +kernel, ⟨_, rfl⟩, by unfold passed; decide +kernel⟩ <;>
    (unfold passed; exact witness (by decide +kernel))

theorem test_witness_TeamRegisterAtomics :
    let full : Team := { tTeam with t := [(15, 1)], tcc := 1, told := [] }
    (∃ x, Issues (.tadd (plain ⟨.s, 1⟩ ⟨.s, 2⟩ ⟨.s, 0⟩ 15)) (one tWave full) x ∧ x.tm = some full ∧ full.tpois.fetch (bits x.f.imm8 0 4) = none ∧ x.act ≠ 0) ∧
    (∃ x, Issues (.tmin (plain ⟨.none, 0⟩ ⟨.v, 2⟩ ⟨.s, 0⟩ 0)) lone x ∧ x.tm = some tTeam ∧ tTeam.tpois.fetch (bits x.f.imm8 0 4) = none) ∧
    ∃ x, Issues (.tcas (ext (plain ⟨.v, 9⟩ ⟨.s, 2⟩ ⟨.s, 0⟩ 4) 0 ⟨.v, 3⟩ 0 0)) apartState x ∧ x.tm = some tTeam ∧ tTeam.tpois.fetch (bits x.f.imm8 0 4) = none ∧ x.act ≠ 0 :=
  ⟨witness (by decide +kernel), witness (by decide +kernel), witness (by decide +kernel)⟩

/-! ### Witnesses: barriers in memory, copies -/

def bytesOf : Read → List W8
  | .bytes bs => bs
  | _ => []

/-- `RecordAt` as a test of the place k. -/
def recordB (s : State) (x : Ctx) (kind : Kind) (k : Nat) : Bool :=
  let va := x.src false false x.f.a 0
  va.toNat % 64 == 0 && rowOf va == .global && decide (k + 64 ≤ 2 ^ 52) && (s.readPoint x kind va 64).2.1 == k &&
    (match (s.readPoint x kind va 64).2.2 with | .bytes _ => true | _ => false)
theorem record_of {s : State} {x : Ctx} {kind : Kind} {k : Nat} (h : recordB s x kind k = true) :
    RecordAt s x kind (s.readPoint x kind (x.src false false x.f.a 0) 64).1 k := by
  simp only [recordB, Bool.and_eq_true, beq_iff_eq, decide_eq_true_eq] at h
  obtain ⟨⟨⟨⟨h1, h2⟩, h3⟩, h4⟩, h5⟩ := h
  refine ⟨h1, h2, h3, bytesOf (s.readPoint x kind (x.src false false x.f.a 0) 64).2.2, ?_⟩
  split at h5
  · rename_i bs hb
    exact Prod.ext rfl (Prod.ext h4 (by simp [hb, bytesOf]))
  · cases h5

/-- `ReleasedAt` as a test. -/
def releasedB (v : State) (x : Ctx) (sc : Nat) : Bool :=
  let u := v.relDrain x.key sc
  ((u.waves.fetch x.key).any fun w => w.deadStore.isNone) && (u.awaits x).isNone && ((if 2 ≤ sc then u.relFlush x.key sc else u).waves.fetch x.key).isSome
theorem released_of {v : State} {x : Ctx} {sc : Nat} (h : releasedB v x sc = true) : ∃ z w, ReleasedAt v x sc z w := by
  simp only [releasedB, Bool.and_eq_true, Option.isNone_iff_eq_none] at h
  obtain ⟨⟨h1, h2⟩, h3⟩ := h
  obtain ⟨w0, hw, hd⟩ := Option.any_eq_true _ _ |>.mp h1
  obtain ⟨w, hw'⟩ := Option.isSome_iff_exists.mp h3
  exact ⟨_, w, _, w0, waited_of ⟨hw, by simpa using hd, h2⟩, rfl, hw'⟩

/-- A wave with s2 at a record of DRAM at 0x1000, of the given bytes (offset, value). -/
def recWave : Wave := { tWave with s := [(2, 0x1000), (3, 0x1020), (5, 0x0100000000000000), (7, 3)] }
def recState (bs : List (Nat × W8)) : State := { one recWave tTeam with dram := bs.map fun p => (0x1000 + p.1, p.2) }
def oneOf (sc : BitVec 3) (d : Dst) (b : Src) : F := ext (plain d ⟨.s, 2⟩ b 0) 0 ⟨.s, 0⟩ sc 0

/-- Barriers: the last party, one that is complete, one that is not yet, bad addresses, and a split that waits. -/
theorem test_witness_JoinBarriers :
    let jarr := oneOf 4 ⟨.none, 0⟩ ⟨.s, 3⟩
    let jwait := oneOf 4 ⟨.v, 4⟩ ⟨.s, 0⟩
    let waitSplit (i : Instr) : State := one { recWave with ex := { together with splits := [(0, { pc := 0, mask := 0xFFFFFFFF, stall := .word none, form := some i })] } } tTeam
    let at3 := plain ⟨.none, 0⟩ ⟨.s, 3⟩ ⟨.imm, 0⟩ 0
    (∃ x, Issues (.jarr { oneOf 4 ⟨.none, 0⟩ ⟨.imm, 0⟩ with a := ⟨.s, 3⟩ }) (recState []) x ∧ (x.src false false x.f.a 0).toNat % 64 ≠ 0) ∧
    (∃ x, Issues (.qpub { at3 with a := ⟨.s, 5⟩, b := ⟨.s, 1⟩ }) (recState []) x ∧ (x.src false false x.f.a 0).toNat % 64 = 0 ∧ rowOf (x.src false false x.f.a 0) ≠ .global) ∧
    (∃ x u k z w, Issues (.jarr jarr) (recState [(0, 1)]) x ∧ (∃ l, x.performs = [l]) ∧ 1 ≤ jarr.sc.toNat ∧ RecordAt (recState [(0, 1)]) x .atomic u k ∧
      ReleasedAt u x 4 z w) ∧
    (∃ x u k w, Issues (.jwait jwait) (recState [(0x10, 1)]) x ∧ RecordAt (recState [(0x10, 1)]) x .load u k ∧ u.waves.fetch x.key = some w ∧ u.homeNat (k + 0x10) 4 % 4 ≠ 0) ∧
    (∃ x u k w, Issues (.jwait jwait) (recState [(0x10, 4)]) x ∧ RecordAt (recState [(0x10, 4)]) x .load u k ∧ u.waves.fetch x.key = some w ∧ u.homeNat (k + 0x10) 4 % 4 = 0) ∧
    (∃ x, Issues (.jwait jwait) (waitSplit (.jwait jwait)) x ∧ x.sp.stall = .word none ∧ x.sp.form = some (.jwait jwait) ∧ x.w.halted = false ∧
      (x.src false false x.f.a 0).toNat % 64 = 0 ∧ rowOf (x.src false false x.f.a 0) = .global) ∧
    let aw := Instr.awaitEq .plain { at3 with b := ⟨.s, 0⟩ }
    ∃ x, Issues aw (waitSplit aw) x ∧ x.sp.stall = .word none ∧ x.sp.form = some aw ∧ x.w.halted = false ∧ (x.addr 0).toNat % 4 = 0 := by
  refine ⟨witness (by decide +kernel), witness (by decide +kernel), ?_, ?_, ?_, witness (by decide +kernel), witness (by decide +kernel)⟩
  · obtain ⟨x, h, h1, h2, h3⟩ := witness (i := .jarr (oneOf 4 ⟨.none, 0⟩ ⟨.s, 3⟩)) (s := recState [(0, 1)]) (P := fun x => x.performs.length = 1 ∧ recordB (recState [(0, 1)]) x .atomic 0x1000 = true ∧
      releasedB ((recState [(0, 1)]).readPoint x .atomic (x.src false false x.f.a 0) 64).1 x 4 = true) (by decide +kernel)
    obtain ⟨z, w, hz⟩ := released_of h3
    exact ⟨x, _, _, z, w, h, List.length_eq_one_iff.mp h1, by decide, record_of h2, hz⟩
  · obtain ⟨x, h, h1, h2, h3⟩ := witness (i := .jwait (oneOf 4 ⟨.v, 4⟩ ⟨.s, 0⟩)) (s := recState [(0x10, 1)]) (P := fun x => recordB (recState [(0x10, 1)]) x .load 0x1000 = true ∧
      ((((recState [(0x10, 1)]).readPoint x .load (x.src false false x.f.a 0) 64).1.waves.fetch x.key).isSome = true) ∧
      ((recState [(0x10, 1)]).readPoint x .load (x.src false false x.f.a 0) 64).1.homeNat (0x1000 + 0x10) 4 % 4 ≠ 0) (by decide +kernel)
    obtain ⟨w, hw⟩ := Option.isSome_iff_exists.mp h2
    exact ⟨x, _, _, w, h, record_of h1, hw, h3⟩
  · obtain ⟨x, h, h1, h2, h3⟩ := witness (i := .jwait (oneOf 4 ⟨.v, 4⟩ ⟨.s, 0⟩)) (s := recState [(0x10, 4)]) (P := fun x => recordB (recState [(0x10, 4)]) x .load 0x1000 = true ∧
      ((((recState [(0x10, 4)]).readPoint x .load (x.src false false x.f.a 0) 64).1.waves.fetch x.key).isSome = true) ∧
      ((recState [(0x10, 4)]).readPoint x .load (x.src false false x.f.a 0) 64).1.homeNat (0x1000 + 0x10) 4 % 4 = 0) (by decide +kernel)
    obtain ⟨w, hw⟩ := Option.isSome_iff_exists.mp h2
    exact ⟨x, _, _, w, h, record_of h1, hw, h3⟩

/-- Words at home, in team memory at its last word, and in an installed replica. -/
theorem test_witness_AddressWaits :
    let f (a : Src) := plain ⟨.none, 0⟩ a ⟨.imm, 1⟩ 0
    let isBytes := fun (r : Read) => r != .wait .none && bytesOf r == [0, 0, 0, 0]
    let winState := pairState { tWave with s := [(4, 0x010100000100017C)] } { tTeam with replicas := [⟨2, 0x100, true, 5, [], none⟩] } (ownerTeam [(0x100, { win0 with subs := [(1, [])] })])
    (∃ x, Issues (.awaitNe .acq (ext (f ⟨.s, 2⟩) 2 ⟨.s, 0⟩ 4 0)) (recState []) x ∧ (x.addr 0).toNat % 4 ≠ 0) ∧
    (∃ x, Issues (.awaitEq .plain (f ⟨.s, 2⟩)) (recState []) x ∧ (x.addr 0).toNat % 4 = 0 ∧ rowOf (x.addr 0) = .global ∧ isBytes ((recState []).readPoint x .load (x.addr 0) 4).2.2 = true ∧
      ((recState []).readPoint x .load (x.addr 0) 4).2.1 + 4 ≤ 2 ^ 52 ∧ (((recState []).readPoint x .load (x.addr 0) 4).1.waves.fetch x.key).isSome) ∧
    (∃ x, Issues (.awaitNe .plain (f ⟨.s, 2⟩)) (teamState atTeam) x ∧ (x.addr 0).toNat % 4 = 0 ∧ x.tm = some tTeam ∧ x.teamOff (x.addr 0) 4 = some 8188) ∧
    ∃ x, Issues (.awaitNe .plain (f ⟨.s, 4⟩)) winState x ∧ (x.addr 0).toNat % 4 = 0 ∧ rowOf (x.addr 0) = .window ∧ winState.windowAt x false (x.addr 0) = some (2, 0x100) ∧
      (x.tm.any fun t => (t.replicas.find? fun r => r.owner == 2 && r.offset == 0x100).any fun r => r.installed) = true :=
  ⟨witness (by decide +kernel), witness (by decide +kernel), witness (by decide +kernel), witness (by decide +kernel)⟩

/-- Rings: malformed, with room, and full; published, and not. -/
theorem test_witness_Rings :
    let room := recState [(8, 4), (0x10, 1)]
    let full := recState [(8, 1), (0x10, 2)]
    let ready := recState [(8, 4), (0x10, 2), (0x18, 1)]
    let qres := plain ⟨.s, 1⟩ ⟨.s, 2⟩ ⟨.s, 0⟩ 0
    let qpub := plain ⟨.none, 0⟩ ⟨.s, 2⟩ ⟨.s, 6⟩ 0
    let qtake := plain ⟨.v, 4⟩ ⟨.s, 2⟩ ⟨.s, 0⟩ 0
    let At := fun (i : Instr) (s : State) => ∃ x u w, Issues i s x ∧ (∃ l, x.performs = [l]) ∧ RecordAt s x .atomic u 0x1000 ∧ u.waves.fetch x.key = some w
    At (.qres qres) (recState [(8, 17)]) ∧ At (.qres qres) room ∧ At (.qres qres) full ∧ At (.qtake qtake) room ∧ At (.qtake qtake) ready ∧
    ∃ x u z w, Issues (.qpub qpub) room x ∧ (∃ l, x.performs = [l]) ∧ RecordAt room x .atomic u 0x1000 ∧ ReleasedAt u x 4 z w := by
  have at' : ∀ {i : Instr} {s : State}, (∃ x, Issues i s x ∧ x.performs.length = 1 ∧ recordB s x .atomic 0x1000 = true ∧
      ((s.readPoint x .atomic (x.src false false x.f.a 0) 64).1.waves.fetch x.key).isSome = true) →
      ∃ x u w, Issues i s x ∧ (∃ l, x.performs = [l]) ∧ RecordAt s x .atomic u 0x1000 ∧ u.waves.fetch x.key = some w := by
    rintro i s ⟨x, h, h1, h2, h3⟩
    obtain ⟨w, hw⟩ := Option.isSome_iff_exists.mp h3
    exact ⟨x, _, w, h, List.length_eq_one_iff.mp h1, record_of h2, hw⟩
  refine ⟨at' (witness (by decide +kernel)), at' (witness (by decide +kernel)), at' (witness (by decide +kernel)), at' (witness (by decide +kernel)), at' (witness (by decide +kernel)), ?_⟩
  obtain ⟨x, h, h1, h2, h3⟩ := witness (i := .qpub (plain ⟨.none, 0⟩ ⟨.s, 2⟩ ⟨.s, 6⟩ 0)) (s := recState [(8, 4), (0x10, 1)]) (P := fun x => x.performs.length = 1 ∧
    recordB (recState [(8, 4), (0x10, 1)]) x .atomic 0x1000 = true ∧
    releasedB ((recState [(8, 4), (0x10, 1)]).readPoint x .atomic (x.src false false x.f.a 0) 64).1 x 4 = true) (by decide +kernel)
  obtain ⟨z, w, hz⟩ := released_of h3
  exact ⟨x, _, z, w, h, List.length_eq_one_iff.mp h1, record_of h2, hz⟩

/-- A copy descriptor at 0x1000 with a source record at 0x100 and a destination record at 0x200, of two bytes each. -/
def parmBytes (kind : Nat) : List (Nat × W8) :=
  [(0x108, 1), (0x140, 2), (0x144, 1), (0x201, 0x20), (0x208, 1), (0x240, 2), (0x244, 1),
   (0x1001, 1), (0x1009, 2), (0x1010, BitVec.ofNat 8 kind), (0x1012, 4), (0x1013, 255), (0x1014, 255)]
def parmState (kind : Nat) (tpls : FMap Tpl) (qs : FMap Queue) : State :=
  { one recWave tTeam with dram := (parmBytes kind).filter (fun p => p.2 != 0), dies := [(0, { stlb := [page0], tpls := tpls, queues := qs })] }
def pat2 (base : W64) : Pat := ⟨base, 0, 0, 0, 0, [(2, 1)]⟩
def tpl0 : Tpl := { armed := true, grid := 1, team := 1, tag := 1, src := pat2 0, dst := pat2 0x2000 }
def tok0 : QTok := ⟨0x40, 0, 6, 0⟩
def queue0 (ts : List QTok) : Queue := ⟨some 3, 1, ts⟩

/-- The copy forms: each status of `cparm`, another grid's template, tokens and bindings. -/
theorem test_witness_CopyForms :
    let cparm := plain ⟨.none, 0⟩ ⟨.s, 2⟩ ⟨.imm, 3⟩ 0
    let Reads := fun (s : State) (x : Ctx) (bad : List W8 → Bool) =>
      (match s.readDesc x .desc (x.w.sreg x.f.a.num.toNat) 64 with | (_, .bytes bs) => bad bs | _ => false) = true
    let patsOk := fun (s : State) (x : Ctx) =>
      (match s.readDesc x .desc 0x100 256, s.readDesc x .desc 0x200 256 with
        | (_, .bytes a), (_, .bytes b) => patShape a 0 && patShape b 0 && (patOf a 0).total == (patOf b 0).total
        | _, _ => false) = true
    let cpfire := plain ⟨.none, 0⟩ ⟨.s, 2⟩ ⟨.imm, 5⟩ 0
    let busy := parmState 0 [(3, tpl0)] [(5, queue0 [])]
    let other := parmState 0 [(3, { tpl0 with grid := 2 })] [(5, { queue0 [] with grid := 2 })]
    let cpdisarm (m : W8) := plain ⟨.none, 0⟩ ⟨.s, 7⟩ ⟨.imm, m⟩ 0
    (∃ x, Issues (.cparm cparm) (parmState 0 [] []) x ∧ x.conv = true ∧ ((parmState 0 [] []).die x.die).foreignTpl (x.num x.f.b 8) x.grid = false ∧
      (x.w.sreg x.f.a.num.toNat).toNat % 64 = 0 ∧ Reads (parmState 0 [] []) x copyDescOk ∧ patsOk (parmState 0 [] []) x ∧ ((parmState 0 [] []).die x.die).tpls.fetch (x.num x.f.b 8) = none) ∧
    (∃ x, Issues (.cparm cparm) (parmState 3 [] []) x ∧ x.conv = true ∧ Reads (parmState 3 [] []) x fun bs => !copyDescOk bs) ∧
    (∃ x, Issues (.cparm cparm) busy x ∧ x.conv = true ∧ (busy.die x.die).foreignTpl (x.num x.f.b 8) x.grid = false ∧ Reads busy x copyDescOk ∧ (busy.die x.die).tpls.fetch (x.num x.f.b 8) = some tpl0) ∧
    (∃ x, Issues (.cparm cparm) other x ∧ x.conv = true ∧ (other.die x.die).tpls.fetch (x.num x.f.b 8) = some { tpl0 with grid := 2 } ∧ (2 : Nat) ≠ x.grid) ∧
    (∃ x, Issues (.cparm { cparm with a := ⟨.s, 3⟩ }) (parmState 0 [] []) x ∧ x.conv = true ∧ (x.w.sreg x.f.a.num.toNat).toNat % 64 ≠ 0) ∧
    (∃ x, Issues (.cpbook { cparm with a := ⟨.s, 2⟩, b := ⟨.s, 1⟩ }) (recState [(1, 1), (4, 2)]) x ∧ x.conv = true ∧
      Reads (recState [(1, 1), (4, 2)]) x fun bs => field bs 0 4 == 256 && field bs 4 1 == 2 && zeros bs 5 0x37) ∧
    (∃ x, Issues (.cpbind (plain ⟨.none, 0⟩ ⟨.s, 7⟩ ⟨.imm, 63⟩ 0)) busy x ∧ x.conv = true ∧ (busy.die x.die).tpls.fetch (x.num x.f.a 8) = some tpl0 ∧
      (busy.die x.die).foreignTpl (x.num x.f.a 8) x.grid = false ∧ (busy.die x.die).foreignQueue (x.num x.f.b 6) x.grid = false) ∧
    (∃ x, Issues (.cpfire { cpfire with b := ⟨.imm, 6⟩ }) busy x ∧ x.conv = true ∧ (busy.die x.die).queues.fetch (x.num x.f.b 6) = none) ∧
    (∃ x, Issues (.cpfire cpfire) busy x ∧ x.conv = true ∧ (busy.die x.die).queues.fetch (x.num x.f.b 6) = some (queue0 []) ∧ (busy.die x.die).tpls.fetch 3 = some tpl0 ∧
      (queue0 []).grid = x.grid ∧ releasedB busy x tpl0.scope = true) ∧
    (∃ x, Issues (.cpfire cpfire) other x ∧ x.conv = true ∧ (other.die x.die).queues.fetch (x.num x.f.b 6) = some { queue0 [] with grid := 2 } ∧ (2 : Nat) ≠ x.grid) ∧
    (∃ x, Issues (.cpdisarm (cpdisarm 1)) busy x ∧ x.conv = true ∧ (busy.die x.die).tpls.fetch (x.num x.f.a 8) = some tpl0 ∧ tpl0.grid = x.grid ∧ tpl0.firing = none ∧ x.num x.f.b 1 ≠ 0) ∧
    ∃ x, Issues (.cpdisarm (cpdisarm 0)) (parmState 0 [(3, tpl0)] [(5, queue0 [tok0])]) x ∧ x.conv = true ∧ x.num x.f.b 1 = 0 ∧
      ((parmState 0 [(3, tpl0)] [(5, queue0 [tok0])]).die x.die).queues = [(5, queue0 [tok0])] := by
  refine ⟨witness ?_, witness ?_, witness ?_, witness ?_, witness ?_, witness ?_, witness ?_, witness ?_, witness ?_, witness ?_, witness ?_, witness ?_⟩ <;> decide +kernel

/-- A token waits; an element of KIND 0, of KIND 1, of KIND 2 and of a codebook; a firing that is walked. -/
theorem test_witness_CopyFirings :
    let fi : Firing := ⟨tok0, 1, false, false, 0, false⟩
    let ends := parmState 0 [(3, { tpl0 with firing := some { fi with pos := 2, walked := true }, grid := 0 })] [(5, queue0 [tok0])]
    let s (kind : Nat) (dst : W64) (b : Option Book) := parmState 0 [(3, { tpl0 with kind := kind, cb := b.isSome, book := b, dst := pat2 dst, firing := some fi })] []
    let book : Book := ⟨1, 3, []⟩
    ((parmState 0 [(3, tpl0)] [(4, queue0 []), (5, queue0 [tok0])]).die 0).queues = [(4, queue0 []), (5, queue0 [tok0])] ∧
    (∀ q ∈ [s 0 0x2000 none, s 0 0x2000 (some book), s 1 0x0100000000000FFE none, s 2 0 none],
      (q.translate 0 none 1 false .load 1).2 = .ok 1 ∧ (q.reach 0 0) = .ok ∧ q.homeByte 1 = 0) ∧
    ((s 0 0x2000 none).translate 0 none 1 false .store 0x2001).2 = .ok 0x2001 ∧ 1 % 65536 + 1 ≤ 65536 ∧ 0x2001 % 65536 + 1 ≤ 65536 ∧ (s 0 0x2000 none).isReserved 64 = false ∧
    rowOf 0x0100000000000FFF = .team ∧ (s 1 0x0100000000000FFE none).teams.fetch 1 = some tTeam ∧ 0xFFF + 1 ≤ tTeam.teammem ∧
    FMap.at' [] ((s 2 0 none).stk 0).inbox 0 = [] ∧
    ((ends.die 0).tpls.fetch 3).any (fun t => t.grid == 0 && t.firing.any fun f => f.walked) = true := by
  decide +kernel

/-! ### Witnesses: arrivals, tasks, placement, launches, reductions -/

/-- The first state of a die with one translation, and memory of the given bytes. -/
def dieState (bs : List (Nat × W8)) (d : Die) : State := { State.reset with nextId := 5, dram := bs, dies := [(0, { d with stlb := [page0] })] }
def arr0 (join : W64) (code : Code) : HeldArr := ⟨2, 1, join, 4, false, 0, 6, code, 7, 320, 0⟩

/-- An arrival at a line of this device, at a poisoned line, outside the space, at a page that is missing; one on the die that waits for a member. -/
theorem test_witness_DeviceArrivals :
    let s := dieState [] {}
    let bad := { s with poison := [(32, true)] }
    let wait := dieState [] { arrivals := [arr0 0x1000 .trap, arr0 0x1000 .page] }
    ((s.translate 0 none 1 false .store 0x1000).2 = .ok 0x1000 ∧ s.poisoned 32 = false ∧ s.isReserved 32 = false) ∧
    ((bad.translate 0 none 1 false .store 0x1000).2 = .ok 0x1000 ∧ bad.poisoned 32 = true) ∧
    (s.translate 0 none 1 false .store 0x0100000000000000).2 = .prot ∧
    (match ((dieState [(64, 1), (65, 0x10)] {}).translate 0 none 1 false .store 0x40000000).2 with | .page _ _ => true | _ => false) = true ∧
    (wait.die 0).arrivals[0]? = some (arr0 0x1000 .trap) ∧ (wait.die 0).arrivals[1]? = some (arr0 0x1000 .page) ∧ (wait.translate 0 none 1 false .store 0x1000).2 = .ok 0x1000 := by
  decide +kernel

/-- A launch record of one wave at 0x300 and a task record at 0x1000. -/
def lrecBytes : List (Nat × W8) :=
  [(0x301, 0x80), (0x308, 1), (0x30C, 1), (0x30E, 6), (0x30F, 1), (0x315, 4), (0x319, 0x40), (0x321, 1), (0x322, 3)]
def taskBytes (scope : W8) : List (Nat × W8) := [(0x1001, 3), (0x1009, 0x40), (0x1010, scope)]
def taskState (w : Wave) (t : Team) (scope : W8) : State := { one w t with dram := lrecBytes ++ (taskBytes scope).filter fun p => p.2 != 0 }
def task0 : Task := ⟨0x300, 0x4000, 4, [1, 2, 3, 4, 5], 1, 0, 6, 1, 1⟩
def badTask0 : Task := { task0 with krec := 0x1000 }
def handsOf (a b : List Task) (kitty : List Task) : State :=
  { taskState tWave tTeam 4 with cores := [(0, { tlb := [page0], hand := a }), (1, { hand := b })], kitty := kitty }

theorem test_witness_Spawning :
    let f := plain ⟨.none, 0⟩ ⟨.s, 2⟩ ⟨.s, 0⟩ 0
    let Reads := fun (s : State) (x : Ctx) (good : Bool) => (match s.readDesc x .desc (x.w.sreg x.f.a.num.toNat) 64 with
      | (u, .bytes bs) => (taskOf bs tTeam 1 0 6).isSome == good && (!good || (releasedB u x 4 && u.handRoom x.core)) | _ => false) = true
    let held := handsOf (List.replicate 256 task0) [] []
    let waits : Wave := { recWave with spawning := [(0, task0)], ex := { together with splits := [(0, { pc := 0, mask := 0xFFFFFFFF, stall := .kitty, form := some (.spawn f) })] } }
    (∃ x, Issues (.spawn f) (taskState recWave tTeam 4) x ∧ x.conv = true ∧ x.tm = some tTeam ∧ tTeam.depth ≠ 10 ∧ (x.w.sreg x.f.a.num.toNat).toNat % 64 = 0 ∧ Reads (taskState recWave tTeam 4) x true) ∧
    (∃ x, Issues (.spawn f) (taskState recWave tTeam 7) x ∧ x.conv = true ∧ Reads (taskState recWave tTeam 7) x false) ∧
    (∃ x, Issues (.spawn { f with a := ⟨.s, 3⟩ }) (taskState recWave tTeam 4) x ∧ x.conv = true ∧ x.tm = some tTeam ∧ (x.w.sreg x.f.a.num.toNat).toNat % 64 ≠ 0) ∧
    (∃ x, Issues (.spawn f) (taskState recWave { tTeam with depth := 10 } 4) x ∧ x.conv = true ∧ (x.tm.any fun t => t.depth == 10) = true) ∧
    (∃ x, Issues (.spawn f) (one { recWave with team := 0 } tTeam) x ∧ x.conv = true ∧ x.tm = none) ∧
    held.handRoom 0 = false ∧
    (taskState waits tTeam 4).waves.fetch (64 * 0 + 0) = some waits ∧ waits.halted = false ∧ waits.ex.conv = true ∧ waits.spawning.fetch 0 = some task0 ∧ (taskState waits tTeam 4).handRoom 0 = true := by
  refine ⟨witness ?_, witness ?_, witness ?_, witness ?_, witness ?_, ?_, ?_, ?_, ?_, ?_, ?_⟩ <;> decide +kernel

/-- A core with a task on its hand, one that steals from core 1, one that takes from the kitty; a task that is rejected; a core that has taken. -/
theorem test_witness_TasksTaken :
    let runs := fun (s : State) (k : Task) => (match s.taskRec 0 k with | (_, some lr, none, false) => (s.freeOf 0).holds lr.need && (allocBlocks (s.blocks 0) (lr.waves.map fun r => 2 ^ r.lregs)).isSome | _ => false) = true
    let fails := fun (s : State) (k : Task) => (match s.taskRec 0 k with | (_, none, none, false) => true | _ => false) = true
    let own := handsOf [badTask0, task0] [] []
    let theirs := handsOf [] [task0, badTask0] []
    let kitty := handsOf [] [] [task0]
    ((own.core 0).hand.getLast? = some task0 ∧ own.mayTake 0 = true ∧ runs own task0 ∧ (own.core 0).packOff = []) ∧
    ((handsOf [badTask0] [] []).core 0).hand.getLast? = some badTask0 ∧ fails (handsOf [badTask0] [] []) badTask0 ∧
    (theirs.mayTake 0 = true ∧ (theirs.core 0).hand = [] ∧ 1 ≤ (theirs.freeOf 0).w ∧ 8 ≤ (theirs.freeOf 0).v ∧ theirs.stealFrom 0 = some (1, task0) ∧ runs theirs task0) ∧
    (kitty.stealFrom 0 = none ∧ kitty.kitty = [task0] ∧ kitty.mayTake 0 = true ∧ runs kitty task0 ∧ kitty.kittyTook ≠ kitty.cc + 1) ∧
    ({ kitty with kittyTook := 1 } : State).kittyTook = kitty.cc + 1 ∧
    (({ own with cores := [(0, { hand := [task0], took := own.cc + 1 })] } : State).core 0).took = own.cc + 1 := by
  decide +kernel

/-- Queues: off, with a poisoned descriptor, with an error, malformed, too far ahead, empty, and with an entry. -/
def sqState (bs : List (Nat × W8)) : State := dieState (lrecBytes ++ bs) { run := 1, sq := [(0, { sqd := 0x1001 })] }
def sqDesc (log n tail : W8) (status : W8) : List (Nat × W8) :=
  [(0x1001, 0x20), (0x1008, log), (0x100A, 1), (0x1010, tail), (0x1020, status), (0x2001, n)].filter fun p => p.2 != 0
theorem test_witness_SubmissionQueues :
    let F := fun (s : State) off n => s.homeNat (0x1000 + off) n
    let good := sqState (sqDesc 1 3 1 0)
    let w := good.translate 0 none 1 false .atomic 0x2000
    (bit ((dieState [] {}).die 0).run 0 = false) ∧
    (memTop ≤ bits (0xC000000001 : W64) 6 58 * 64 ∧ ((FMap.at' {} ((sqState []).die 0).sq 0).lost = false)) ∧
    (({ good with reserved := [(32, (7, []))] } : State).isReserved 32 = true ∧ good.watch.fetch 32 ≠ some true ∧ ((good.die (nearDie (stackOf (128 * 32)))).held = [])) ∧
    (let s := { good with poison := [(32, true)] }
     bit (s.die 0).run 0 = true ∧ ((s.die 0).sq.fetch 0).any (fun q => bit q.sqd 0) = true ∧ s.poisoned 32 = true) ∧
    (let s := { good with watch := [(32, true)], dies := [(0, { good.die 0 with sq := [(0, { sqd := 0x1001, stopped := true })] })] }
     bit (s.die 0).run 0 = true ∧ ((s.die 0).sq.fetch 0).any (fun q => q.stopped && bit q.sqd 0) = true ∧ s.watch.fetch (lineOf 0x1000) = some true ∧ s.isReserved 32 = false) ∧
    F (sqState (sqDesc 1 3 1 4)) 0x20 4 % 8 ≠ 0 ∧ F (sqState (sqDesc 13 3 1 0)) 8 1 = 13 ∧ F (sqState (sqDesc 1 3 3 0)) 0x10 8 = 3 ∧ F (sqState (sqDesc 1 3 0 0)) 0x10 8 = 0 ∧
    (F good 0x20 4 % 8 = 0 ∧ F good 8 1 = 1 ∧ F good 9 1 = 0 ∧ F good 0x0A 1 = 1 ∧ F good 0x0B 5 = 0 ∧ F good 0x24 28 = 0 ∧ F good 0x10 8 = 1 ∧ F good 0x18 8 = 0 ∧ F good 0 8 = 0x2000) ∧
    w.2 = .ok 0x2000 ∧ good.reach 0 64 = .ok ∧ good.homeNat 0x2000 8 = 0x300 ∧ good.homeNat (0x2000 + 0x0C) 0x34 = 0 ∧
    (match (w.1.unitRead 0 1 0x300 256).2 with | .bytes rb => (parseLRec 0x300 false rb).any fun lr => nbit lr.dies 0 | _ => false) = true := by
  decide +kernel

/-- A group under placement on a core with room and on a core whose file is full; a grid that waits; a request for room. -/
def lr0 : LRec := (parseLRec 0x300 false ((List.range 256).map fun i => FMap.at' 0 lrecBytes (0x300 + i))).getD
  ⟨0, 0, 0, 0, false, 0, 0, 0, 0, 0, [], 0, []⟩
def grid0 : Grid := { tag := 1, lr := lr0, die := 0, sq := 0, qprio := 3 }
def fullWave : Wave := { tWave with lregs := 8 }
theorem test_witness_Placement :
    let placing := { dieState [] { run := 1 } with grids := [(9, { grid0 with todo := [0], nextGroup := 1 })] }
    let full := { placing with waves := (List.range 16).map fun i => (i, { fullWave with voff := 256 * i }) }
    let waiting := { dieState [] { run := 1, ucc := 2 ^ 20 } with grids := [(9, grid0)] }
    let asks := { full with cores := [(0, { packReq := [8] })], waves := [(0, { fullWave with lregs := 3, voff := 8 }), (1, { fullWave with lregs := 3, voff := 4080 })] }
    (lr0.waves.map fun r => 2 ^ r.lregs) = [8] ∧
    (placing.grids.find? (fun (p : Nat × Grid) => !p.2.todo.isEmpty && p.2.todoDie == 0)).isSome = true ∧ (placing.core 0).packOff = [] ∧ (placing.freeOf 0).holds lr0.need = true ∧
    (allocBlocks (placing.blocks 0) [8]).isSome = true ∧ allocBlocks (full.blocks 0) [8] = none ∧
    (waiting.grids.find? (fun (p : Nat × Grid) => !p.2.todo.isEmpty && p.2.todoDie == 0)) = none ∧ bit (waiting.die 0).run 0 = true ∧
    (waiting.serveOrder 0).findSome? (fun p => (waiting.groupPlan 0 p.2.lr).map fun gs => (p, gs)) = some ((9, grid0), [0]) ∧
    (waiting.waitingGrids 0).contains (9, grid0) = true ∧ grid0.waitSince + 2 ^ 20 ≤ (waiting.die 0).ucc ∧
    bestCore [(3, ⟨64, 4096, 128, 64⟩), (7, ⟨64, 4096, 128, 64⟩)] lr0.need = some 3 ∧
    (let moved := { placing with cores := [(0, { packOff := [8], packEnd := 40 })] }
     (moved.freeOf 0).holds lr0.need = true ∧ (moved.core 0).packOff = [8] ∧ [8].length = (lr0.waves.map fun r => 2 ^ r.lregs).length ∧ (moved.die (dieOf 0)).ucc < (moved.core 0).packEnd) ∧
    (let packs := { waiting with cores := [(0, { packEnd := 2 ^ 20 + 1 })] }
     (packs.serveOrder 0).findSome? (fun p => (packs.groupPlan 0 p.2.lr).map fun gs => (p, gs)) = some ((9, grid0), [0]) ∧ (packs.die (dieOf 0)).ucc < (packs.core 0).packEnd) ∧
    (waiting.core 0).packEnd ≤ (waiting.die (dieOf 0)).ucc ∧ bit ((dieState [] {}).die 0).run 0 = false ∧
    (asks.core 0).packReq ≠ [] ∧ FMap.sorted asks.waves = true ∧ (∀ b ∈ asks.blocksOf 0, b.2.2 ∈ [8, 16, 32, 64, 128, 256]) ∧ ((asks.blocksOf 0).map fun b => b.1).Nodup := by
  decide +kernel

/-- An array with one partition, and a deck that holds an image under the name 7 of grid 1. -/
def stack0 : Stack := { ({} : Stack).setField 0 0 1010 0 0x8000 with deck := [⟨1, 7, [0xFFFF0000], 0, 0⟩] }
def launchState (imgid : W8) (y : Stack) (ts : FMap Team) : State :=
  { one recWave tTeam with dram := [(0x100C, imgid), (0x100F, 0), (0x1011, 0x40), (0x1018, 4)].filter (fun p => p.2 != 0), stks := [(0, y)], teams := ts }
def actx0 : ACtx := { tag := 1, grid := 1, team := 1, join := 0x4000, scope := 4, param := 0, pats := [] }

theorem test_witness_ArrayLaunches :
    let ts : FMap Team := [(1, tTeam)]
    let f := plain ⟨.none, 0⟩ ⟨.s, 2⟩ ⟨.s, 5⟩ 0
    let g := plain ⟨.none, 0⟩ ⟨.s, 2⟩ ⟨.imm, 0⟩ 0
    let desc := fun (s : State) (x : Ctx) (p : List W8 → State → Bool) => (match s.readDesc x .desc (x.w.sreg x.f.a.num.toNat) 64 with | (u, .bytes bs) => p bs u | _ => false) = true
    let fits := fun (bs : List W8) => field bs 0 8 == 0 && field bs 0x0F 1 == 0 && field bs 0x0E 1 == 0 && field bs 0x10 8 == 0x4000 && field bs 0x18 1 == 4 && field bs 0x19 1 == 0
    let run : Stack := { stack0 with ctxs := [(0, actx0)] }
    (∃ x, Issues (.alaunch { f with a := ⟨.s, 3⟩ }) (launchState 7 stack0 ts) x ∧ x.conv = true ∧ (x.w.sreg x.f.a.num.toNat).toNat % 64 ≠ 0) ∧
    (∃ x, Issues (.alaunch f) (launchState 7 stack0 ts) x ∧ x.conv = true ∧ (x.w.sreg x.f.a.num.toNat).toNat % 64 = 0 ∧ x.grid = 1 ∧ desc (launchState 7 stack0 ts) x fun bs u =>
      fits bs && field bs 0x0C 2 == 7 && (u.stk 0).ptab.valid 0 && ((u.stk 0).ctxs.fetch 0).isNone && !(u.stk 0).hold && ((u.stk 0).deckGet 1 7).any (fun e => ((u.stk 0).checkImage 0 0 e.words true).isRight)) ∧
    (∃ x, Issues (.alaunch f) (launchState 8 stack0 ts) x ∧ x.conv = true ∧ desc (launchState 8 stack0 ts) x fun bs u => fits bs && ((u.stk 0).deckGet 1 8).isNone) ∧
    (∃ x, Issues (.alaunch f) (launchState 7 { stack0 with hold := true } ts) x ∧ x.conv = true ∧ desc (launchState 7 { stack0 with hold := true } ts) x fun bs u => fits bs && (u.stk 0).hold) ∧
    (∃ x, Issues (.alaunch f) (launchState 7 {} ts) x ∧ x.conv = true ∧ desc (launchState 7 {} ts) x fun bs u => fits bs && !(u.stk 0).ptab.valid 0) ∧
    (∃ x, Issues (.alaunch f) (launchState 7 run ts) x ∧ x.conv = true ∧ desc (launchState 7 run ts) x fun bs u => fits bs && ((u.stk 0).ctxs.fetch 0).isSome) ∧
    ∃ x, Issues (.asplice g) (launchState 7 run ts) x ∧ x.conv = true ∧ desc { launchState 7 run ts with free := 1 } x fun bs u =>
      fits bs && ((u.stk 0).ctxs.fetch 0).any (fun a => !a.parked) && ((u.stk 0).splices.fetch 0).isNone := by
  refine ⟨witness ?_, witness ?_, witness ?_, witness ?_, witness ?_, witness ?_, witness ?_⟩ <;> decide +kernel

/-- Reductions of one line: armed, with a message for it and for none, complete with the next one, and past its deadline. -/
def red0 : Reduction := { dest := 0x2000, len := 2, mask := 2, int32 := true, scope := 4, join := 0x4000, deadline := 8, tag := 1, desc := 0x1000 }
def msg0 : ContribMsg := ⟨5, 1, 0, [(0, 7), (1, 9)], false, true⟩
theorem test_witness_Reductions :
    let f := plain ⟨.none, 0⟩ ⟨.s, 2⟩ ⟨.imm, 5⟩ 0
    let armed := dieState [] { reds := [(5, red0)], contribQ := [msg0, { msg0 with tag := 6 }] }
    let stray := dieState [] { reds := [(5, red0)], contribQ := [{ msg0 with stack := 2 }] }
    let late := { armed with cc := 8 }
    let bytes : List (Nat × W8) := [(0x1001, 0x20), (0x1008, 2), (0x100C, 2), (0x100E, 1), (0x100F, 4), (0x1011, 0x40)]
    let s := { one recWave tTeam with dram := bytes }
    (∃ x, Issues (.xred f) s x ∧ x.conv = true ∧ (x.w.sreg x.f.a.num.toNat).toNat % 64 = 0 ∧ (match s.readDesc x .desc (x.w.sreg x.f.a.num.toNat) 64 with
      | (u, .bytes bs) => field bs 0 8 == 0x2000 && field bs 8 4 == 2 && field bs 0x0C 2 == 2 && field bs 0x0F 1 == 4 && zeros bs 0x24 28 && (u.die x.die).reds == [] | _ => false) = true) ∧
    (∃ x, Issues (.xred { f with a := ⟨.s, 3⟩ }) s x ∧ x.conv = true ∧ (x.w.sreg x.f.a.num.toNat).toNat % 64 ≠ 0) ∧
    ((armed.die 0).contribQ = [msg0, { msg0 with tag := 6 }] ∧ (armed.die 0).reds.fetch msg0.tag = some red0 ∧ bit red0.mask msg0.stack = true ∧ msg0.ainc = (armed.stk msg0.stack).ainc.toNat ∧
      FMap.sorted red0.contribs = true) ∧
    ((stray.die 0).contribQ.head? = some { msg0 with stack := 2 } ∧ bit red0.mask 2 = false) ∧
    ((armed.die 0).reds.fetch 5 = some red0 ∧ armed.cc < red0.deadline) ∧ ((late.die 0).reds.fetch 5 = some red0 ∧ red0.deadline ≠ 0 ∧ red0.deadline ≤ late.cc) ∧
    armed.reduceHeld 0 red0 = false ∧ ({ armed with reserved := [(32, (7, []))] } : State).reduceHeld 0 red0 = true ∧ (armed.die 0).reds.fetch 6 = none ∧
    (armed.translate 0 none red0.tag false .store (red0.dest + BitVec.ofNat 64 (128 * 0))).2 = .ok 0x2000 ∧ 0x2000 % 128 = 0 := by
  refine ⟨witness ?_, witness ?_, ?_, ?_, ?_, ?_, ?_, ?_, ?_, ?_, ?_⟩ <;> decide +kernel

/-! ### Witnesses: near-bank operations and arrays -/

def bop0 : BankOp := { words := [0], pages := [0], join := 0x4000, scope := 4, clen := 1, tag := 1 }
/-- Twelve rows of four sites, one word for each operation of a microprogram. -/
def bankWith (w : W64) : State := { State.reset with stks := [(0, { bankRun := some { bop0 with words := [w] } })] }

theorem test_witness_BankOperations :
    let f := plain ⟨.none, 0⟩ ⟨.s, 2⟩ ⟨.s, 0⟩ 0
    let desc (w : W8) : State := { one recWave tTeam with dram := [(0x1012, 1), (0x1019, 0x40), (0x1038, 1), (0x103B, 4), (0x103C, w)].filter fun p => p.2 != 0 }
    let s := desc 1
    let queued := { State.reset with stks := [(0, { bankq := [bop0] })] }
    let done := { State.reset with stks := [(0, { bankRun := some { bop0 with idx := 1, wrote := [0x1000] } })] }
    let comb (st : W8) : State := { dieState ([(0x4010, st)].filter fun p => p.2 != 0) {} with stks := [(0, { combines := [{ bop0 with cbuf := [0x10000], res := [0x20000], cout := [0x30000], cjoin := 0x5000 }] })] }
    let status := fun (s : State) => (match (s.unitRead 0 1 0x4010 4).2 with | .bytes bs => ofBytes bs % 4 | _ => 9)
    (∃ x, Issues (.bnkop { f with a := ⟨.s, 3⟩ }) s x ∧ x.conv = true ∧ (x.w.sreg x.f.a.num.toNat).toNat % 64 ≠ 0) ∧
    (∃ x, Issues (.bnkop f) (desc 0) x ∧ x.conv = true ∧ (match (desc 0).readDesc x .desc (x.w.sreg x.f.a.num.toNat) 64 with | (_, .bytes bs) => field bs 0x3C 2 == 0 | _ => false) = true) ∧
    (∃ x, Issues (.bnkop f) s x ∧ x.conv = true ∧ (match s.readDesc x .desc (x.w.sreg x.f.a.num.toNat) 64 with
      | (u, .bytes bs) => field bs 0x10 8 == 65536 && field bs 0x38 2 == 1 && field bs 0x3B 1 == 4 && field bs 0x3C 2 == 1 && (match u.readDesc x .desc 0 8 with
        | (v, .bytes pb) => wordOk (BitVec.ofNat 64 (field pb 0 8)) && (match v.rangePages x 0 65536 with
          | (_, ps, .bytes []) => ps == [0] && ps.all fun p => homeOf p == .here && stackOf p == 0
          | _ => false)
        | _ => false)
      | _ => false) = true) ∧
    ((queued.stk 0).bankRun = none ∧ (queued.stk 0).bankq = [bop0] ∧ (queued.stk 0).combines = []) ∧ (((comb 0).updStk 0 fun x => { x with bankq := [bop0] }).stk 0).bankq = [bop0] ∧
    ((done.stk 0).bankRun = some { bop0 with idx := 1, wrote := [0x1000] }) ∧
    (status (comb 0) = 0 ∧ status (comb 1) = 1 ∧ status (comb 3) = 3 ∧ ((comb 1).stk 0).bankRun = none) := by
  refine ⟨witness ?_, witness ?_, witness ?_, ?_, ?_, ?_, ?_⟩ <;> decide +kernel

/-- Each operation stands next in a running program. -/
theorem test_witness_BankWords :
    ([(0 : W64), opWord 1 8191 0 0 32, opWord 2 0 64 128 32, opWord 3 0 64 128 1, opWord 4 0 64 128 8, opWord 5 0 64 128 8, opWord 6 0 64 0 8, opWord 7 0 64 128 8, opWord 8 0 64 128 8,
      opWord 9 0 0 16383 8, opWord 10 0 64 128 8, opWord 11 0 64 255 0, opWord 12 0 64 254 0, opWord 13 0 64 0 0].all wordOk) = true := by decide +kernel
theorem test_witness_BankWords_state (w : W64) :
    ((bankWith w).stk 0).bankRun = some { bop0 with words := [w] } ∧ (bankWith w).l2d = [] ∧ (bankWith w).poison = [] := ⟨rfl, rfl, rfl⟩

/-- The first element of a partition of columns 0 and 1 has a PE and an operator; ports 0 and 1, node 0 and gate 0 are the partition's. -/
def arrFields (port oper node : Nat) : List (Nat × Nat × Nat) :=
  [(1010, 0, 0x8020), (1010, 1, 3), (1010, 5, 1), (1010, 7, 1), (1010, 11, 1),
   (0, 0, 0x80), (0, 1, 1), (0, 2, 0x188), (0, 0x20, 20), (0, 0x14, 17), (0, 0x16, 18), (0, 0x0B, oper), (0, 0x24, 20), (0, 0x26, 20),
   (1, 0x28, 13), (768, 0, port), (768, 2, 0x55), (768, 3, 2), (769, 0, 2), (832, 0, node), (864, 0, 0x40)]
def arrStack (fs : List (Nat × Nat × Nat)) : Stack :=
  { fs.foldl (fun (x : Stack) f => x.setField 0 0 f.1 f.2.1 f.2.2) {} with
    parts := [(0, { running := some 0 })], plane := [0, 1, 768, 769, 832, 864].map fun e => (e, 0) }
def arrState (fs : List (Nat × Nat × Nat)) (a : ACtx) : State :=
  { dieState [] {} with stks := [(0, { arrStack fs with ctxs := [(0, a)] })] }
def h0 : ArrH := ⟨0, 0, 0, false⟩
def tok1 : Tok := { data := 7 }
def mark1 : Tok := { data := 1, v := false, mark := true }

theorem runs_of {s : State} {st e : Nat} {h : ArrH} {P : ACtx → Prop} [∀ a, Decidable (P a)]
    (hb : (s.holder st e == some h && (s.arr h).any fun a => s.arrMoves h a && decide (P a)) = true) : ∃ a, RunsOn s st e h a (s.net h) ∧ P a := by
  rw [Bool.and_eq_true, beq_iff_eq] at hb
  obtain ⟨a, ha, hp⟩ := Option.any_eq_true _ _ |>.mp hb.2
  rw [Bool.and_eq_true, decide_eq_true_eq] at hp
  exact ⟨a, ⟨hb.1, ha, hp.1, rfl⟩, hp.2⟩

/-- A PE with a token; with an empty one that ends a trick; with none; with no room. -/
theorem test_witness_ProcessingElements :
    let has (t : Tok) := arrState (arrFields 1 0 1) { actx0 with bufs := [(0x20, [(0, t)])] }
    let full := arrState (arrFields 1 0 1) { actx0 with bufs := [(0x20, [(0, tok1)]), (64 + 13, List.replicate 4 (0, tok1))] }
    let Ready := fun (s : State) (t : Tok) => ∃ a, RunsOn s 0 0 h0 a (s.net h0) ∧ (s.net h0).g.pe 0 = true ∧ (s.net h0).peInputs 0 = [0x20] ∧ a.token 0x20 (s.net h0).ac = some t ∧
      a.fresh 17 (s.net h0).ac = true ∧ (s.net h0).room a 0 17 = true
    Ready (has tok1) tok1 ∧ Ready (has { tok1 with v := false, eot := true }) { tok1 with v := false, eot := true } ∧
    (∃ a, RunsOn (arrState (arrFields 1 0 1) actx0) 0 0 h0 a ((arrState (arrFields 1 0 1) actx0).net h0) ∧ a.token 0x20 0 = none) ∧
    ∃ a, RunsOn full 0 0 h0 a (full.net h0) ∧ (full.net h0).room a 0 17 = false := by
  refine ⟨runs_of ?_, runs_of ?_, runs_of ?_, runs_of ?_⟩ <;> decide +kernel

theorem test_witness_ControlOperators :
    let ops (oper : Nat) (d : Dyn) := arrState (arrFields 1 oper 1) { actx0 with bufs := [(0x24, [(0, tok1)]), (0x26, [(0, tok1)])], dyn := d }
    let Ready := fun (s : State) (k : Nat) => ∃ a, RunsOn s 0 0 h0 a (s.net h0) ∧ (s.net h0).opReady a 0 k = true ∧ a.token 0x24 0 = some tok1 ∧ a.token 0x26 0 = some tok1 ∧
      (s.net h0).fan 0 18 ≠ [] ∧ (s.net h0).room a 0 18 = true
    Ready (ops 1 {}) 1 ∧ Ready (ops 2 {}) 2 ∧ Ready (ops 2 { ops := [(0, { busy := true })] }) 2 ∧ Ready (ops 3 {}) 3 ∧
      Ready (ops 3 { ops := [(0, { busy := true, held := some tok1 })] }) 3 ∧ Ready (ops 4 {}) 4 := by
  refine ⟨runs_of ?_, runs_of ?_, runs_of ?_, runs_of ?_, runs_of ?_, runs_of ?_⟩ <;> decide +kernel

/-- A hop of a token and of a marker, groups at a node, a token at a gate, markers at a PE and at a node. -/
theorem test_witness_NetworkSteps :
    let four (t : Tok) := (List.range 4).map fun i => (832 * 64 + i, [(0, t)])
    let s (bufs : FMap (List (Nat × Tok))) := arrState (arrFields 1 0 1) { actx0 with bufs := bufs }
    let n := (s []).net h0
    (∃ a, RunsOn (s [(64 + 13, [(0, tok1)])]) 0 1 h0 a ((s [(64 + 13, [(0, tok1)])]).net h0) ∧ a.head (64 * 1 + 13) 0 = some tok1 ∧ ((s []).net h0).fan 1 13 ≠ [] ∧ a.fresh (64 * 1 + 13) 0 = true ∧
      ((s []).net h0).room a 1 13 = true) ∧
    (∃ a, RunsOn (s (four tok1)) 0 832 h0 a ((s (four tok1)).net h0) ∧ (List.range 4).map (fun t => a.token (64 * 832 + t) 0) = [some tok1, some tok1, some tok1, some tok1] ∧
      a.fresh (64 * 832) 0 = true ∧ ((s []).net h0).g.fmt 0 = 1) ∧
    (∃ a, RunsOn (s (four { tok1 with eot := true })) 0 832 h0 a ((s (four { tok1 with eot := true })).net h0) ∧ ((s (four { tok1 with eot := true })).net h0).resultRoom a 832 = true ∧
      a.token (64 * 832) 0 = some { tok1 with eot := true }) ∧
    (∃ a, RunsOn (s [(64 * 864, [(0, tok1)])]) 0 864 h0 a ((s [(64 * 864, [(0, tok1)])]).net h0) ∧ a.head (64 * 864) 0 = some tok1 ∧ ((s []).net h0).g.gateOn 0 = true ∧
      a.fresh (64 * 864) 0 = true ∧ a.gateHeld 0 < 64) ∧
    (∃ a, RunsOn (s [(0x20, [(0, mark1)])]) 0 0 h0 a ((s [(0x20, [(0, mark1)])]).net h0) ∧ ((s []).net h0).g.oper 0 = 0 ∧ ((s []).net h0).g.pe 0 = true ∧ ((s []).net h0).peInputs 0 ≠ [] ∧
      (∀ f ∈ ((s []).net h0).peInputs 0, a.marked (64 * 0 + f) 0 = true) ∧ a.fresh (64 * 0 + 17) 0 = true ∧ ((s []).net h0).room a 0 17 = true) ∧
    ∃ a, RunsOn (s (four mark1)) 0 832 h0 a ((s (four mark1)).net h0) ∧ n.g.fmt 0 ≠ 0 ∧ (∀ t < 4, a.marked (64 * 832 + t) 0 = true) ∧ a.fresh (64 * 832) (0 - 3) = true ∧ n.emitRoom a 832 0 = true := by
  refine ⟨runs_of ?_, runs_of ?_, runs_of ?_, runs_of ?_, runs_of ?_, runs_of ?_⟩ <;> decide +kernel

/-- A read port that reads 8 bytes of a page of stack 0, a store port with a token, a weight port, words for a copy-fed port. -/
def pat8 : Pat := ⟨0x1000, 3, 1, 0, 0, [(2, 8), (2, 16)]⟩
theorem test_witness_StreamPorts :
    let a0 : ACtx := { actx0 with pats := [(0, pat8), (1, pat8)] }
    let read := { arrState (arrFields 1 0 1) { a0 with dyn := { ports := [(0, { fetched := [(5, false)] })] } } with cc := 2 }
    let ahead := arrState (arrFields 1 0 1) (a0.fired (64 * 768) 0)
    let store := arrState (arrFields 1 0 1) { a0 with bufs := [(64 * 769, [(0, tok1)])] }
    let weight := arrState (arrFields 5 0 1) { a0 with dyn := { ports := [(0, { fetched := [(5, true)] })] } }
    let unfed := arrState (arrFields 5 0 1) a0
    let cut := { ahead with dies := [] }
    let empty := arrState (arrFields 1 0 1) a0
    let full := arrState (arrFields 1 0 1) { a0 with dyn := { ports := [(0, { fetched := List.replicate 16 (0, false) })] } }
    let fed (ws : FMap (List (W16 × W64))) (q : PortSt) (run : Option Nat) : State :=
      { dieState [] {} with stks := [(0, { arrStack (arrFields 3 0 1) with ctxs := [(0, { actx0 with dyn := { ports := [(0, q)] } })], inbox := ws, parts := [(0, { running := run })] })] }
    (∃ a, RunsOn read 0 768 h0 a (read.net h0) ∧ (read.net h0).g.mode 0 = 1 ∧ (read.net h0).g.width 0 = 1 ∧ read.runs h0 = true ∧ a.pat 0 = some pat8 ∧
      a.fresh (64 * 768) (read.net h0).ac = true ∧ (a.port 0).fetched = [(5, false)] ∧ (read.net h0).mayStart a 0 = true ∧ (read.net h0).emitRoom a 768 0 = true) ∧
    (∃ a, RunsOn ahead 0 768 h0 a (ahead.net h0) ∧ a.fresh (64 * 768) (ahead.net h0).ac = false ∧ a.fresh (64 * 768 + 1) (ahead.net h0).ac = true ∧ (ahead.net h0).g.mode 0 = 1 ∧
      (ahead.stk 0).ptab.owner 768 = some 0 ∧ ahead.slotOpen 0 0 = true ∧ ahead.loadedCtxs 0 0 = [h0] ∧ a.pat 0 = some pat8 ∧ (a.port 0).fetched = [] ∧ (ahead.net h0).g.width 0 = 1 ∧
      0 < pat8.tricks * pat8.tokens ∧ (a.port 0).fault = false ∧ (a.port 0).pos = 0 ∧ (a.port 0).tok = 0 ∧
      (ahead.readToken h0 a 0 pat8 (pat8.ordinals 0 0)).2.isSome = true ∧ (ahead.readToken h0 a 0 pat8 (pat8.ordinals 0 0)).1.stks = ahead.stks) ∧
    (∃ a, RunsOn cut 0 768 h0 a (cut.net h0) ∧ a.pat 0 = some pat8 ∧ (a.port 0).fetched = [] ∧ (a.port 0).fault = false ∧ (cut.readToken h0 a 0 pat8 (pat8.ordinals 0 0)).2 = none) ∧
    (∃ a, RunsOn empty 0 768 h0 a (empty.net h0) ∧ a.fresh (64 * 768) (empty.net h0).ac = true ∧ (empty.net h0).g.mode 0 = 1 ∧ empty.runs h0 = true ∧ (a.port 0).fetched = []) ∧
    (∃ a, RunsOn full 0 768 h0 a (full.net h0) ∧ a.pat 0 = some pat8 ∧ 16 * (full.net h0).g.width 0 ≤ (a.port 0).fetched.length) ∧
    ({ read with cc := 22 } : State).slotOpen 0 0 = false ∧
    (∃ a, RunsOn store 0 769 h0 a (store.net h0) ∧ a.fresh (64 * 769) (store.net h0).ac = true ∧ (store.net h0).g.mode 1 = 2 ∧ (store.net h0).g.width 1 = 1 ∧ a.pat 1 = some pat8 ∧
      (a.port 1).fault = false ∧ (a.port 1).trk = 0 ∧ a.head (64 * 769) (store.net h0).ac = some tok1 ∧ (a.port 1).pos < pat8.tricks ∧ pat8.ordinals 0 0 ≠ []) ∧
    (∃ a, RunsOn weight 0 832 h0 a (weight.net h0) ∧ a.fresh (64 * 832 + 1) (weight.net h0).ac = true ∧
      [2 * 0, 2 * 0 + 1].filter (fun p => (weight.net h0).t.port 0 p && (weight.net h0).g.mode p == 5) = [0] ∧ weight.runs h0 = true ∧ weight.holder 0 768 = some h0 ∧
      (weight.net h0).g.fmt 0 ≠ 0 ∧ (weight.net h0).g.width 0 = 1 ∧ (Net.nodeSt a 0).loaded < tileTokens ((weight.net h0).g.fmt 0) ∧ (a.port 0).fetched = [(5, true)]) ∧
    (∃ a, RunsOn unfed 0 832 h0 a (unfed.net h0) ∧ a.fresh (64 * 832 + 1) (unfed.net h0).ac = true ∧
      [2 * 0, 2 * 0 + 1].filter (fun p => (unfed.net h0).t.port 0 p && (unfed.net h0).g.mode p == 5) = [0] ∧ unfed.runs h0 = true ∧ (a.port 0).fetched = []) ∧
    (let s := fed [(0, [(0x55, 9)])] {} none
     FMap.at' [] (s.stk 0).inbox 0 = [(0x55, 9)] ∧ (s.stk 0).ptab.owner 768 = some 0 ∧ s.loadedCtxs 0 0 = [h0] ∧ s.planeFor h0 768 2 = 0x55 ∧ s.runs h0 = false) ∧
    (let s := fed [(0, [(0x56, 9)])] {} none
     FMap.at' [] (s.stk 0).inbox 0 = [(0x56, 9)] ∧ s.loadedCtxs 0 0 = [h0] ∧ s.planeFor h0 768 2 ≠ 0x56) ∧
    let s := fed [] { words := [1, 2] } (some 0)
    ∃ a, RunsOn s 0 768 h0 a (s.net h0) ∧ (s.net h0).g.mode 0 = 3 ∧ s.runs h0 = true ∧ a.fresh (64 * 768) (s.net h0).ac = true ∧ (s.net h0).emitRoom a 768 0 = true ∧
      (a.port 0).words = [1, 2] ∧ (s.net h0).g.wcount 0 ≤ 2 ∧ (s.net h0).mayStart a 0 = true := by
  refine ⟨runs_of ?_, runs_of ?_, runs_of ?_, runs_of ?_, runs_of ?_, ?_, runs_of ?_, runs_of ?_, runs_of ?_, ?_, ?_, runs_of ?_⟩ <;> decide +kernel

/-- A source that owes a marker; waves that are not all passed, that commit, that fail a region; a stalled wave; a record that is written. -/
theorem test_witness_MarkersAndCommits :
    let a0 : ACtx := { actx0 with pats := [(0, pat8), (1, pat8)] }
    let w0 : MWave := ⟨1, false, false, 0⟩
    let due := arrState (arrFields 1 0 0) { a0 with dyn := { ports := [(0, { pos := 2, since := 2 })] } }
    let sent (passed : FMap Nat) (bal : FMap Int) := arrState (arrFields 1 0 0) { a0 with wave := some w0, passed := passed, bal := bal }
    let n := (sent [] []).net h0
    let all := (n.functionPoints.map fun p => (p, 1))
    let late := { sent [] [] with cc := 2 ^ 40 }
    (∃ a, RunsOn due 0 768 h0 a (due.net h0) ∧ (due.net h0).sources = [0] ∧ (a.port 0).tok = 0 ∧ a.fresh (64 * 768) (due.net h0).ac = true ∧ (due.net h0).markDue a 0 = true ∧ (due.net h0).emitRoom a 768 0 = true ∧ a.wave = none) ∧
    (∃ a, (sent [] []).arr h0 = some a ∧ (sent [] []).arrMoves h0 a = true ∧ a.wave = some w0 ∧ n.sources ≠ [] ∧ ∃ p ∈ n.sources, a.injected p = false) ∧
    (∃ a, (sent all []).arr h0 = some a ∧ (sent all []).arrMoves h0 a = true ∧ (∀ p ∈ n.sources, a.injected p = true) ∧ (∀ pt ∈ n.functionPoints, a.roundsPast pt = 1) ∧ n.tracksClear a = true ∧ a.badRegion 1 = none) ∧
    n.tracksClear { a0 with bufs := [(64 * 1 + 13, [(0, mark1)])] } = false ∧
    (∃ a, (sent all [(16, 1)]).arr h0 = some a ∧ (∀ p ∈ n.sources, a.injected p = true) ∧ (∀ pt ∈ n.functionPoints, a.roundsPast pt = 1) ∧ n.tracksClear a = true ∧ (a.badRegion 1).isSome = true) ∧
    (∃ a, late.arr h0 = some a ∧ a.wave = some w0 ∧ a.undo = none ∧ a.faulted = false ∧ (late.planeFor h0).markto < late.ac - w0.since) ∧
    (∃ a, (arrState (arrFields 1 0 0) { a0 with undo := some (0x20, 15) }).arr h0 = some a ∧ a.undo = some (0x20, 15)) ∧ (∃ a, (arrState (arrFields 1 0 0) { a0 with undo := some (0x22, 3) }).arr h0 = some a ∧ a.undo = some (0x22, 3)) ∧ ((arrState (arrFields 1 0 0) a0).die 0).held = [] := by
  refine ⟨runs_of ?_, ⟨_, rfl, ?_⟩, ⟨_, rfl, ?_⟩, ?_, ⟨_, rfl, ?_⟩, ⟨_, rfl, ?_⟩, ⟨_, rfl, ?_⟩, ⟨_, rfl, ?_⟩, ?_⟩ <;> decide +kernel

def cmdState (op : Nat) (save : W64) (cs : FMap ACtx) (saves : FMap SavedArr) : State :=
  { State.reset with saves := saves, stks := [(0, { arrStack (arrFields 1 0 0) with ctxs := cs, parts := [(0, { busy := some (op, 0), saveAddr := save })] })] }
theorem test_witness_ArrayCommands :
    let parked : FMap ACtx := [(0, { actx0 with parked := true })]
    let area : SavedArr := ⟨0, 0x8020, [3, 0, 0, 0, 1, 0, 1, 0, 0, 0], [], actx0, none⟩
    let waits : ACtx := { actx0 with dyn := { ports := [(0, { fault := true })] } }
    let fits := fun (area : Nat) => area % 4096 = 0 ∧ area < memTop ∧ area + (Config.saveLen area).toNat ≤ memTop
    let suc : Splice := { cfg := [], arr := actx0, taken := [] }
    let s := cmdState 3 0x3000 [] [(0x3000, area)]
    (∀ (op : Nat) (cs : FMap ACtx) (a : W64), ((cmdState op a cs []).stk 0).parts.fetch 0 = some { busy := some (op, 0), saveAddr := a }) ∧
    ((cmdState 2 0x3000 parked []).arr h0 = some { actx0 with parked := true }) ∧ ((cmdState 1 0x3001 [(0, actx0)] []).arr h0 = some actx0) ∧
    (s.arr h0 = none ∧ s.saves.fetch 0x3000 = some area ∧ area.stack = 0 ∧ area.pcol.toNat = (s.stk 0).field 0 0 1010 0 ∧ area.masks = (List.range 10).map fun i => BitVec.ofNat 16 ((s.stk 0).field 0 0 1010 (1 + i))) ∧
    fits 0x3000 ∧ ¬fits 0x3001 ∧ ((cmdState 1 0 [(0, waits)] []).arr h0 = some waits ∧ ((cmdState 1 0 [(0, waits)] []).net h0).g.mode 0 = 1) ∧ ¬(∃ q ∈ actx0.dyn.ports, q.2.fault = true) ∧
    ({ arrStack (arrFields 1 0 0) with ctxs := [(0, actx0)], splices := [(0, suc)] } : Stack).splices.fetch 0 = some suc := by
  have hl := (Config.saveLen 0x3000).isLt
  exact ⟨fun _ _ _ => rfl, rfl, rfl, by decide +kernel, ⟨rfl, by decide, by unfold memTop; omega⟩, fun h => by revert h; simp, by decide +kernel, by decide, rfl⟩

theorem test_witness_ArrayScheduling :
    let idle (cs : FMap ACtx) (run : Option Nat) : State := { State.reset with stks := [(0, { arrStack (arrFields 1 0 0) with ctxs := cs, parts := [(0, { running := run })] })] }
    let a0 : ACtx := { actx0 with pats := [(0, pat8), (1, pat8)], dyn := { ports := [(0, { fetched := List.replicate 8 (0, false) })] } }
    let p (st : State) := (st.eligible 0 0 0, st.eligible 0 0 1, st.eligible 0 0 2, st.eligible 0 0 3)
    let none' := idle [] none
    let both := idle [(0, a0), (1, a0)] none
    let stays := idle [(0, a0)] (some 0)
    p (idle [(0, a0)] none) = (true, false, false, false) ∧ p none' = (false, false, false, false) ∧ (p both).1 = true ∧ (∀ d < 4, both.wantsOut 0 0 d = false) ∧
    (let y := arrStack (arrFields 1 0 0)
     let trick : ACtx := { a0 with dyn := { ports := [(0, { tok := 1 })] } }
     let both : State := { State.reset with stks := [(0, { y with ctxs := [(0, a0)], splices := [(0, { cfg := y.cfg, arr := trick, taken := [] })] })] }
     both.arr ⟨0, 0, 0, true⟩ = some trick ∧ ∃ q ∈ (both.net ⟨0, 0, 0, true⟩).sources, (trick.port q).tok ≠ 0) ∧
    (stays.net h0).atBoundary a0 = true ∧ p stays = (true, false, false, false) ∧ (stays.stk 0).ptab.owns 0 864 = true ∧ (stays.stk 0).ptab.owns 0 2 = false ∧ (stays.stk 0).plane.fetch 32 = none ∧
    ((idle [(1, a0)] (some 1)).stk 0).plane.fetch 0 = some 0 ∧ (idle [(1, a0)] (some 1)).leftBy 0 0 0 0 = true ∧
    (idle [(0, { a0 with bufs := [(64 * 1 + 13, [(0, tok1)])] }), (1, a0)] (some 1)).leftBy 0 0 0 1 = false := by
  decide +kernel

/-- Elements of a context with a successor: not in use, in use, and passed by the final marker. -/
theorem test_witness_Splicing :
    let suc : Splice := { cfg := [], arr := actx0, taken := [] }
    let s (a : ACtx) : State := { State.reset with stks := [(0, { arrStack (arrFields 1 0 0) with ctxs := [(0, a)], splices := [(0, suc)] })] }
    let n := (s actx0).net h0
    let final : ACtx := { actx0 with wave := some ⟨1, true, false, 0⟩, finals := (n.points 0).map fun p => (p, 0) }
    (s actx0).arr h0 = some actx0 ∧ n.t.owns 0 0 = true ∧ n.t.owns 0 2 = false ∧ n.points 32 = [] ∧ n.points 0 ≠ [] ∧ n.t.owns 0 32 = true ∧
    (s final).arr h0 = some final ∧ ∀ pt ∈ n.points 0, final.finals.fetch pt = some 0 ∧ 0 < ({ s final with cc := 2 } : State).ac := by
  decide +kernel

theorem owns_invalid {t : PTab} {k e : Nat} (h : t.valid k = false) : t.owns k e = false := by
  unfold PTab.owns PTab.col PTab.port PTab.node PTab.gate
  simp [h]

/-- An offset of no field, a field whose context is loaded and one whose is not, table entries that are refused and accepted, TQ, an error field. -/
theorem test_witness_ConfigurationFields :
    let s (cs : FMap ACtx) : State := { State.reset with stks := [(0, { arrStack (arrFields 1 0 0) with ctxs := cs })] }
    let new : PTab := fun j n => if 16 * j + n = 0 then 0x8020 else (State.reset.stk 0).ptab j n
    cfgAt 0x110000 = none ∧ ((cfgAt 0x14).bind ((s []).stk 0).cfgOwner = some 0 ∧ wrongValue 0 5 0 = false) ∧ ((s [(0, actx0)]).stk 0).ctxs.fetch 0 = some actx0 ∧
    (cfgAt 0x3F314).any (fun a => a.e == 1011 && a.f == 5) = true ∧ (cfgAt 0x3F200).any (fun a => a == ⟨0, 0, 1010, 0⟩) = true ∧ (cfgAt 0x3F230).any (fun a => a.f == 12) = true ∧
    HasContext ((s [(0, actx0)]).stk 0) 0 ∧ (∀ j, ¬HasContext (State.reset.stk 0) j) ∧ bits (0x8020 : W32) 10 5 = 0 ∧ SoundTable new ∧ new.valid 0 = true := by
  refine ⟨by decide +kernel, by decide +kernel, rfl, by decide +kernel, by decide +kernel, by decide +kernel, ⟨0, by decide, .inl rfl⟩, ?_, by decide, ⟨fun k hk hv => ?_, fun j hj k hk hne e _ ho => ?_, by decide +kernel⟩, by decide +kernel⟩
  · rintro j ⟨c, -, h | h⟩ <;> cases h
  · have hk0 : k = 0 := by
      match k, hk with
      | 0, _ => rfl
      | 1, _ => exact absurd hv (by decide +kernel)
      | 2, _ => exact absurd hv (by decide +kernel)
      | 3, _ => exact absurd hv (by decide +kernel)
    subst hk0
    exact ⟨by decide +kernel, by decide +kernel, by decide +kernel, by decide +kernel⟩
  · have h0 : ∀ i < 4, i ≠ 0 → PTab.valid (fun j n => if 16 * j + n = 0 then 0x8020 else (State.reset.stk 0).ptab j n) i = false := by decide +kernel
    by_cases hj0 : j = 0
    · exact absurd ho.2 (by rw [owns_invalid (h0 k hk (by omega))]; exact Bool.false_ne_true)
    · exact absurd ho.1 (by rw [owns_invalid (h0 j hj hj0)]; exact Bool.false_ne_true)

/-- A row that the running operation touches, a ninth spare, a first spare, and a row that a lower entry names. -/
theorem test_witness_FailedRows :
    let bopr : BankOp := { bop0 with words := [opWord 1 0 0 0 1] }
    let st (rows : FMap W32) (b : Option BankOp) : State := { State.reset with stks := [(0, { bankRun := b, rows := rows })] }
    let eight := (List.range 8).map fun i => (i, BitVec.ofNat 32 (0xC0000000 + i))
    let two := st [(0, 0x80000005)] none
    (bopr.touches 0 = true ∧ ((st [] (some bopr)).stk 0).bankRun = some bopr) ∧ (bits (0xC0000005 : W32) 14 4 = 0 ∧ entryRow 0xC0000005 = 20480 ∧ bit (0xC0000005 : W32) 30 = true) ∧
    (8 ≤ ((st eight none).stk 0).sparesUsed 8 0xC0000008 ∧ FMap.sorted eight = true ∧ (∀ q ∈ eight, q.1 < 1024)) ∧
    ((State.reset.stk 0).sparesUsed 3 0xC0000005 < 8 ∧ ¬SparedBy (fun j => FMap.at' 0 (State.reset.stk 0).rows j) 20480) ∧
    ((two.stk 0).sparesUsed 3 0xC0000005 < 8 ∧ ∃ j < 3, bit (FMap.at' 0 (two.stk 0).rows j) 31 = true ∧ entryRow (FMap.at' 0 (two.stk 0).rows j) = 20480) := by
  refine ⟨by decide +kernel, by decide +kernel, by decide +kernel, ⟨by decide +kernel, ?_⟩, by decide +kernel, 0, by decide, by decide +kernel, by decide +kernel⟩
  rintro ⟨i, h, -⟩
  exact absurd h (by simp [State.reset, State.stk, FMap.at', FMap.fetch, bit])

/-! ### Witnesses: waves, the fault service, links, bring-up -/

/-- Four splits and a parked group, with the split of highest PC at entry 3; two splits at one PC; a wave whose budget has run out. -/
def fourSplits : ExecSt :=
  { together with splits := (List.range 4).map fun i => (i, { pc := BitVec.ofNat 64 (64 * i), mask := BitVec.ofNat 32 (255 * 256 ^ i - if i = 3 then 0x80000000 else 0) })
                  parked := [0x80000000], ptimer := 4096, conv := false, pcf := [(31, 512)] }
theorem test_witness_WaveEvents :
    let v : Wave := { tWave with ex := fourSplits }
    let meet : Wave := { tWave with ex := { apart with splits := [(0, { pc := 64, mask := 0xFFFF }), (1, { pc := 64, mask := 0xFFFF0000 })] } }
    (v.ex.ptimer ≥ 4096 ∧ v.hnd = none ∧ v.halted = false ∧ v.ex.parked = [0x80000000] ∧ FMap.sorted v.ex.splits = true ∧ (∀ k < 8, (v.ex.splits.fetch k).isSome = true ↔ k < 4) ∧
      v.ex.wellFormed v.live = true ∧ v.ex.splits.fetch 3 = some { pc := 192, mask := 0x7F000000 }) ∧
    (∃ p q, meet.ex.splits.fetch 0 = some p ∧ meet.ex.splits.fetch 1 = some q ∧ q.pc = p.pc ∧ meet.ex.parked = [] ∧ p.stall = .none ∧ q.waitTo = 0 ∧ meet.fcm &&& p.mask = 0) ∧
    (let f := plain ⟨.none, 0⟩ ⟨.s, 1⟩ ⟨.s, 2⟩ 0
     let q : Split := { pc := 0, mask := 1, stall := .earlier, form := some (.ctxsave f) }
     q.stall ≠ .none ∧ ∃ f, q.form = some (.ctxsave f) ∨ q.form = some (.ctxload f)) ∧
    (∀ p ∈ fourSplits.splits, p.2.stall = .none) ∧ lone.waves.fetch (64 * 0 + 0) = some tWave := by
  refine ⟨by decide +kernel, ⟨_, _, rfl, rfl, by decide +kernel⟩, ⟨by decide, _, .inl rfl⟩, by decide +kernel, rfl⟩

theorem test_witness_WatchdogAndFreeze :
    let v : Wave := { tWave with wlim := 5 }
    let since : Wave := { inHandler with ex := { together with splits := [(0, { pc := 0, mask := 0xFFFFFFFF, ask := some ⟨0, 1, 5, 7⟩ })] } }
    ((one v tTeam).waves.fetch 0 = some v ∧ v.halted = false ∧ v.hnd = none ∧ v.wlim ≠ 0 ∧ v.wdog = 0) ∧
    let s : State := { one since tTeam with dies := [(0, { ucc := 65543 })] }
    ∃ p ∈ s.waves, ∃ q ∈ p.2.ex.splits, ∃ a, q.2.ask = some a ∧ a.core = 0 ∧ a.tag = 1 ∧ a.since + 65536 ≤ (s.die (dieOf 0)).ucc :=
  ⟨by decide +kernel, _, .head _, _, .head _, _, rfl, rfl, rfl, by decide +kernel⟩

theorem test_witness_Retirement :
    let s (t : Team) : State := { dieState [] {} with teams := [(1, t)], grids := [(1, grid0), (2, { grid0 with lr := { lr0 with nteams := 2 } })] }
    ((s tTeam).teams.fetch 1 = some tTeam ∧ tTeam.draining = false) ∧
    (let t : Team := { tTeam with draining := true, alive := 0 }
     (s t).teams.fetch 1 = some t ∧ t.children = 0) ∧
    ((s tTeam).grids.fetch 1 = some grid0 ∧ grid0.lr.nteams ≤ grid0.retired + 1) ∧ (s tTeam).grids.fetch 2 = some { grid0 with lr := { lr0 with nteams := 2 } } := by
  decide +kernel

def rec0 : Rec := { code := 0x0B, source := 0 }
theorem test_witness_FaultRing :
    let s (held : List Rec) (head : W64) := dieState [] { fqbase := 0x10000, fqlog2n := 6, fqtail := 64, fqhead := head, held := held }
    let room := fun (x : Die) => 6 ≤ bits x.fqlog2n 0 5 ∧ bits x.fqlog2n 0 5 ≤ 16 ∧ x.fqbase.toNat < 12 * 2 ^ 36 ∧ (x.fqtail - x.fqhead).toNat < 2 ^ bits x.fqlog2n 0 5
    let lost : List Rec := List.replicate 256 { rec0 with code := 0x35 }
    let space := fun (x : Die) => 2 ^ bits x.fqlog2n 0 5 - (x.fqtail - x.fqhead).toNat
    let full := fun (l : List Rec) => 256 ≤ (l.filter fun q => q.code == 0x34 || q.code == 0x35).length
    room ((s [rec0] 1).die 0) ∧ ¬room ((s [rec0] 0).die 0) ∧ ((s [rec0] 1).die 0).held = [rec0] ∧ ((s [] 1).die 0).held = [] ∧
    (space ((s lost 0).die 0) ≤ lost.length ∧ full lost) ∧ (([] : List Rec).length < space ((s [] 1).die 0) ∧ ¬full []) ∧ ([rec0].length < space ((s [rec0] 60).die 0)) ∧
    (let x := (s [rec0] 1).die 0
     ({ s [rec0] 1 with reserved := [(512, (7, []))] } : State).isReserved (lineOf (x.fqbase.toNat + 64 * (x.fqtail.toNat % 2 ^ bits x.fqlog2n 0 5))) = true) := by
  decide +kernel

/-- A wave that waits for the service under SEQ 3, a team with a task, a port, an arrival, and walks to a leaf and to none. -/
theorem test_witness_ServiceCommands :
    let w : Wave := { trapWave with pcode := some .page, seq := 3, stopped := true, plane := 1 }
    let s := one w tTeam
    let port : ACtx := { actx0 with dyn := { ports := [(0, { fault := true })] }, pseq := [(0, 3)] }
    let arr : HeldArr := { arr0 0x1000 .page with seq := 3 }
    let held := dieState [(64, 1), (65, 0x10)] { arrivals := [arr] }
    let leaf := { dieState [(64, 1), (65, 0x10), (0x1000, 1), (0x1001, 0x20), (0x2000, 1), (0x2001, 0x30), (0x3000, 0x3F)] {} with free := 0 }
    (s.waves.fetch 0 = some w ∧ w.pcode.isSome = true ∧ w.seq = 3 ∧ w.ex.parked = [] ∧ w.ex.fullRecord = none ∧ w.nested = false ∧ w.hnd = none ∧ w.trapvec ≠ 0 ∧ w.live ≠ 0 ∧ w.team ≠ 0) ∧
    (s.waiter 0 0 4 0 = none ∧ s.waiter 0 0 3 0 = some (.wave 0) ∧ Code.ofNum 0x04 ≠ none ∧ s.waves.fetch (srcWave 0x00000201) = none ∧ FMap.sorted s.waves = true) ∧
    ((arrState (arrFields 1 0 0) port).waiter 0 0 3 2 = some (.port h0 0)) ∧ held.waiter 0 4 3 9 = some (.arrival arr) ∧
    ((held.die 0).stlb.any (fun e => e.covers 0 1 0x40000000) = false ∧ (match held.walk 0 1 0x40000000 with | .leaf _ => false | _ => true) = true) ∧
    (leaf.die 0).stlb.any (fun e => e.covers 0 1 0) = true ∧ (match leaf.walk 0 1 0 with | .leaf e => e.base == 0 | _ => false) = true := by
  decide +kernel

/-- A domain in which this device is member 5 under incarnation 2, and member 7 is known. -/
def inDomain (a : Agent) : State := dieState [] ({ myinc := 0x01050002 : Die }.setAgent 7 a)
theorem test_witness_PeerMessages :
    let ok := inDomain { st := .alive, inc := 3 }
    let held := { ok with reserved := [(32, (7, List.replicate 96 1))] }
    let marked := { ok with poison := [(32, true)] }
    let x := ok.die 0
    ((x.agent 7).st = .alive ∧ (x.agent 7).inc = 3 ∧ bit x.myinc 24 = true ∧ ok.linkq = []) ∧ ((inDomain { st := .dead, inc := 3 }).die 0).agent 7 = { st := .dead, inc := 3 } ∧
    (msgLine (.store 0x1000 [1] [true]) = some 32 ∧ held.reserved.fetch 32 = some (7, List.replicate 96 1)) ∧
    (ok.reserved = [] ∧ ok.poisoned 32 = false ∧ marked.poisoned 32 = true ∧ 0x1000 + 64 ≤ memTop ∧ sigFull 1 = false ∧
      (match exec (.scaleupMessage 0 7 3 (.release 0x1000 [1] 1 6 5)) ok with | .next t => (t.slotOf 32).isSome | _ => false) = true) ∧ (List.replicate 96 (1 : W8)).length = 32 * 3 := by
  decide +kernel

theorem test_witness_DomainMembers :
    let s (a : Agent) (cc : Nat) : State := { inDomain a with cc := cc }
    let silent := fun (s : State) => let x := s.die 0; let a := x.agent 7
      bit x.myinc 24 = true ∧ bits x.myinc 16 8 ≠ 7 ∧ a.st = .alive ∧ a.since + 125000 * max 1 (bits x.hbmiss 0 8) ≤ s.cc
    let overdue := fun (s : State) => let x := s.die 0; let a := x.agent 7
      a.st = .recovering ∧ x.recmax ≠ 0 ∧ a.since + 2500 * x.recmax.toNat ≤ s.cc
    silent (s { st := .alive, inc := 3 } 500000) ∧ ¬silent (s { st := .alive, inc := 3 } 499999) ∧ overdue (s { st := .recovering, inc := 3 } 2500000000) ∧ ¬overdue (s { st := .recovering, inc := 3 } 2499999999) ∧
    (((s { st := .dead, inc := 3 } 0).die 0).agent 7).st = .dead ∧ (((s { st := .recovering, inc := 3, scrubbing := true } 0).die 0).agent 7).scrubbing = true ∧
    bit ((dieState [] {}).die 0).myinc 24 = false ∧ (s { st := .dead, inc := 3 } 0).linkq = [] := by
  decide +kernel

theorem test_witness_PortsAndHost :
    let s := dieState [] { bootst := 4 }
    (bit ((s.die 0).bootst) 2 = true ∧ 0x1000 + 64 ≤ memTop ∧ s.isReserved 32 = false ∧ s.poisoned 32 = false ∧ ({ s with poison := [(32, true)] } : State).poisoned 32 = true) ∧
    ({ s with reserved := [(32, (7, []))] } : State).isReserved 32 = true ∧
    (memTop ≤ (0x0100000000000000 : W64).toNat ∧ rowOf 0x0100000000000000 ≠ .supervisor) ∧
    ((blockOf 0x01FFF20000000000).any (fun b => b.1.widthOk b.2 8 && !b.1.widthOk b.2 3) = true ∧ rowOf 0x01FFF20000000000 = .supervisor) ∧
    bit (FMap.at' 0 (s.die 0).link 0) 40 = false ∧ bit (s.die 1).cpstat 0 = false := by
  decide +kernel

/-- BOOTPC where SYSROOT is not valid, where the fetch faults, and where it does not; no failed row. -/
theorem test_witness_ResetAndBringUp :
    let sys (t : List TlbEnt) : State := { State.reset with dies := [(0, { sysroot := 1, stlb := t })] }
    let started (s : State) : State := s.setDie 0 { s.die 0 with bootpc := 0x1000, bootst := (s.die 0).bootst ||| 1 }
    (∀ l < 4, State.reset.failedLine l = false) ∧ bit (State.reset.die 0).bootst 0 = false ∧ bit (State.reset.die 0).sysroot 0 = false ∧ bit ((sys []).die 0).sysroot 0 = true ∧
    (match ((started (sys [])).fetchWord 320 0 true 0x1000).2 with | .fault _ => true | _ => false) = true ∧
    (match ((started (sys [⟨0, 0, 0, 30, 0, false, true, true, true⟩])).fetchWord 320 0 true 0x1000).2 with | .word _ => true | _ => false) = true := by
  decide +kernel

theorem test_witness_FleetAndRegisters :
    let s (a : Option Ageing) (st : W32) : State := { dieState [] { ageing := a, agestat := st } with cc := 50000 }
    (((s none 0x80).die 0).agestat = 0x80 ∧ ((s none 0).die 0).agestat ≠ 0x80 ∧ ((s none 0).die 0).ageing = none) ∧
    (∃ p ∈ lone.teams, clusterOf p.2.core = 10 * 0 + 0) ∧ (s none 0).teams = [] ∧
    (((s (some ⟨3, 9, 0, 50000⟩) 0x80).die 0).ageing = some ⟨3, 9, 0, 50000⟩ ∧ 50000 ≤ (s none 0).cc) ∧ ((s (some ⟨4, 0, 15, 25000⟩) 0x80).die 0).ageing = some ⟨4, 0, 15, 25000⟩ ∧
    (let x : Die := { ageNext := [(1, 3)] }
     x.ageNext = [(1, 3)]) ∧
    ((s none 0).agenda = [] ∧ ({ s none 0 with phase := 1 } : State).phase ≠ 0 ∧ (s none 0).waves = [] ∧ ∀ e < 2, ((s none 0).die e).agents = [] ∧ bit ((s none 0).die e).myinc 24 = false ∧ ((s none 0).die e).ageing = none) ∧
    (let clt : List W16 := [1, 2, 9, 0, 0, 0, 0, 0, 0, 0]
     clt.length = 10 ∧ clt.contains 9 = true ∧ clt.all (fun v => decide (v.toInt ≤ (9 : W16).toInt)) = true) ∧
    bits ((s none 0).die 0).thr 0 4 ≤ 8 ∧ (arrStack (arrFields 1 0 0)).hold = false ∧ ({ arrStack (arrFields 1 0 0) with hold := true } : Stack).hold = true ∧
    (bit (State.reset.die 0).run 0 || bit (State.reset.die 1).run 0) = false ∧ (bit ((dieState [] { run := 1 }).die 0).run 0 || false) = true := by
  refine ⟨by decide +kernel, ⟨_, .head _, by decide +kernel⟩, by decide +kernel⟩

/-! ### Witnesses: rounding, special functions, conversions of blocks -/

theorem exactVal_fin (n : Bool) (m : Nat) (e : Int) : exactVal (.fin n m e) = (if n then -1 else 1) * (m : ℚ) * (2 : ℚ) ^ e := rfl

/-- The numbers 2^-149, 1, 3, 4, 128, -150, -149 and 127 of FP32. -/
theorem tiny_value : valueOf .f32 1 = .fin false 1 (-149) := by decide +kernel
theorem one_value : valueOf .f32 0x3F800000 = .fin false 8388608 (-23) := by decide +kernel
theorem three_value : valueOf .f32 0x40400000 = .fin false 12582912 (-22) := by decide +kernel

theorem maxFin_f32 : Fmt.f32.maxFin = (16777215, 104) := by decide +kernel
theorem maxFin_f16 : Fmt.f16.maxFin = (2047, 5) := by decide +kernel
theorem maxFin_e2m1 : Fmt.e2m1.maxFin = (3, 1) := by decide +kernel

/-- A number in range, one that FTZ makes zero, one in E2M1. -/
theorem test_witness_RoundedValues :
    let q := fun (f : Fmt) (m : Nat) (e : Int) => max ((Nat.log2 m : Int) + e) (1 - f.bias) - f.mant
    let r := fun (f : Fmt) (m : Nat) (e : Int) => (roundTo m e (q f m e) false .rne 0).1
    ((1 : Nat) ≠ 0 ∧ (r .f16 1 0 : ℚ) * 2 ^ q .f16 1 0 ≤ (Fmt.f16.maxFin.1 : ℚ) * 2 ^ Fmt.f16.maxFin.2) ∧
    ((r .f32 1 (-149) : ℚ) * 2 ^ q .f32 1 (-149) ≤ (Fmt.f32.maxFin.1 : ℚ) * 2 ^ Fmt.f32.maxFin.2 ∧ (r .f32 1 (-149) : ℚ) * 2 ^ q .f32 1 (-149) < (2 : ℚ) ^ (1 - (shapeOf .f32).2.2)) ∧
    (r .e2m1 3 1 : ℚ) * 2 ^ q .e2m1 3 1 ≤ (Fmt.e2m1.maxFin.1 : ℚ) * 2 ^ Fmt.e2m1.maxFin.2 := by
  have h1 : (roundTo 1 0 (-10) false .rne 0).1 = 1024 := by decide +kernel
  have h2 : (roundTo 1 (-149) (-149) false .rne 0).1 = 1 := by decide +kernel
  have h3 : (roundTo 3 1 1 false .rne 0).1 = 3 := by decide +kernel
  have q1 : max ((Nat.log2 1 : Int) + 0) (1 - Fmt.f16.bias) - Fmt.f16.mant = -10 := by decide +kernel
  have q2 : max ((Nat.log2 1 : Int) + -149) (1 - Fmt.f32.bias) - Fmt.f32.mant = -149 := by decide +kernel
  have q3 : max ((Nat.log2 3 : Int) + 1) (1 - Fmt.e2m1.bias) - Fmt.e2m1.mant = 1 := by decide +kernel
  simp only [q1, q2, q3, h1, h2, h3]
  refine ⟨⟨by decide, ?_⟩, ⟨?_, ?_⟩, ?_⟩ <;> simp [maxFin_f32, maxFin_f16, maxFin_e2m1, shapeOf] <;> norm_num

/-- A zero times an infinity, unlike infinities, numbers that cancel, NaNs. -/
theorem test_witness_SpecialOperands :
    let one' := Fv.fin false 1 0
    let none' := Fv.fin true 1 0
    ((Fv.fin true 0 0).isZero = true ∧ (Fv.inf false).isInf = true) ∧ ((Fv.nan true).isNan = true ∧ (Fv.nan true).isSnan = true ∧ one'.isNan = false) ∧
    (IsNumber one' ∧ IsNumber none' ∧ exactVal one' + exactVal none' = 0) ∧ exactVal one' * exactVal one' + exactVal none' = 0 ∧
    (expoOf .f32 1 = 0 ∧ fracOf .f32 1 ≠ 0) ∧ (Less (.inf true) one' ∧ Less none' one' ∧ Below (.fin true 0 0) (.fin false 0 0)) := by
  refine ⟨by decide, by decide, ⟨⟨rfl, rfl⟩, ⟨rfl, rfl⟩, ?_⟩, ?_, by decide, .inl ⟨rfl, by decide⟩, .inr (.inr ⟨⟨rfl, rfl⟩, ⟨rfl, rfl⟩, ?_⟩), .inr (by decide)⟩ <;>
    simp [exactVal_fin]

/-- The operands of the exact cases and of the overflows; a packed one. -/
theorem test_witness_ExactAndOverflowing :
    let x := fun b => exactVal (valueOf .f32 b)
    let big := (Fmt.f32.maxFin.1 : ℚ) * 2 ^ Fmt.f32.maxFin.2
    big < |(x 1)⁻¹| ∧ (|x 0x3F800000| = (2 : ℚ) ^ (0 : Int) ∧ |(x 0x3F800000)⁻¹| ≤ big) ∧ x 0x40800000 = (4 : ℚ) ^ (1 : Int) ∧ x 0xC3150000 = ((-149 : Int) : ℚ) ∧
    x 0x42FE0000 = ((127 : Int) : ℚ) ∧ 128 ≤ x 0x43000000 ∧ x 0xC3160000 ≤ -150 ∧
    (IsNumber (valueOf .f16 0x3C00) ∧ IsNumber (valueOf .f32 0x3F800000) ∧ exactVal (valueOf .f32 0x3F800000) = exactVal (valueOf .f16 0x3C00)) ∧
    valueOf .bf16 0x7F80 = .inf false ∧ valueOf .f16 0x7D00 = .nan true := by
  have v4 : valueOf .f32 0x40800000 = .fin false 8388608 (-21) := by decide +kernel
  have w1 : valueOf .f32 0xC3150000 = .fin true 9764864 (-16) := by decide +kernel
  have w2 : valueOf .f32 0x42FE0000 = .fin false 16646144 (-17) := by decide +kernel
  have w3 : valueOf .f32 0x43000000 = .fin false 8388608 (-16) := by decide +kernel
  have w4 : valueOf .f32 0xC3160000 = .fin true 9830400 (-16) := by decide +kernel
  have u1 : valueOf .f16 0x3C00 = .fin false 1024 (-10) := by decide +kernel
  simp only [tiny_value, one_value, v4, w1, w2, w3, w4, u1, exactVal_fin, maxFin_f32]
  refine ⟨?_, ⟨?_, ?_⟩, ?_, ?_, ?_, ?_, ?_, ⟨⟨rfl, rfl⟩, ⟨rfl, rfl⟩, ?_⟩, by decide +kernel, by decide +kernel⟩ <;> norm_num

/-- The reciprocal of 3 and of its root, and a root between two neighbours. -/
theorem test_witness_ReciprocalBounds :
    let x := exactVal (valueOf .f32 0x40400000)
    IsNumber (valueOf .f32 0x40400000) ∧ x ≠ 0 ∧ expoOf .f32 0x40400000 ≠ 0 ∧ |x⁻¹| ≤ (Fmt.f32.maxFin.1 : ℚ) * 2 ^ Fmt.f32.maxFin.2 ∧ ((2 : ℚ) ^ (-2 : Int) ≤ |x⁻¹| ∧ |x⁻¹| < (2 : ℚ) ^ ((-2 : Int) + 1)) ∧
    0 < x ∧ ((4 : ℚ) ^ (-1 : Int) ≤ x⁻¹ ∧ x⁻¹ < (4 : ℚ) ^ ((-1 : Int) + 1)) := by
  simp only [three_value, exactVal_fin, maxFin_f32]
  refine ⟨⟨rfl, rfl⟩, ?_, by decide, ?_, ⟨?_, ?_⟩, ?_, ?_, ?_⟩ <;> norm_num
theorem test_witness_SquareRoots : ∃ m e, valueOf .f32 0x40400000 = .fin false m e ∧ m ≠ 0 := ⟨_, _, three_value, by decide⟩

/-- The operand 3, with its power and its logarithm, and the operand 1. -/
theorem test_witness_TranscendentalBounds :
    let x : ℝ := ((exactVal (valueOf .f32 0x40400000) : ℚ) : ℝ)
    let one' : ℝ := ((exactVal (valueOf .f32 0x3F800000) : ℚ) : ℝ)
    (IsNumber (valueOf .f32 0x40400000) ∧ exactVal (valueOf .f32 0x40400000) ≠ 0) ∧ (-150 < x ∧ x < 128 ∧ (2 : ℝ) ^ (3 : Int) ≤ (2 : ℝ) ^ x ∧ (2 : ℝ) ^ x < (2 : ℝ) ^ ((3 : Int) + 1)) ∧
    (0 < x ∧ 2 < x ∧ (2 : ℝ) ^ (0 : Int) ≤ |Real.logb 2 x| ∧ |Real.logb 2 x| < (2 : ℝ) ^ ((0 : Int) + 1)) ∧ 1 / 2 ≤ one' ∧ one' ≤ 2 := by
  have hx : exactVal (valueOf .f32 0x40400000) = 3 := by rw [three_value, exactVal_fin]; norm_num
  have h1 : exactVal (valueOf .f32 0x3F800000) = 1 := by rw [one_value, exactVal_fin]; norm_num
  have l1 : (1 : ℝ) ≤ Real.logb 2 3 := by
    rw [Real.le_logb_iff_rpow_le (by norm_num) (by norm_num)]
    norm_num
  have l2 : Real.logb 2 3 < 2 := by
    rw [Real.logb_lt_iff_lt_rpow (by norm_num) (by norm_num)]
    norm_num
  have hn : IsNumber (valueOf .f32 0x40400000) := by rw [three_value]; exact ⟨rfl, rfl⟩
  simp only [hx, h1]
  push_cast
  refine ⟨⟨hn, by norm_num⟩, ⟨by norm_num, by norm_num, by norm_num, by norm_num⟩, ⟨by norm_num, by norm_num, ?_, ?_⟩, by norm_num, by norm_num⟩
  · rw [abs_of_nonneg (by linarith)]; simpa using l1
  · rw [abs_of_nonneg (by linarith)]; norm_num; exact l2

/-- Blocks with an infinity, of zeros, and with a greatest magnitude between 4 and 8. -/
theorem test_witness_MxBlock :
    (∃ i < 32, ¬IsNumber (if i = 7 then Fv.inf false else .fin false 0 0)) ∧ (∀ i < 32, exactVal ((fun _ => Fv.fin false 0 0) i) = 0) ∧
    let xs := fun i : Nat => Fv.fin false i (-2)
    (∀ i < 32, IsNumber (xs i)) ∧ (∃ i < 32, (2 : ℚ) ^ (2 : Int) ≤ |exactVal (xs i)|) ∧ ∀ i < 32, |exactVal (xs i)| < (2 : ℚ) ^ ((2 : Int) + 1) := by
  refine ⟨⟨7, by decide, fun h => by exact absurd h.2 (by decide)⟩, fun _ _ => by simp [exactVal_fin], fun _ _ => ⟨rfl, rfl⟩, ⟨31, by decide, by simp [exactVal_fin]; norm_num⟩, ?_⟩
  intro i hi
  have : (i : ℚ) < 32 := by exact_mod_cast hi
  simp only [exactVal_fin]
  simp only [Bool.false_eq_true, if_false, one_mul]
  rw [abs_of_nonneg (by positivity)]
  norm_num
  linarith

/-! ### Witnesses: the checks before an effect, and soft errors -/

theorem checked {i : Instr} {s : State} {P : Forms.Spec → Ctx → Prop} [∀ p x, Decidable (P p x)]
    (h : (match Forms.spec i with | some (p, f) => (s.here f).any fun x => decide (P p x) | none => false) = true) :
    ∃ p f x, Forms.spec i = some (p, f) ∧ s.here f = some x ∧ P p x := by
  split at h
  · rename_i p f hp
    cases hx : s.here f with
    | none => rw [hx] at h; cases h
    | some x => rw [hx, Option.any_some, decide_eq_true_eq] at h; exact ⟨p, f, x, hp, hx, h⟩
  · cases h

/-- What an instruction reads as its operand A. -/
theorem reads_a {x : Ctx} {p : Forms.Spec} {n : W8} (h : p.a ≠ [] ∧ x.f.a = ⟨.s, n⟩) : ReadsReg x p ⟨.s, n⟩ :=
  .inl ⟨h.1, by rw [h.2]; exact ⟨.inl rfl, rfl, .inl rfl⟩⟩

/-- A wave of 8 registers, a diverged one, and waves with an error in s2 that cannot be corrected, and one that can. -/
def smallWave : State := one { tWave with lregs := 3 } tTeam
def badS2 (hard : Bool) : State := one { tWave with spois := [(2, hard)] } tTeam

theorem test_witness_ChecksBeforeEffect :
    let add := fun (d : Dst) (a : Src) => Instr.intAdd .v .i32 (plain d a ⟨.v, 3⟩ 0)
    let Found := fun (i : Instr) (s : State) (P : Forms.Spec → Ctx → Prop) => ∃ p f x, Forms.spec i = some (p, f) ∧ s.here f = some x ∧ P p x
    Found (add ⟨.v, 1⟩ ⟨.v, 8⟩) smallWave (fun p x => OutsideBlock x p) ∧
    Found (add ⟨.v, 8⟩ ⟨.v, 1⟩) smallWave (fun p x => OutsideBlock x p) ∧
    Found (.tret (plain ⟨.none, 0⟩ ⟨.s, 0⟩ ⟨.s, 0⟩ 0)) lone (fun _ x => OwnIllop (.tret (plain ⟨.none, 0⟩ ⟨.s, 0⟩ ⟨.s, 0⟩ 0)) x) ∧
    Found (.barArr (plain ⟨.none, 0⟩ ⟨.imm, 0⟩ ⟨.s, 0⟩ 9)) lone (fun _ x => x.noBar = true) ∧
    Found (.intAdd .s .i32 (plain ⟨.s, 1⟩ ⟨.s, 2⟩ ⟨.s, 3⟩ 0)) apartState (fun p x => ¬OutsideBlock x p ∧ x.conv = false ∧ x.f.d.file = .s) ∧
    Found (.wrsys (plain ⟨.sys, 0x31⟩ ⟨.s, 1⟩ ⟨.s, 0⟩ 0)) apartState (fun p x => ¬OutsideBlock x p ∧ x.conv = false ∧ x.f.d.num.toNat = 0x31) ∧
    Found (.vcvtMxf4F32 .rne (plain ⟨.v, 1⟩ ⟨.v, 2⟩ ⟨.s, 0⟩ 0)) apartState (fun p x => ¬OutsideBlock x p ∧ x.conv = false) ∧
    Found (add ⟨.v, 1⟩ ⟨.s, 2⟩) (badS2 true) (fun p x => ¬OutsideBlock x p ∧ x.conv = true ∧ ReadsReg x p ⟨.s, 2⟩ ∧ x.errorOf ⟨.s, 2⟩ = some true) ∧
    Found (add ⟨.v, 1⟩ ⟨.s, 2⟩) (badS2 false) (fun p x => ¬OutsideBlock x p ∧ x.conv = true ∧ ReadsReg x p ⟨.s, 2⟩ ∧ x.errorOf ⟨.s, 2⟩ = some false) := by
  have d1 : ∀ x p, Decidable (OutsideBlock x p) := fun x p => by unfold OutsideBlock; infer_instance
  have d2 : ∀ f x, Decidable (OwnIllop (.tret f) x) := fun f x => by unfold OwnIllop; infer_instance
  have reads : ∀ {i : Instr} {s : State} {b : Bool}, (∃ p f x, Forms.spec i = some (p, f) ∧ s.here f = some x ∧ ¬OutsideBlock x p ∧ x.conv = true ∧ (p.a ≠ [] ∧ x.f.a = ⟨.s, 2⟩) ∧ x.errorOf ⟨.s, 2⟩ = some b) →
      ∃ p f x, Forms.spec i = some (p, f) ∧ s.here f = some x ∧ ¬OutsideBlock x p ∧ x.conv = true ∧ ReadsReg x p ⟨.s, 2⟩ ∧ x.errorOf ⟨.s, 2⟩ = some b := by
    rintro i s b ⟨p, f, x, h1, h2, h3, h4, h5, h6⟩
    exact ⟨p, f, x, h1, h2, h3, h4, reads_a h5, h6⟩
  refine ⟨?_, ?_, ?_, ?_, ?_, ?_, ?_, reads ?_, reads ?_⟩ <;> (try unfold OutsideBlock) <;> (try unfold OwnIllop) <;> exact checked (by decide +kernel)

/-- A wave with a handler, outside it. -/
theorem test_witness_FaultsEnterHandler : (∃ x, (one trapWave tTeam).here noF = some x ∧ x.w.trapvec ≠ 0 ∧ x.w.hnd = none) ∧
    Code.trap ≠ .page ∧ Code.trap ≠ .wdog ∧ Code.trap ≠ .eccu ∧ Code.trap ≠ .splitx := ⟨⟨_, rfl, by decide +kernel⟩, by decide⟩

/-- A correctable error in a source of `vadd` and of a conversion, and none that cannot be corrected. -/
theorem test_witness_CorrectedErrors :
    let i := Instr.intAdd .v .i32 (plain ⟨.v, 1⟩ ⟨.s, 2⟩ ⟨.v, 3⟩ 0)
    (∃ r ∈ arithTable ++ logicTable ++ fieldTable ++ divTable ++ satTable, i = r.1 .v .i32 (plain ⟨.v, 1⟩ ⟨.s, 2⟩ ⟨.v, 3⟩ 0)) ∧
    ∃ p f x, Forms.spec i = some (p, f) ∧ (badS2 false).here f = some x ∧ x.conv = true ∧ ReadsReg x p ⟨.s, 2⟩ ∧ ∀ r, ReadsReg x p r → x.errorOf r ≠ some true := by
  refine ⟨⟨_, .head _, rfl⟩, ?_⟩
  obtain ⟨p, f, x, h1, h2, h3, h4, h5, h6, h7, h8⟩ := checked (i := .intAdd .v .i32 (plain ⟨.v, 1⟩ ⟨.s, 2⟩ ⟨.v, 3⟩ 0)) (s := badS2 false)
    (P := fun p x => x.conv = true ∧ (p.a ≠ [] ∧ x.f.a = ⟨.s, 2⟩) ∧ x.w.spois = [(2, false)] ∧ x.w.vpois = [] ∧ x.w.apois = [] ∧ (x.tm.map fun t => t.errors x.cc) = some []) (by decide +kernel)
  refine ⟨p, f, x, h1, h2, h3, reads_a h4, fun r _ hr => ?_⟩
  obtain ⟨file, num⟩ := r
  cases file <;> simp only [Ctx.errorOf, h5, h6, h7, FMap.fetch, reduceCtorEq] at hr
  · split at hr <;> cases hr
  · obtain ⟨t, ht, he⟩ := Option.bind_eq_some_iff.mp hr
    rw [ht] at h8
    rw [Option.map_some, Option.some.injEq] at h8
    rw [h8] at he
    cases he

theorem test_witness_SoftErrors :
    lone.waves.fetch (wkey 0 0) = some tWave ∧ lone.teams.fetch 1 = some tTeam ∧ (∃ k ∈ (buffered.core 0).l1, lineOf k.1 = 1) ∧
    ¬((∃ k ∈ (lone.core 0).l1, lineOf k.1 = 1) ∨ ∃ k ∈ (lone.core 0).icache, lineOf k.1 = 1) ∧ homeOf (128 * 32) = .here ∧ (17 : Nat) < 18 := by decide +kernel

/-! ### One step each: the worked results of the spec -/

/-- The first wave after an instruction. -/
def after (i : Instr) (s : State) : Wave :=
  match exec i s with
  | .next t => (t.waves.fetch 0).getD loneWave
  | _ => loneWave
/-- Register n at some lanes. -/
def lanesAt (w : Wave) (n : Nat) (ls : List Nat) : List W32 := ls.map fun l => w.vreg n l
/-- A register by lane. -/
def colOf (n : Nat) (f : Nat → Nat) : FMap W32 := (List.range 32).map fun l => (32 * n + l, BitVec.ofNat 32 (f l))

/-- The columns of the example of R139 and R220. -/
def divWave : Wave :=
  { tWave with
    k := [(0, 0xFFFFFFFF), (1, 0x7FFFFFFF)]
    v := colOf 1 (fun l => match l with | 0 => 0x7FFE | 1 => 0x80000000 | 2 => 5 | 31 => 9 | _ => 0xFFFFFFF9) ++
      colOf 2 (fun l => match l with | 0 => 5 | 1 => 0xFFFFFFFF | 2 => 0 | 31 => 0 | _ => 2) ++ colOf 3 (fun _ => 0x11111111) }
def vThree (d a b : W8) : F := plain ⟨.v, d⟩ ⟨.v, a⟩ ⟨.v, b⟩ 0
def byK1 (f : F) : F := { f with g := 1 }

theorem test_vdiv : let w := after (.intDiv .v .i32 (byK1 (vThree 3 1 2))) (teamState divWave)
    lanesAt w 3 [0, 1, 2, 3, 30, 31] = [0x1999, 0x80000000, 0xFFFFFFFF, 0xFFFFFFFD, 0xFFFFFFFD, 0x11111111] ∧ w.flags = 8 := by decide +kernel
theorem test_vrem : let w := after (.intRem .v .i32 (byK1 (vThree 3 1 2))) (teamState divWave)
    lanesAt w 3 [0, 1, 2, 3, 30, 31] = [1, 0, 5, 0xFFFFFFFF, 0xFFFFFFFF, 0x11111111] ∧ w.flags = 8 := by decide +kernel
theorem test_vadd_i16_sat : let w := after (.intAddSat .v .i16 (vThree 5 1 2)) (teamState divWave)
    lanesAt w 5 [0, 1, 2, 3, 31] = [0x7FFF, 0xFFFFFFFF, 5, 0xFFFFFFFB, 9] ∧ w.flags = 16 := by decide +kernel

/-- The bit operations on one uniform value (R140, R218, R220). -/
def bitsWave : Wave := { tWave with s := [(2, 0xDEADBEEF), (3, 0xAB), (4, 0x12345678)] }
def s1After (i : Instr) : W64 := (after i (teamState bitsWave)).sreg 1
def sTwo (b : Src) (imm8 : W8) : F := plain ⟨.s, 1⟩ ⟨.s, 2⟩ b imm8
theorem test_sbfe_u32 : s1After (.intBfe .s .u32 (sTwo ⟨.imm, 8⟩ 12)) = 0xDBE := by decide +kernel
theorem test_sbfe_i32 : s1After (.intBfe .s .i32 (sTwo ⟨.imm, 8⟩ 12)) = 0xFFFFFFFFFFFFFDBE := by decide +kernel
theorem test_sbfi : s1After (.intBfi .s .u32 (ext (plain ⟨.s, 1⟩ ⟨.s, 3⟩ ⟨.imm, 0⟩ 8) 28 ⟨.s, 2⟩ 0 0)) = 0xBEADBEEF := by decide +kernel
theorem test_sfshl : s1After (.intFshl .s .u32 (ext (sTwo ⟨.s, 4⟩ 0) 8 ⟨.imm, 0⟩ 0 0)) = 0xADBEEF12 := by decide +kernel
theorem test_sfshr : s1After (.intFshr .s .u32 (ext (sTwo ⟨.s, 4⟩ 0) 8 ⟨.imm, 0⟩ 0 0)) = 0xEF123456 := by decide +kernel
theorem test_srot : s1After (.intRot .s .u32 (sTwo ⟨.imm, 36⟩ 0)) = 0xEADBEEFD := by decide +kernel
theorem test_sshl : s1After (.intShl .s .u32 (sTwo ⟨.imm, 36⟩ 0)) = 0 := by decide +kernel
theorem test_spopc : s1After (.intPopc .s .u32 (sTwo ⟨.s, 0⟩ 0)) = 0x18 := by decide +kernel
theorem test_sbrev : s1After (.intBrev .s .u32 (sTwo ⟨.s, 0⟩ 0)) = 0xF77DB57B := by decide +kernel

/-- The affine example of R73 to R75, R77: three operations in turn, and the demotion of its column. -/
def affWave (base : W64) (stride : Int) : Wave := { tWave with a := [(3, ⟨base, BitVec.ofInt 32 stride⟩)], v := colOf 8 (fun l => (0x100 + 2 ^ 32 - 16 * l) % 2 ^ 32) }
theorem test_aadd : ((after (.aadd (ext (plain ⟨.a, 3⟩ ⟨.a, 3⟩ ⟨.imm, 0⟩ 0) 0x200 ⟨.s, 0⟩ 0 0)) (teamState (affWave 0xFFFFFFFFFFFFFF00 (-16)))).areg 3) = ⟨0x100, -16⟩ := by decide +kernel
theorem test_ashl : let w := after (.ashl (plain ⟨.a, 3⟩ ⟨.a, 3⟩ ⟨.imm, 27⟩ 0)) (teamState (affWave 0x100 (-16)))
    w.areg 3 = ⟨0x800000000, 0x80000000⟩ ∧ w.flags = 0 := by decide +kernel
theorem test_ashl_overflow : let w := after (.ashl (plain ⟨.a, 3⟩ ⟨.a, 3⟩ ⟨.imm, 1⟩ 0)) (teamState (affWave 0x800000000 (-2147483648)))
    w.areg 3 = ⟨0x800000000, 0x80000000⟩ ∧ w.pcode = some .afovf := by decide +kernel
theorem test_vtoa_i32 : let w := after (.vtoa .i32 (plain ⟨.a, 5⟩ ⟨.v, 8⟩ ⟨.s, 0⟩ 0)) (teamState (affWave 0 0))
    w.areg 5 = ⟨0x100, -16⟩ ∧ w.flags = 0 := by decide +kernel
theorem test_vtoa_u32 : let w := after (.vtoa .u32 (plain ⟨.a, 5⟩ ⟨.v, 8⟩ ⟨.s, 0⟩ 0)) (teamState (affWave 0 0))
    w.areg 5 = ⟨0, 0⟩ ∧ w.flags = 2 := by decide +kernel

/-- The three conversions of one column (R147, R150). -/
def cvtWave : Wave := { tWave with v := colOf 1 fun l => match l with | 0 => 0x40200000 | 1 => 0xC0600000 | 2 => 0x4788B800 | 3 => 0x35800000 | 4 => 0x80000000 | _ => 0x7FC00000 }
theorem test_vcvt_i32 : let w := after (.cvt .v .i32 .f32 .rne (vThree 2 1 0)) (teamState cvtWave)
    lanesAt w 2 [0, 1, 2, 3, 4, 31] = [2, 0xFFFFFFFC, 0x11170, 0, 0, 0] := by decide +kernel
theorem test_vcvt_f16 : lanesAt (after (.cvt .v .f16 .f32 .rne (vThree 3 1 0)) (teamState cvtWave)) 3 [0, 1, 2, 3, 4, 31] =
    [0x4100, 0xC300, 0x7C00, 0x10, 0x8000, 0x7E00] := by decide +kernel
theorem test_vcvt_e4m3x2 : lanesAt (after (.vcvtE4m3x2F32 .rne (vThree 4 1 1)) (teamState cvtWave)) 4 [0, 1, 2, 3, 4, 31] =
    [0x4242, 0xC6C6, 0x7F7F, 0, 0x8080, 0x7F7F] := by decide +kernel

/-- A scan with holes (R271, R272). -/
def scanWave : Wave := { tWave with k := [(0, 0xFFFFFFFF), (3, 0xB5)], v := colOf 1 (fun l => if l < 8 then l + 1 else 0) ++ colOf 2 (fun _ => 0xFFFFFFFF) }
def withK3 (d : Dst) (b : Src) : F := plain d ⟨.v, 1⟩ b 3
theorem test_scan : lanesAt (after (.scan .addI32 (withK3 ⟨.v, 2⟩ ⟨.s, 0⟩)) (teamState scanWave)) 2 [0, 1, 2, 4, 5, 6, 7, 8] =
    [1, 0xFFFFFFFF, 4, 9, 15, 0xFFFFFFFF, 23, 0xFFFFFFFF] := by decide +kernel
theorem test_scan_x : lanesAt (after (.scanX .addI32 (withK3 ⟨.v, 2⟩ ⟨.s, 0⟩)) (teamState scanWave)) 2 [0, 1, 2, 4, 5, 6, 7, 8] =
    [0, 0xFFFFFFFF, 1, 4, 9, 0xFFFFFFFF, 15, 0xFFFFFFFF] := by decide +kernel
theorem test_red : ((after (.red .addI32 (withK3 ⟨.s, 4⟩ ⟨.s, 0⟩)) (teamState scanWave)).sreg 4) = 23 := by decide +kernel
theorem test_shfl_up : lanesAt (after (.shflUp (withK3 ⟨.v, 2⟩ ⟨.imm, 1⟩)) (teamState scanWave)) 2 [0, 1, 2, 4, 5, 7, 8] =
    [1, 0xFFFFFFFF, 3, 5, 5, 8, 0xFFFFFFFF] := by decide +kernel

end Sys2Proof.Tests
end

section
/-! What a source operand gives at a lane (R71): one reading rule per register file, then the statement about all of them. -/

namespace Sys2Proof.Forms

/-- The word's own field is the immediate where no extension stands, and where IMM32 serves the form itself (R169). -/
theorem immValue_of_field {own : Bool} {f : F} (n : W8) (h : f.x = false ∨ own = true) :
    immValue own f ⟨.imm, n⟩ = n.signExtend 64 := by
  rcases h with h | h <;> simp [immValue, h]

/-- The extension's IMM32 is the immediate where it stands and does not serve the form itself (R169). -/
theorem immValue_of_extension {own : Bool} {f : F} (n : W8) (hx : f.x = true) (hown : own = false) :
    immValue own f ⟨.imm, n⟩ = f.imm32.signExtend 64 := by
  simp [immValue, hx, hown]

end Sys2Proof.Forms

namespace Sys2Proof.Machine

/-! ### Values at a lane -/

/-- R71's row for an a register, computed on the integers. -/
theorem Aff.lane_eq_ofInt (r : Aff) (l : Nat) : r.lane l = r.base + BitVec.ofInt 64 (l * r.stride.toInt) := by
  have hstride : sext64 r.stride = BitVec.ofInt 64 r.stride.toInt := rfl
  rw [Aff.lane, hstride, BitVec.ofInt_mul, BitVec.ofInt_natCast]

/-- R72: the odd register holds the high half of the pair. -/
theorem Wave.vpair_eq_ofNat (w : Wave) (n l : Nat) :
    w.vpair n l = BitVec.ofNat 64 ((w.vreg n l).toNat + 2 ^ 32 * (w.vreg (n + 1) l).toNat) := by
  have hlow : (w.vreg n l).toNat < 2 ^ 32 := (w.vreg n l).isLt
  have hhigh : (w.vreg (n + 1) l).toNat < 2 ^ 32 := (w.vreg (n + 1) l).isLt
  apply BitVec.eq_of_toNat_eq
  rw [Wave.vpair, BitVec.toNat_append, ← Nat.shiftLeft_add_eq_or_of_lt hlow, Nat.shiftLeft_eq, BitVec.toNat_ofNat]
  omega

/-- R81: a team register that was written in this cc reads as it stood before. -/
theorem Team.treg_of_written (t : Team) {cc : Nat} (n : Nat) (h : t.tcc = cc + 1) : t.treg cc n = FMap.at' 0 t.told n := if_pos h

/-- R81: with no write in this cc a team register reads as it stands. -/
theorem Team.treg_of_unwritten (t : Team) {cc : Nat} (n : Nat) (h : t.tcc ≠ cc + 1) : t.treg cc n = FMap.at' 0 t.t n := if_neg h

/-- R80: the team registers that an issue reads are those of the wave's team. -/
theorem Ctx.treg_of_team {x : Ctx} {t : Team} (n : Nat) (h : x.tm = some t) : x.treg n = t.treg x.cc n := by
  rw [Ctx.treg, h]

/-! ### Sources -/

section
variable (x : Ctx) (own pair : Bool) (n : W8) (l : Nat)

@[simp] theorem Ctx.src_s : x.src own pair ⟨.s, n⟩ l = x.w.sreg n.toNat := rfl
@[simp] theorem Ctx.src_a : x.src own pair ⟨.a, n⟩ l = (x.w.areg n.toNat).lane l := rfl
@[simp] theorem Ctx.src_v_single : x.src own false ⟨.v, n⟩ l = (x.w.vreg n.toNat l).zeroExtend 64 := rfl
@[simp] theorem Ctx.src_v_pair : x.src own true ⟨.v, n⟩ l = x.w.vpair n.toNat l := rfl
@[simp] theorem Ctx.src_k : x.src own pair ⟨.k, n⟩ l = (x.k n.toNat).zeroExtend 64 := rfl
@[simp] theorem Ctx.src_t : x.src own pair ⟨.t, n⟩ l = x.treg n.toNat := rfl
@[simp] theorem Ctx.src_imm : x.src own pair ⟨.imm, n⟩ l = Forms.immValue own x.f ⟨.imm, n⟩ := rfl

@[simp] theorem Ctx.affSrc_s : x.affSrc own ⟨.s, n⟩ = ⟨x.w.sreg n.toNat, 0⟩ := rfl
@[simp] theorem Ctx.affSrc_imm : x.affSrc own ⟨.imm, n⟩ = ⟨x.src own false ⟨.imm, n⟩ 0, 0⟩ := rfl

end

end Sys2Proof.Machine

namespace Sys2Proof.Claim

open Sys2Proof.Machine

/-- R71, R218: a 64-bit operation takes all the bits of a source. -/
theorem opB_64 (x : Ctx) (t : ITy) (o : Src) (l : Nat) : opB x t 64 o l = x.src false (Forms.wide t) o l :=
  BitVec.setWidth_eq _

/-- Settles O12: each file's reading rule in turn; the affine lane, the pair and the team register by their own lemmas. -/
theorem sourceValues : Obligations.SourceValues := by
  unfold Obligations.SourceValues
  intro x own pair n l
  refine ⟨x.src_s own pair n l, x.src_k own pair n l, ?affine, x.src_v_single own n l, ?wide, ?unwritten, ?written,
    ?field, ?extension, x.affSrc_s own n, x.affSrc_imm own n, fun t o => ⟨fun _ => rfl, opB_64 x t o l⟩⟩
  case affine => exact (x.src_a own pair n l).trans (Aff.lane_eq_ofInt _ l)
  case wide => exact (x.src_v_pair own n l).trans (x.w.vpair_eq_ofNat n.toNat l)
  case unwritten =>
    intro t hteam hcc
    rw [Ctx.src_t, Ctx.treg_of_team n.toNat hteam, t.treg_of_unwritten n.toNat hcc]
  case written =>
    intro t hteam hcc
    rw [Ctx.src_t, Ctx.treg_of_team n.toNat hteam, t.treg_of_written n.toNat hcc]
  case field => exact fun h => (x.src_imm own pair n l).trans (Forms.immValue_of_field n h)
  case extension => exact fun ⟨hx, hown⟩ => (x.src_imm own pair n l).trans (Forms.immValue_of_extension n hx hown)

end Sys2Proof.Claim
end

section
/-! The typed integer forms (R136 to R140, R217 to R223): the model computes on numbers, the claims on bit vectors. A stem of the
model is first tied to a function on bit vectors at every width; a form then completes with that function's result. -/

namespace Sys2Proof.Claim

open Sys2Proof.Machine

/-! ### Patterns and the numbers that they stand for -/

section
variable {n : Nat} (t : ITy) (a b : BitVec n)

theorem sextNat_toNat : sextNat n a.toNat = a.toInt := by
  rw [BitVec.toInt_eq_toNat_cond, sextNat, Nat.mod_eq_of_lt a.isLt]
  simp

theorem numB_signed {t : ITy} (h : ITy.signed t = true) : numB t a = a.toInt := if_pos h

theorem numB_unsigned {t : ITy} (h : ITy.signed t = false) : numB t a = a.toNat := by simp [numB, h]

theorem numOf_toNat : numOf (ITy.signed t) n a.toNat = numB t a := by
  rw [numOf, numB, sextNat_toNat, Nat.mod_eq_of_lt a.isLt]

theorem wrapInt_eq_toNat (n : Nat) (r : Int) : wrapInt n r = (BitVec.ofInt n r).toNat := by
  rw [BitVec.toNat_ofInt, wrapInt, Nat.cast_pow, Nat.cast_ofNat]

theorem ofInt_toNat : BitVec.ofInt n a.toNat = a := by
  rw [BitVec.ofInt_natCast, BitVec.ofNat_toNat, BitVec.setWidth_eq]

theorem ofInt_numB : BitVec.ofInt n (numB t a) = a := by
  cases h : ITy.signed t
  · rw [numB_unsigned a h, ofInt_toNat]
  · rw [numB_signed a h, BitVec.ofInt_toInt]

theorem ofInt_sub (p q : Int) : BitVec.ofInt n (p - q) = BitVec.ofInt n p - BitVec.ofInt n q := by
  rw [Int.sub_eq_add_neg, BitVec.ofInt_add, BitVec.ofInt_neg, BitVec.sub_eq_add_neg]

/-- R136: the numbers of a type of n bits lie at or above -2^n and below 2^n. -/
theorem numB_bounds : -2 ^ n ≤ numB t a ∧ numB t a < 2 ^ n := by
  have hpow : (0 : Int) < 2 ^ n := pow_pos two_pos n
  cases h : ITy.signed t
  · have hlt : (a.toNat : Int) < 2 ^ n := mod_cast a.isLt
    rw [numB_unsigned a h]
    constructor <;> linarith
  · have hlow := a.le_two_mul_toInt
    have hhigh := a.two_mul_toInt_lt
    rw [numB_signed a h]
    constructor <;> linarith

theorem extendTy_toNat (t : ITy) (a : BitVec (Forms.tyBits t)) : extendTy t a.toNat = extB t a := by
  rw [extendTy, extB, sextNat_toNat, BitVec.ofNat_toNat]
  rfl

end

/-! ### A stem of the model on bit vectors -/

/-- A stem of the model gives, at every width, the pattern and the flag that a function on bit vectors gives. -/
def Computes (fn : IntFn) (bv : BvFn) : Prop :=
  ∀ (t : ITy) (n : Nat) (a b c : BitVec n) (len : Nat),
    fn n (ITy.signed t) a.toNat b.toNat c.toNat len = ((bv t n a b c len).1.toNat, (bv t n a b c len).2)

theorem pat_eq_toNat (x : Ctx) (t : ITy) (o : Src) (l : Nat) : x.pat t o l = (opB x t (Forms.tyBits t) o l).toNat :=
  (BitVec.toNat_setWidth ..).symm

theorem intVal_eq_stem {fn : IntFn} {bv : BvFn} (h : Computes fn bv) (t : ITy) (x : Ctx) (l : Nat) :
    x.intVal t fn l = stem t bv x l := by
  simp only [Ctx.intVal, stem, pat_eq_toNat, h t, extendTy_toNat]

/-- The forms of a row complete with the row's function. -/
def RowResults (q : IntRow) : Prop := ∀ c t f, Results (q.1 c t f) c (Forms.wide t) (stem t q.2)

/-- R219: a form whose stem computes its row's function completes with it. -/
theorem rowResults_of_computes {q : IntRow} {fn : IntFn} (h : Computes fn q.2)
    (hexec : ∀ c t f s, exec (q.1 c t f) s = issue (q.1 c t f) s fun x s => s.intForm x c t fn := by intros; rfl) :
    RowResults q := by
  intro c t f s x hi
  have hval : (fun x l => x.intVal t fn l) = stem t q.2 := funext fun x => funext fun l => intVal_eq_stem h t x l
  have hnext : exec (q.1 c t f) s = .next (s.typed x c (Forms.wide t) (stem t q.2)) := by
    rw [hexec, issue_next hi, State.intForm, hval]
  obtain ⟨_, _, -, -, hhere, -⟩ := hi
  exact ⟨_, hnext, typed_spec hhere c _ _⟩

theorem computes_wrapFn (f : Int → Int → Int → Int) {g : ITy → (n : Nat) → BitVec n → BitVec n → BitVec n → BitVec n}
    (h : ∀ t n a b c, BitVec.ofInt n (f (numB t a) (numB t b) (numB t c)) = g t n a b c) :
    Computes (wrapFn f) fun t n a b c _ => (g t n a b c, none) := by
  intro t n a b c len
  simp only [wrapFn, numOf_toNat, wrapInt_eq_toNat, h]

theorem computes_patFn (f : Nat → Nat → Nat → Nat → Nat) {g : (n : Nat) → BitVec n → BitVec n → BitVec n → BitVec n}
    (h : ∀ n a b c, f n a.toNat b.toNat c.toNat = (g n a b c).toNat) :
    Computes (patFn f) fun _ n a b c _ => (g n a b c, none) := by
  intro t n a b c len
  simp only [patFn, h, Nat.mod_eq_of_lt (BitVec.isLt _)]

/-! ### Wrapping arithmetic (R137, R220) -/

theorem computes_mulhiFn :
    Computes mulhiFn fun t n a b _ _ => (BitVec.ofInt n ((numB t a * numB t b) / 2 ^ n), none) := by
  intro t n a b c len
  simp only [mulhiFn, numOf_toNat, wrapInt_eq_toNat]

/-- R220: the absolute value of the least number of a signed type is that number's own pattern. -/
theorem ofInt_natAbs_toInt {n : Nat} (a : BitVec n) : BitVec.ofInt n a.toInt.natAbs = if a.msb then -a else a := by
  rw [BitVec.msb_eq_toInt]
  by_cases h : a.toInt < 0
  · rw [Int.ofNat_natAbs_of_nonpos h.le, BitVec.ofInt_neg, BitVec.ofInt_toInt, decide_eq_true h, if_pos rfl]
  · rw [Int.natAbs_of_nonneg (not_lt.mp h), BitVec.ofInt_toInt, decide_eq_false h, if_neg Bool.false_ne_true]

theorem computes_absFn : Computes absFn fun t _ a _ _ _ => (if ITy.signed t && a.msb then -a else a, none) := by
  intro t n a b c len
  cases h : ITy.signed t
  · simp [absFn, h]
  · simp only [absFn, numOf, sextNat_toNat, wrapInt_eq_toNat, ofInt_natAbs_toInt, h, Bool.true_and, if_true]

theorem ofInt_min_numB {n : Nat} (t : ITy) (a b : BitVec n) :
    BitVec.ofInt n (min (numB t a) (numB t b)) = if numB t a ≤ numB t b then a else b := by
  rw [min_def, apply_ite (BitVec.ofInt n), ofInt_numB, ofInt_numB]

theorem ofInt_max_numB {n : Nat} (t : ITy) (a b : BitVec n) :
    BitVec.ofInt n (max (numB t a) (numB t b)) = if numB t a ≤ numB t b then b else a := by
  rw [max_def, apply_ite (BitVec.ofInt n), ofInt_numB, ofInt_numB]

theorem arithTable_results : ∀ q ∈ arithTable, RowResults q := by
  simp only [arithTable, List.forall_mem_cons]
  exact ⟨rowResults_of_computes (computes_wrapFn (fun p q _ => p + q) fun t _ _ _ _ => by
      rw [BitVec.ofInt_add, ofInt_numB, ofInt_numB]),
    rowResults_of_computes (computes_wrapFn (fun p q _ => p - q) fun t _ _ _ _ => by
      rw [ofInt_sub, ofInt_numB, ofInt_numB]),
    rowResults_of_computes (computes_wrapFn (fun p q _ => p * q) fun t _ _ _ _ => by
      rw [BitVec.ofInt_mul, ofInt_numB, ofInt_numB]),
    rowResults_of_computes computes_mulhiFn,
    rowResults_of_computes (computes_wrapFn (fun p q r => p * q + r) fun t _ _ _ _ => by
      rw [BitVec.ofInt_add, BitVec.ofInt_mul, ofInt_numB, ofInt_numB, ofInt_numB]),
    rowResults_of_computes (computes_wrapFn (fun p q _ => min p q) fun t _ a b _ => ofInt_min_numB t a b),
    rowResults_of_computes (computes_wrapFn (fun p q _ => max p q) fun t _ a b _ => ofInt_max_numB t a b),
    rowResults_of_computes computes_absFn,
    rowResults_of_computes (computes_wrapFn (fun p _ _ => -p) fun t _ _ _ _ => by rw [BitVec.ofInt_neg, ofInt_numB]),
    rowResults_of_computes (computes_patFn (fun _ a _ _ => a) fun _ _ _ _ => rfl),
    List.forall_mem_nil _⟩

/-! ### Logic, shifts and rotates (R140, R220) -/

theorem computes_shlFn : Computes shlFn fun _ _ a b _ _ => (a <<< b.toNat, none) := by
  intro t n a b c len
  have hshift : (a <<< b.toNat).toNat = if n ≤ b.toNat then 0 else a.toNat * 2 ^ b.toNat % 2 ^ n := by
    rw [BitVec.toNat_shiftLeft, Nat.shiftLeft_eq]
    split
    · next h => exact Nat.mod_eq_zero_of_dvd ((Nat.pow_dvd_pow 2 h).mul_left _)
    · rfl
  rw [shlFn, hshift]

/-- R140: a shift by a count beyond the width of a number leaves its sign alone, as the shift by the width does. -/
theorem div_two_pow_min {r : Int} {n : Nat} (hlow : -2 ^ n ≤ r) (hhigh : r < 2 ^ n) (k : Nat) : r / 2 ^ min k n = r / 2 ^ k := by
  rcases le_total k n with hk | hk
  · rw [min_eq_left hk]
  · have hpow : (2 : Int) ^ n ≤ 2 ^ k := pow_le_pow_right₀ one_le_two hk
    rw [min_eq_right hk]
    rcases lt_or_ge r 0 with hneg | hnonneg
    · rw [Int.ediv_eq_neg_one_of_neg_of_le hneg (by linarith), Int.ediv_eq_neg_one_of_neg_of_le hneg (by linarith)]
    · rw [Int.ediv_eq_zero_of_lt hnonneg hhigh, Int.ediv_eq_zero_of_lt hnonneg (hhigh.trans_le hpow)]

theorem ofInt_numB_div {n : Nat} (t : ITy) (a : BitVec n) (k : Nat) :
    BitVec.ofInt n (numB t a / 2 ^ k) = if ITy.signed t then a.sshiftRight k else a >>> k := by
  cases h : ITy.signed t
  · rw [numB_unsigned a h, if_neg Bool.false_ne_true]
    have hshift : (a.toNat : Int) / 2 ^ k = (a >>> k).toNat := by
      rw [BitVec.toNat_ushiftRight, Nat.shiftRight_eq_div_pow, Int.natCast_div, Nat.cast_pow, Nat.cast_ofNat]
    rw [hshift, ofInt_toNat]
  · rw [numB_signed a h, if_pos rfl, BitVec.sshiftRight, Int.shiftRight_eq_div_pow, Nat.cast_pow, Nat.cast_ofNat]

theorem computes_shrFn :
    Computes shrFn fun t _ a b _ _ => (if ITy.signed t then a.sshiftRight b.toNat else a >>> b.toNat, none) := by
  intro t n a b c len
  obtain ⟨hlow, hhigh⟩ := numB_bounds t a
  simp only [shrFn, numOf_toNat, wrapInt_eq_toNat, div_two_pow_min hlow hhigh, ofInt_numB_div]

/-- R220: a rotation puts the high bits of a pattern below its low bits. -/
theorem toNat_rotateLeft_of_lt {n k : Nat} (a : BitVec n) (hk : k < n) :
    (a.rotateLeft k).toNat = a.toNat * 2 ^ k % 2 ^ n + a.toNat / 2 ^ (n - k) := by
  have hsplit : 2 ^ n = 2 ^ (n - k) * 2 ^ k := by rw [← pow_add, Nat.sub_add_cancel hk.le]
  have hhigh : a.toNat / 2 ^ (n - k) < 2 ^ k := Nat.div_lt_of_lt_mul (hsplit ▸ a.isLt)
  rw [BitVec.toNat_rotateLeft, Nat.mod_eq_of_lt hk, Nat.shiftRight_eq_div_pow, Nat.shiftLeft_eq, hsplit, Nat.mul_mod_mul_right,
    ← Nat.shiftLeft_eq, ← Nat.shiftLeft_add_eq_or_of_lt hhigh]

theorem computes_rotFn : Computes rotFn fun _ n a b _ _ => (a.rotateLeft (b.toNat % n), none) := by
  intro t n a b c len
  rcases n.eq_zero_or_pos with rfl | hn
  · simp [rotFn, BitVec.eq_nil a]
  · have hrot := toNat_rotateLeft_of_lt a (Nat.mod_lt b.toNat hn)
    simp only [rotFn]
    rw [← Nat.mod_add_mod, ← hrot, Nat.mod_eq_of_lt (BitVec.isLt _)]

theorem toNat_append_eq_add {m n : Nat} (a : BitVec m) (b : BitVec n) : (a ++ b).toNat = a.toNat * 2 ^ n + b.toNat := by
  rw [BitVec.toNat_append, ← Nat.shiftLeft_add_eq_or_of_lt b.isLt, Nat.shiftLeft_eq]

theorem computes_fshlFn :
    Computes fshlFn fun _ n a b c _ => (((a ++ b) <<< (c.toNat % n)).extractLsb' n n, none) := by
  intro t n a b c len
  rw [fshlFn, BitVec.extractLsb'_toNat, BitVec.toNat_shiftLeft, toNat_append_eq_add, Nat.shiftLeft_eq, Nat.shiftRight_eq_div_pow,
    pow_add, Nat.mod_mul_right_div_self, Nat.mod_mod]

theorem computes_fshrFn :
    Computes fshrFn fun _ n a b c _ => (((a ++ b) >>> (c.toNat % n)).extractLsb' 0 n, none) := by
  intro t n a b c len
  rw [fshrFn, BitVec.extractLsb'_toNat, BitVec.toNat_ushiftRight, toNat_append_eq_add, Nat.shiftRight_zero, Nat.shiftRight_eq_div_pow]

theorem logicTable_results : ∀ q ∈ logicTable, RowResults q := by
  simp only [logicTable, List.forall_mem_cons]
  exact ⟨rowResults_of_computes (computes_patFn (fun _ a b _ => a &&& b) fun _ _ _ _ => rfl),
    rowResults_of_computes (computes_patFn (fun _ a b _ => a ||| b) fun _ _ _ _ => rfl),
    rowResults_of_computes (computes_patFn (fun _ a b _ => a ^^^ b) fun _ _ _ _ => rfl),
    rowResults_of_computes (computes_patFn (fun n a b _ => a &&& (2 ^ n - 1 - b)) fun _ _ _ _ => by
      rw [BitVec.toNat_and, BitVec.toNat_not]),
    rowResults_of_computes (computes_patFn (fun n a _ _ => 2 ^ n - 1 - a) fun _ _ _ _ => BitVec.toNat_not.symm),
    rowResults_of_computes computes_shlFn,
    rowResults_of_computes computes_shrFn,
    rowResults_of_computes computes_rotFn,
    rowResults_of_computes computes_fshlFn,
    rowResults_of_computes computes_fshrFn,
    List.forall_mem_nil _⟩

/-! ### Bit fields and bit counts (R220) -/

theorem computes_bfeFn : Computes bfeFn fun t n a b _ len =>
    let v : BitVec len := (a >>> b.toNat).truncate len
    (if ITy.signed t then v.signExtend n else v.zeroExtend n, none) := by
  intro t n a b c len
  have hfield : (if n ≤ b.toNat then 0 else a.toNat / 2 ^ b.toNat % 2 ^ len) = ((a >>> b.toNat).truncate len).toNat := by
    rw [BitVec.toNat_setWidth, BitVec.toNat_ushiftRight, Nat.shiftRight_eq_div_pow]
    split
    · next h => rw [Nat.div_eq_of_lt (a.isLt.trans_le (Nat.pow_le_pow_right two_pos h)), Nat.zero_mod]
    · rfl
  cases h : ITy.signed t
  · have hfits : ((a >>> b.toNat).truncate len).toNat < 2 ^ n := by
      rw [BitVec.toNat_setWidth]
      exact (Nat.mod_le ..).trans_lt (BitVec.isLt _)
    simp only [bfeFn, hfield, h, Bool.false_eq_true, if_false, BitVec.toNat_setWidth (n := len), Nat.mod_eq_of_lt hfits]
  · simp only [bfeFn, hfield, sextNat_toNat, wrapInt_eq_toNat, h, if_true]
    rfl

/-- R220: the mask of the lowest bits of a field. -/
theorem getLsbD_lowOnes (n len j : Nat) : ((1#n <<< len) - 1#n).getLsbD j = (decide (j < n) && decide (j < len)) := by
  rcases n.eq_zero_or_pos with rfl | hn
  · simp
  · have hone : (1#n <<< len) = BitVec.ofNat n (2 ^ len) := BitVec.eq_of_toNat_eq (by
      rw [BitVec.toNat_shiftLeft, Nat.shiftLeft_eq, BitVec.toNat_ofNat, BitVec.toNat_ofNat, Nat.mod_mul_mod, one_mul])
    rw [hone, BitVec.ofNat_sub_ofNat_of_le _ _ (Nat.one_lt_two_pow hn.ne') Nat.one_le_two_pow, BitVec.getLsbD_ofNat,
      Nat.testBit_two_pow_sub_one]

/-- R220: the mask of a field of len bits from bit p, cut off at the width. -/
theorem getLsbD_fieldMask (n len p i : Nat) :
    (((1#n <<< len) - 1#n) <<< p).getLsbD i = decide (p ≤ i ∧ i < min (p + len) n) := by
  rw [BitVec.getLsbD_shiftLeft, getLsbD_lowOnes, Bool.eq_iff_iff]
  simp only [Bool.and_eq_true, Bool.not_eq_true', decide_eq_true_eq, decide_eq_false_iff_not]
  omega

/-- Three fields of a number, one above another, are read each at its own bits. -/
theorem testBit_three_fields {p w x y z : Nat} (hx : x < 2 ^ p) (hy : y < 2 ^ w) (i : Nat) :
    (x + y * 2 ^ p + z * 2 ^ (p + w)).testBit i =
      if i < p then x.testBit i else if i < p + w then y.testBit (i - p) else z.testBit (i - (p + w)) := by
  have hsum : x + y * 2 ^ p + z * 2 ^ (p + w) = 2 ^ p * (2 ^ w * z + y) + x := by ring
  rw [hsum, Nat.testBit_two_pow_mul_add _ hx, Nat.testBit_two_pow_mul_add _ hy]
  split
  · rfl
  · have hlt : i - p < w ↔ i < p + w := by omega
    simp only [hlt, Nat.sub_sub]

/-- R220: a field of w bits from bit p of a number c, taken from the low bits of a. -/
theorem testBit_insertedField (a c p w i : Nat) :
    (c % 2 ^ p + a % 2 ^ w * 2 ^ p + c / 2 ^ (p + w) * 2 ^ (p + w)).testBit i =
      if p ≤ i ∧ i < p + w then a.testBit (i - p) else c.testBit i := by
  rw [testBit_three_fields (Nat.mod_lt _ (Nat.two_pow_pos p)) (Nat.mod_lt _ (Nat.two_pow_pos w)), Nat.testBit_mod_two_pow,
    Nat.testBit_mod_two_pow, Nat.testBit_div_two_pow]
  rcases lt_or_ge i p with hbelow | hfrom
  · simp [hbelow, hbelow.not_ge]
  · rcases lt_or_ge i (p + w) with hin | habove
    · have hoff : i - p < w := by omega
      simp [hfrom, hfrom.not_gt, hin, hoff]
    · simp [hfrom.not_gt, habove.not_gt, Nat.sub_add_cancel habove]

/-- R220: under the mask of a field the shifted pattern stands, elsewhere the old one. -/
theorem getLsbD_maskedField {n p w : Nat} (a c m : BitVec n) (hfit : p + w ≤ n)
    (hmask : ∀ i, m.getLsbD i = decide (p ≤ i ∧ i < p + w)) (i : Nat) :
    ((c &&& ~~~m) ||| ((a <<< p) &&& m)).getLsbD i = if p ≤ i ∧ i < p + w then a.getLsbD (i - p) else c.getLsbD i := by
  rw [BitVec.getLsbD_or, BitVec.getLsbD_and, BitVec.getLsbD_and, BitVec.getLsbD_not, BitVec.getLsbD_shiftLeft, hmask]
  by_cases h : p ≤ i ∧ i < p + w
  · have hi : i < n := by omega
    simp [h, h.1.not_gt, hi]
  · rcases lt_or_ge i n with hi | hi
    · simp [h, hi]
    · simp [h, BitVec.getLsbD_of_ge c i hi]

theorem computes_bfiFn : Computes bfiFn fun _ n a b c len =>
    let m : BitVec n := ((1#n <<< len) - 1#n) <<< b.toNat
    ((c &&& ~~~m) ||| ((a <<< b.toNat) &&& m), none) := by
  intro t n a b c len
  dsimp only [bfiFn]
  split
  · next h => simp [BitVec.shiftLeft_eq_zero h]
  · next h =>
    obtain ⟨w, hw⟩ : ∃ w, min (b.toNat + len) n = b.toNat + w := ⟨min (b.toNat + len) n - b.toNat, by omega⟩
    have hmask := getLsbD_fieldMask n len b.toNat
    rw [hw] at hmask
    refine Prod.ext (Nat.eq_of_testBit_eq fun i => ?_) rfl
    dsimp only
    rw [hw, Nat.add_sub_cancel_left, testBit_insertedField, BitVec.testBit_toNat, BitVec.testBit_toNat, BitVec.testBit_toNat,
      getLsbD_maskedField a c _ (by omega) hmask]

theorem computes_popcFn :
    Computes popcFn fun _ n a _ _ _ => (BitVec.ofNat n ((List.range n).countP fun i => a.getLsbD i), none) := by
  intro t n a b c len
  have hfits : (List.range n).countP (fun i => a.getLsbD i) < 2 ^ n :=
    List.countP_le_length.trans_lt (List.length_range ▸ Nat.lt_two_pow_self)
  rw [BitVec.toNat_ofNat, Nat.mod_eq_of_lt hfits, List.countP_eq_length_filter]
  rfl

/-- The first number of an interval that meets a test stands where the run of those that do not ends. -/
theorem find?_range'_getD {p q : Nat → Bool} (s m : Nat) (h : ∀ i, i < s + m → q i = !p i) :
    ((List.range' s m).find? p).getD (s + m) = s + ((List.range' s m).takeWhile q).length := by
  induction m generalizing s with
  | zero => rfl
  | succ m ih =>
    rw [List.range'_succ, List.find?_cons, List.takeWhile_cons, h s (by omega)]
    cases p s
    · have hrest := ih (s + 1) fun i hi => h i (by omega)
      simp only [Bool.not_false, if_true, List.length_cons]
      rw [← Nat.add_assoc, Nat.add_right_comm, hrest]
      omega
    · simp

theorem find?_range_getD {p q : Nat → Bool} (n : Nat) (h : ∀ i, i < n → q i = !p i) :
    ((List.range n).find? p).getD n = ((List.range n).takeWhile q).length := by
  simpa [List.range_eq_range'] using find?_range'_getD 0 n (by simpa using h)

theorem length_takeWhile_range_lt (p : Nat → Bool) (n : Nat) : ((List.range n).takeWhile p).length < 2 ^ n :=
  (List.takeWhile_sublist p).length_le.trans_lt (List.length_range ▸ Nat.lt_two_pow_self)

theorem computes_ctzFn :
    Computes ctzFn fun _ n a _ _ _ => (BitVec.ofNat n ((List.range n).takeWhile fun i => !a.getLsbD i).length, none) := by
  intro t n a b c len
  rw [BitVec.toNat_ofNat, Nat.mod_eq_of_lt (length_takeWhile_range_lt ..), ctzFn, find?_range_getD n fun _ _ => rfl]
  rfl

theorem computes_clzFn :
    Computes clzFn fun _ n a _ _ _ => (BitVec.ofNat n ((List.range n).takeWhile fun i => !a.getMsbD i).length, none) := by
  intro t n a b c len
  have hmsb : ∀ i, i < n → (!a.getMsbD i) = !a.toNat.testBit (n - 1 - i) := fun i hi => by
    rw [BitVec.getMsbD, decide_eq_true hi, Bool.true_and, BitVec.testBit_toNat]
  rw [BitVec.toNat_ofNat, Nat.mod_eq_of_lt (length_takeWhile_range_lt ..), clzFn, find?_range_getD n hmsb]

theorem testBit_add_two_pow {q n : Nat} (h : q < 2 ^ n) (i : Nat) : (q + 2 ^ n).testBit i = (q.testBit i || decide (n = i)) := by
  have hor : q + 2 ^ n = 2 ^ n ||| q := by simpa [Nat.add_comm] using Nat.two_pow_add_eq_or_of_lt h 1
  rw [hor, Nat.testBit_or, Nat.testBit_two_pow, Bool.or_comm]

/-- The powers of two at the numbers below n that meet a test add up to the pattern with those bits. -/
theorem testBit_foldl_two_pow (p : Nat → Bool) (n : Nat) :
    ((List.range n).filter p).foldl (fun q i => q + 2 ^ i) 0 < 2 ^ n ∧
      ∀ i, (((List.range n).filter p).foldl (fun q i => q + 2 ^ i) 0).testBit i = (decide (i < n) && p i) := by
  induction n with
  | zero => simp
  | succ n ih =>
    obtain ⟨hlt, hbits⟩ := ih
    rw [List.range_succ, List.filter_append, List.foldl_append]
    generalize ((List.range n).filter p).foldl (fun q i => q + 2 ^ i) 0 = q at hlt hbits
    have hlast : List.foldl (fun q i => q + 2 ^ i) q (List.filter p [n]) = if p n then q + 2 ^ n else q := by
      cases h : p n <;> simp [h]
    have hsucc : ∀ i, decide (i < n + 1) = (decide (i < n) || decide (n = i)) := fun i => by
      rw [← Bool.decide_or, decide_eq_decide]
      omega
    rw [hlast]
    cases h : p n
    · refine ⟨by simp only [Bool.false_eq_true, if_false]; omega, fun i => ?_⟩
      rw [if_neg Bool.false_ne_true, hbits, hsucc]
      by_cases hi : n = i
      · simp [← hi, h]
      · simp [hi]
    · refine ⟨by simp only [if_true]; omega, fun i => ?_⟩
      rw [if_pos rfl, testBit_add_two_pow hlt, hbits, hsucc]
      by_cases hi : n = i
      · simp [← hi, h]
      · simp [hi]

theorem computes_brevFn : Computes brevFn fun _ _ a _ _ _ => (a.reverse, none) := by
  intro t n a b c len
  obtain ⟨-, hbits⟩ := testBit_foldl_two_pow (fun i => a.toNat.testBit (n - 1 - i)) n
  refine Prod.ext (Nat.eq_of_testBit_eq fun i => ?_) rfl
  dsimp only [brevFn]
  rw [hbits, BitVec.testBit_toNat, BitVec.testBit_toNat, BitVec.getLsbD_reverse, BitVec.getMsbD]

theorem fieldTable_results : ∀ q ∈ fieldTable, RowResults q := by
  simp only [fieldTable, List.forall_mem_cons]
  exact ⟨rowResults_of_computes computes_bfeFn,
    rowResults_of_computes computes_bfiFn,
    rowResults_of_computes computes_popcFn,
    rowResults_of_computes computes_clzFn,
    rowResults_of_computes computes_ctzFn,
    rowResults_of_computes computes_brevFn,
    List.forall_mem_nil _⟩

/-! ### Division (R139) -/

theorem ofInt_tdiv_numB {n : Nat} (t : ITy) (a b : BitVec n) :
    BitVec.ofInt n ((numB t a).tdiv (numB t b)) = if ITy.signed t then a.sdiv b else a.udiv b := by
  cases h : ITy.signed t
  · rw [numB_unsigned a h, numB_unsigned b h, ← Int.ofNat_tdiv, if_neg Bool.false_ne_true]
    exact ofInt_toNat (a.udiv b)
  · rw [numB_signed a h, numB_signed b h]
    apply BitVec.eq_of_toInt_eq
    rw [BitVec.toInt_ofInt, if_pos rfl, BitVec.toInt_sdiv]

theorem ofInt_tmod_numB {n : Nat} (t : ITy) (a b : BitVec n) :
    BitVec.ofInt n ((numB t a).tmod (numB t b)) = if ITy.signed t then a.srem b else a.umod b := by
  cases h : ITy.signed t
  · rw [numB_unsigned a h, numB_unsigned b h, ← Int.ofNat_tmod, if_neg Bool.false_ne_true]
    exact ofInt_toNat (a.umod b)
  · rw [numB_signed a h, numB_signed b h, ← BitVec.toInt_srem, BitVec.ofInt_toInt, if_pos rfl]

theorem computes_divFn : Computes divFn fun t n a b _ _ =>
    if b = 0#n then (BitVec.allOnes n, some .dz) else (if ITy.signed t then a.sdiv b else a.udiv b, none) := by
  intro t n a b c len
  have hzero : b.toNat = 0 ↔ b = 0#n := BitVec.toNat_eq (y := 0#n).symm
  by_cases h : b = 0#n
  · simp [divFn, h]
  · simp only [divFn, hzero, numOf_toNat, wrapInt_eq_toNat, ofInt_tdiv_numB, h, if_false]

theorem computes_remFn : Computes remFn fun t n a b _ _ =>
    if b = 0#n then (a, some .dz) else (if ITy.signed t then a.srem b else a.umod b, none) := by
  intro t n a b c len
  have hzero : b.toNat = 0 ↔ b = 0#n := BitVec.toNat_eq (y := 0#n).symm
  by_cases h : b = 0#n
  · simp [remFn, h]
  · simp only [remFn, hzero, numOf_toNat, wrapInt_eq_toNat, ofInt_tmod_numB, h, if_false]

theorem divTable_results : ∀ q ∈ divTable, RowResults q := by
  simp only [divTable, List.forall_mem_cons]
  exact ⟨rowResults_of_computes computes_divFn,
    rowResults_of_computes computes_remFn,
    List.forall_mem_nil _⟩

/-- Settles O9: table by table, each row's stem computes the row's function and its forms complete with it. -/
theorem integerForms : Obligations.IntegerForms :=
  ⟨arithTable_results, logicTable_results, fieldTable_results, divTable_results⟩

/-! ### Saturation (R138) -/

/-- The least number of a type at a width (R136, R138). -/
def leastOf (t : ITy) (n : Nat) : Int := if ITy.signed t then -(2 ^ (n - 1)) else 0

/-- The greatest number of a type at a width (R136, R138). -/
def greatestOf (t : ITy) (n : Nat) : Int := if ITy.signed t then 2 ^ (n - 1) - 1 else 2 ^ n - 1

theorem leastOf_le_greatestOf (t : ITy) (n : Nat) : leastOf t n ≤ greatestOf t n := by
  have hpow : (1 : Int) ≤ 2 ^ n := one_le_pow₀ one_le_two
  have hhalf : (1 : Int) ≤ 2 ^ (n - 1) := one_le_pow₀ one_le_two
  rw [leastOf, greatestOf]
  split <;> linarith

theorem saturate_eq (t : ITy) (n : Nat) (r : Int) : saturate (ITy.signed t) n r =
    if r < leastOf t n then (leastOf t n, true) else if greatestOf t n < r then (greatestOf t n, true) else (r, false) := rfl

theorem clampB_eq (t : ITy) (n : Nat) (r : Int) : clampB t n r =
    (BitVec.ofInt n (max (leastOf t n) (min (greatestOf t n) r)),
      if leastOf t n ≤ r ∧ r ≤ greatestOf t n then none else some .satf) := rfl

/-- R138: below its type's least number, within the type, or above the greatest, a result becomes the nearest number. -/
theorem saturate_eq_clampB (t : ITy) (n : Nat) (r : Int) :
    (wrapInt n (saturate (ITy.signed t) n r).1, if (saturate (ITy.signed t) n r).2 then some Flag.satf else none) =
      ((clampB t n r).1.toNat, (clampB t n r).2) := by
  have hle := leastOf_le_greatestOf t n
  rw [wrapInt_eq_toNat, saturate_eq, clampB_eq]
  rcases lt_or_ge r (leastOf t n) with hlow | hlow
  · simp [hlow, hlow.not_ge, min_eq_right (hlow.le.trans hle), max_eq_left hlow.le]
  · rcases lt_or_ge (greatestOf t n) r with hhigh | hhigh
    · simp [hlow.not_gt, hhigh, hhigh.not_ge, min_eq_left hhigh.le, max_eq_right hle]
    · simp [hlow, hlow.not_gt, hhigh, hhigh.not_gt]

theorem computes_satFn (f : Int → Int → Int → Int) :
    Computes (satFn f) fun t n a b c _ => clampB t n (f (numB t a) (numB t b) (numB t c)) := by
  intro t n a b c len
  simp only [satFn, numOf_toNat]
  exact saturate_eq_clampB t n _

theorem computes_absSatFn :
    Computes absSatFn fun t n a _ _ _ => if ITy.signed t then clampB t n (numB t a).natAbs else (a, none) := by
  intro t n a b c len
  have hsat := computes_satFn (fun r _ _ => r.natAbs) t n a b c len
  cases h : ITy.signed t
  · simp [absSatFn, h]
  · rw [h] at hsat
    simpa [absSatFn, h] using hsat

theorem satTable_results : ∀ q ∈ satTable, RowResults q := by
  simp only [satTable, List.forall_mem_cons]
  exact ⟨rowResults_of_computes (computes_satFn fun p q _ => p + q),
    rowResults_of_computes (computes_satFn fun p q _ => p - q),
    rowResults_of_computes (computes_satFn fun p q _ => p * q),
    rowResults_of_computes (computes_satFn fun p q r => p * q + r),
    rowResults_of_computes computes_absSatFn,
    rowResults_of_computes (computes_satFn fun p _ _ => -p),
    List.forall_mem_nil _⟩

/-- Settles O10: every stem of the table saturates its exact result as `saturate_eq_clampB` says. -/
theorem saturatingForms : Obligations.SaturatingForms := satTable_results

end Sys2Proof.Claim
end
